-- ==== Sys2Proof/Word.lean ====
section
/-! DEFINITION. The word types of the machine (R18, R46, R66). Lane, slot and bit-field helpers are in
`Machine/Bits.lean`. -/

namespace Sys2Proof

/-- One byte. -/
abbrev Byte := BitVec 8
/-- A 32-bit register or lane slot (R18). -/
abbrev Word := BitVec 32
/-- A 64-bit value: an S pair, a lane pair, an M register, an address (R20, R49, R231). -/
abbrev DWord := BitVec 64
/-- A V register: lane `l` in bits [32l+31:32l] (R18). The same type holds the 128 data bytes of a line. -/
abbrev VReg := BitVec 1024
/-- An E register: slot `j` in bits [8j+7:8j] (R18). The same type holds the 8 sidecar bytes of a line. -/
abbrev EReg := BitVec 64
/-- One bit per lane: a K register, a lane predicate (R18). -/
abbrev Mask := BitVec 32
/-- A 96-bit instruction word (R66). -/
abbrev IWord := BitVec 96

end Sys2Proof
end

