-- ==== Sys2Proof/Machine/Cause.lean ====
section
/-! DEFINITION. The trap causes of R273. -/

namespace Sys2Proof.Machine

/-- The causes of R273, by name. -/
inductive Cause where
  | illegalOpcode | illegalOperand | illegalOrder | illegalPc | undersizedStall | nestOverflow | callOverflow
  | flag | nanScale | fpException | misaligned | permission | translation | poison | software | breakpoint
  | epilogueFault | fifoMisuse | resource
deriving DecidableEq, Repr

/-- The cause code of R273. -/
def Cause.code : Cause → Byte
  | .illegalOpcode => 0x01 | .illegalOperand => 0x02 | .illegalOrder => 0x03 | .illegalPc => 0x04
  | .undersizedStall => 0x05 | .nestOverflow => 0x06 | .callOverflow => 0x07 | .flag => 0x08
  | .nanScale => 0x09 | .fpException => 0x0A | .misaligned => 0x0B | .permission => 0x0C
  | .translation => 0x0D | .poison => 0x0E | .software => 0x0F | .breakpoint => 0x10
  | .epilogueFault => 0x11 | .fifoMisuse => 0x12 | .resource => 0x13

/-- A trap about to be taken: cause, detail and `%trapaddr` (R269, R273). -/
structure TrapInfo where
  cause : Cause
  detail : Byte := 0
  addr : DWord := 0
deriving DecidableEq, Repr

end Sys2Proof.Machine
end

