-- ==== Sys2Proof/Machine/Bits.lean ====
section
/-! DEFINITION. Bit-field, lane and table helpers: little-endian byte order (R5), the lane layout of a V register
and the slot layout of an E register (R18), and the canonical sorted table that memories and register files are
held in. -/

namespace Sys2Proof.Machine

/-! ### Fields -/

/-- `bits(x, hi, lo)` of the spec, on naturals. -/
def field (x lo n : Nat) : Nat := (x >>> lo) % 2 ^ n

/-- Bit `i` of a word. -/
def bit {n : Nat} (x : BitVec n) (i : Nat) : Bool := x.getLsbD i

/-- One bit as a natural. -/
def b2n (b : Bool) : Nat := if b then 1 else 0

/-- Packs `cnt` fields of `w` bits, field `i` being `f i`, field 0 lowest. -/
def packNat (w : Nat) (f : Nat → Nat) : Nat → Nat
  | 0 => 0
  | cnt + 1 => packNat w f cnt + (f cnt % 2 ^ w) <<< (w * cnt)

/-- The V register whose lane `l` is `f l` (R18). -/
def ofLanes (f : Nat → Word) : VReg := BitVec.ofNat 1024 (packNat 32 (fun l => (f l).toNat) 32)

/-- Lane `l` of a V register (R18). -/
def lane (v : VReg) (l : Nat) : Word := v.extractLsb' (32 * l) 32

/-- Byte `i` of a 128-byte line or V register. -/
def byteAt (v : VReg) (i : Nat) : Byte := v.extractLsb' (8 * i) 8

/-- The line whose byte `i` is `f i`. -/
def ofBytes128 (f : Nat → Byte) : VReg := BitVec.ofNat 1024 (packNat 8 (fun i => (f i).toNat) 128)

/-- Slot `j` of an E register (R18). -/
def slot (e : EReg) (j : Nat) : Byte := e.extractLsb' (8 * j) 8

/-- The E register whose slot `j` is `f j`. -/
def ofSlots (f : Nat → Byte) : EReg := BitVec.ofNat 64 (packNat 8 (fun j => (f j).toNat) 8)

/-- The mask whose bit `l` is `f l`. -/
def ofMask (f : Nat → Bool) : Mask := BitVec.ofNat 32 (packNat 1 (fun l => b2n (f l)) 32)

/-- The 1,024-bit mask that holds all 32 bits of every lane of `m`. -/
def laneBits (m : Mask) : BitVec 1024 :=
  BitVec.ofNat 1024 (packNat 32 (fun l => if m.getLsbD l then 0xFFFFFFFF else 0) 32)

/-- The 128-bit byte mask that holds the four bytes of every lane of `m`. -/
def laneByteMask (m : Mask) : BitVec 128 :=
  BitVec.ofNat 128 (packNat 4 (fun l => if m.getLsbD l then 0xF else 0) 32)

/-- The 1,024-bit mask that holds the eight bits of every byte of `m`. -/
def byteBits (m : BitVec 128) : BitVec 1024 :=
  BitVec.ofNat 1024 (packNat 8 (fun i => if m.getLsbD i then 0xFF else 0) 128)

/-- The 64-bit mask that holds the eight bits of every slot of `m`. -/
def slotBits (m : BitVec 8) : BitVec 64 :=
  BitVec.ofNat 64 (packNat 8 (fun i => if m.getLsbD i then 0xFF else 0) 8)

/-- `new` under `mask`, `old` elsewhere. -/
def merge {n : Nat} (mask old new : BitVec n) : BitVec n := (old &&& ~~~mask) ||| (new &&& mask)

/-- Splits a 64-bit value into its low and high words. -/
def lo32 (x : DWord) : Word := x.extractLsb' 0 32
/-- Splits a 64-bit value into its low and high words. -/
def hi32 (x : DWord) : Word := x.extractLsb' 32 32
/-- The 64-bit value with halves `hi` and `lo` (R20, R49). -/
def join64 (hi lo : Word) : DWord := hi ++ lo

/-- The `n` low bytes of a natural, lowest first (R5). -/
def bytesLE : Nat → Nat → List Byte
  | 0, _ => []
  | n + 1, x => BitVec.ofNat 8 x :: bytesLE n (x / 256)

/-- The natural that a little-endian byte list spells (R5). -/
def natLE : List Byte → Nat
  | [] => 0
  | b :: bs => b.toNat + 256 * natLE bs

/-- The numbers of the set bits of a mask, ascending. -/
def lanesOf (m : Mask) : List Nat := (List.range 32).filter (fun l => m.getLsbD l)

/-- Removes later repeats, keeping the first of each. -/
def dedup {α : Type} [DecidableEq α] : List α → List α
  | [] => []
  | a :: as => a :: (dedup as).filter (fun b => b ≠ a)

/-- Ascending insertion. -/
def insertNat (n : Nat) : List Nat → List Nat
  | [] => [n]
  | m :: ms => if n < m then n :: m :: ms else if n = m then m :: ms else m :: insertNat n ms

/-- The naturals of a list in ascending order, without repeats. -/
def sortNats (l : List Nat) : List Nat := l.foldl (fun acc n => insertNat n acc) []

/-- Replaces element `i` of a list. -/
def setAt {α : Type} (l : List α) (i : Nat) (f : α → α) : List α := l.modify i f

/-- Number of set bits. -/
def popNat : Nat → Nat → Nat
  | 0, _ => 0
  | n + 1, x => x % 2 + popNat n (x / 2)

/-- The signed difference of two counts modulo 2^n lies at or above 0 (R298). -/
def cntLe {n : Nat} (a b : BitVec n) : Bool := !((b - a).msb)

/-! ### Sorted tables -/

/-- The value at key `k` of a table whose unlisted keys hold `d`. -/
def tget {α : Type} (d : α) : List (Nat × α) → Nat → α
  | [], _ => d
  | (k', v) :: t, k => if k' = k then v else tget d t k

/-- The table without key `k`. -/
def tdel {α : Type} (k : Nat) (t : List (Nat × α)) : List (Nat × α) := t.filter (fun p => p.1 != k)

/-- The table with key `k` listed with `v`, in key order. -/
def tput {α : Type} (k : Nat) (v : α) : List (Nat × α) → List (Nat × α)
  | [] => [(k, v)]
  | (k', v') :: t =>
    if k' < k then (k', v') :: tput k v t
    else if k' = k then (k, v) :: t
    else (k, v) :: (k', v') :: t

/-- The table with key `k` holding `v`; a key that holds `d` is not listed. -/
def tset {α : Type} [DecidableEq α] (d : α) (k : Nat) (v : α) (t : List (Nat × α)) : List (Nat × α) :=
  if v = d then tdel k t else tput k v t

/-- The canonical form: keys strictly rising from above `lo`, no entry equal to the default. -/
def twfFrom {α : Type} [DecidableEq α] (d : α) : Option Nat → List (Nat × α) → Bool
  | _, [] => true
  | lo, (k, v) :: t =>
    (match lo with
     | none => true
     | some l => decide (l < k)) && decide (v ≠ d) && twfFrom d (some k) t

/-- The canonical form of a whole table. -/
def twf {α : Type} [DecidableEq α] (d : α) (t : List (Nat × α)) : Bool := twfFrom d none t

end Sys2Proof.Machine
end

