-- ==== Sys2Proof/Syntax.lean ====
section
/-! DEFINITION. Syntax of the machine's steps: the 191 instruction words of R84 by format (R73-R78), and the
119 steps of the other agents that the opcode table lists after them. `Instr` has one constructor per row of the
opcode table. An event constructor's operands name the object the step acts on and carry what comes from outside
the device. -/

namespace Sys2Proof

/-! ### Fields of an instruction word -/

/-- A 12-bit operand specifier (R69). `rsv` holds a value the table of R69 does not list. -/
inductive Opnd where
  | s (n : BitVec 10)    -- S register
  | v (n : BitVec 8)     -- V register
  | e (n : BitVec 8)     -- E register
  | a (n : BitVec 6)     -- A register
  | m (n : BitVec 6)     -- M register
  | k (n : BitVec 3)     -- K register
  | sp (n : BitVec 7)    -- special register index (R24)
  | imm (i : BitVec 7)   -- signed inline immediate
  | kc (n : BitVec 7)    -- kernel-constant word
  | none                 -- no operand, 0xFFF
  | rsv (raw : BitVec 12)
deriving DecidableEq, Repr

/-- The G field (R68): index 7 without negation is "always". -/
structure Guard where
  neg : Bool
  idx : BitVec 3
deriving DecidableEq, Repr

/-- The H field (R79). -/
structure Hints where
  wth : BitVec 5
  wpath : BitVec 3
  wo : Bool
  yld : Bool
  st : BitVec 4
deriving DecidableEq, Repr

/-- The TYPE codes of R73; `rsv` is the reserved code 0xF. -/
inductive Ty where
  | s32 | n32 | s64 | n64 | s16 | n16 | s8 | n8 | f32 | f16x2 | bf16x2 | f16 | bf16 | b32 | b64 | rsv
deriving DecidableEq, Repr

/-- The rounding field (R50, R73). -/
inductive Rnd where
  | rne | rz | rd | ru
deriving DecidableEq, Repr

/-- Format R (R73). -/
structure RForm where
  h : Hints
  g : Guard
  d : Opnd
  a : Opnd
  b : Opnd
  c : Opnd
  opx : BitVec 4
  sub : BitVec 4
  nc : Bool
  ab : Bool
  nb : Bool
  aa : Bool
  na : Bool
  sat : Bool
  rnd : Rnd
  ty : Ty
deriving DecidableEq, Repr

/-- Format I (R74): `bm` is the 12-bit B modifier field. -/
structure IForm where
  h : Hints
  g : Guard
  d : Opnd
  a : Opnd
  bm : BitVec 12
  x : Word
deriving DecidableEq, Repr

/-- Format M (R75): `rsv` is X[11:10]. -/
structure MForm where
  h : Hints
  g : Guard
  d : Opnd
  a : Opnd
  b : Opnd
  ofs : BitVec 20
  rsv : BitVec 2
  cp : BitVec 2
  scp : BitVec 3
  ord : BitVec 2
  wid : BitVec 3
deriving DecidableEq, Repr

/-- The compact layout of format M (R77). -/
structure CForm where
  h : Hints
  g : Guard
  d : Opnd
  a : Opnd
  b : Opnd
  ofs : BitVec 12
  ty : BitVec 4
  sub : BitVec 4
  rsv : BitVec 2
  cp : BitVec 2
  scp : BitVec 3
  ord : BitVec 2
  wid : BitVec 3
deriving DecidableEq, Repr

/-- Format J (R78). -/
structure JForm where
  h : Hints
  g : Guard
  d : Opnd
  a : Opnd
  b : Opnd
  x : Word
deriving DecidableEq, Repr

/-! ### What the events name -/

/-- A path counter of a warp (R32, R89). -/
inductive Path where
  | g | w | s | c | m | a | f
deriving DecidableEq, Repr

/-- A resident or saved block: its grid and linear index (R10, R347). -/
structure BlockId where
  grid : BitVec 32
  block : Nat
deriving DecidableEq, Repr

/-- A warp of a block (R9). -/
structure WarpId where
  grid : BitVec 32
  block : Nat
  warp : Nat
deriving DecidableEq, Repr

/-- A program agent: a warp or a block's matrix sequencer (R285). -/
inductive Agent where
  | warp (w : WarpId)
  | seq (b : BlockId)
deriving DecidableEq, Repr

/-- A barrier of R223 or R225. -/
inductive BarRef where
  | numbered (b : BlockId) (n : Nat)
  | cluster (grid : BitVec 32) (n : Nat)
  | die (grid : BitVec 32) (portion : Nat)
deriving DecidableEq, Repr

/-- The reasons of a CASTLE_ABORT that an `CASTLE_ABORT` step takes (R387, reasons 1, 2 and 4). -/
inductive AbortWhy where
  | destError
  | destUnreachable
  | leafWritten
deriving DecidableEq, Repr

/-- What a UALink request asks for (R402, R404). Line numbers are PA / 128 in the receiver's map. A SUB of 15 is
`ACAS`. A `read` names 64-B halves of its line; `readLong` is a read of `n` 64-B units from unit `half` on, `writeLong` a
write of two lines (R398). `poison` is the Castle engine's write of a poisoned line (R387). A `rookPut` and a
`rookGet` carry the lines that their requester translated (R214, R425, R431). `ring` and `params` are the bulk writes of a collective engine to
the next rank of its pod: a line of a part of the plan's data (R416, R418), and the plan's parameters (R419). `announce`,
`notice` and `ack` are the hub's messages of R407 and R409. -/
inductive PeerOp where
  | read (line : Nat) (halves : BitVec 2) (withSide : Bool)
  | readLong (half : Nat) (n : BitVec 3)
  | write (line : Nat) (data : VReg) (mask : BitVec 128) (side : EReg) (sideMask : BitVec 8) (bulk : Bool)
  | writeLong (line : Nat) (lo : VReg) (loMask : BitVec 128) (hi : VReg) (hiMask : BitVec 128) (bulk : Bool)
  | poison (line : Nat)
  | atomic (addr : Nat) (sub : BitVec 4) (ty : Ty) (val cmp : DWord)
  | reserve (station : BitVec 4) (bytes : Nat)
  | rookPut (rook : BitVec 16) (blk : Word) (step : BitVec 48) (contrib : BitVec 5) (lines : List Nat)
  | rookGet (rook : BitVec 16) (blk : Word) (step : BitVec 48) (lines : List Nat)
  | rookMirror (rook : BitVec 16) (blk : Word) (step : BitVec 48) (part : Nat) (data : VReg) (side : EReg)
  | ring (tag : Word) (part line : Nat) (data : VReg)
  | params (ps : List Nat)
  | announce (die : BitVec 2) (inc : BitVec 16)
  | notice (die : BitVec 2)
  | ack
deriving DecidableEq, Repr

/-- The device and die that a packet comes from, with the die's incarnation (R407). -/
structure PeerFrom where
  dev : BitVec 10
  die : BitVec 2
  inc : BitVec 16
deriving DecidableEq, Repr

/-- A UALink request as it arrives (R402, R407, R413): the sender's identifier and die with its incarnation, the
station it arrives on, the sender's number for it, and the key selector of its flits. -/
structure PeerReq where
  src : BitVec 10
  die : BitVec 2
  inc : BitVec 16
  station : BitVec 4
  id : Nat
  op : PeerOp
  ksel : Bool := false
deriving DecidableEq, Repr

/-- The status of a peer response (R403, R404). -/
inductive PeerStatus where
  | ok | error | drop
deriving DecidableEq, Repr

/-- The head of a response as it arrives: its status, and the key selector of its flits (R413). -/
structure PeerFlit where
  st : PeerStatus
  ksel : Bool := false
deriving DecidableEq, Repr

/-- A Waipor segment (R410, R411): header fields, payload as carried, and tag; and of the datagram around it the reach
port, the UDP ports and the IPv6 addresses. -/
structure Segment where
  data : Bool            -- TYPE 1 data, else acknowledgement only
  ksel : Bool
  flow : BitVec 16
  ctr : Word
  seq : Word
  ackb : Word
  sack : DWord
  payload : List Byte
  tag : BitVec 128
  port : BitVec 2 := 0
  srcUdp : BitVec 16 := 0
  dstUdp : BitVec 16 := 0
  srcIp : BitVec 128 := 0
  dstIp : BitVec 128 := 0
deriving DecidableEq, Repr

/-- The holder of keys that KTGT names (R413). -/
inductive KeyTarget where
  | station (s : BitVec 4)
  | flow (f : BitVec 10)
deriving DecidableEq, Repr

/-- Where a put or get of the Rook service comes from (R425, R431): operation `num` of a warp of this device, or
request `id` of a peer. -/
inductive RookSrc where
  | own (w : WarpId) (num : Nat)
  | peer (dev : BitVec 10) (id : Nat)
deriving DecidableEq, Repr

/-- A put or get as it reaches a region (R216, R425, R431); a peer's carries its lines. -/
structure RookOp where
  rook : BitVec 16
  blk : Word
  step : BitVec 48
  src : RookSrc
  lines : List Nat := []
deriving DecidableEq, Repr

/-- Where a corrected error is counted (R440, R448). -/
inductive CeSite where
  | hbm (d : BitVec 2)
  | sram (d : BitVec 2)
  | link (d : BitVec 2)
  | lpddr
deriving DecidableEq, Repr

/-- Where an uncorrectable error falls (R448). -/
inductive UeSite where
  | cleanL1 (core line : Nat)
  | cleanL2 (die line : Nat)
  | dirtyL1 (core line : Nat)
  | dirtyL2 (die line : Nat)
  | memory (line : Nat)
  | sreg (w : WarpId) (n : BitVec 10)
  | vreg (w : WarpId) (n : BitVec 8) (lane : BitVec 5)
  | kreg (w : WarpId) (n : BitVec 3)
  | ereg (w : WarpId) (n : BitVec 8) (high : Bool)
  | mreg (b : BlockId) (n : BitVec 6) (high : Bool)
  | acc (b : BlockId) (tile elem : Nat)
  | scratch (b : BlockId) (word : Nat)
  /-- Four sidecar slots of the scratchpad. -/
  | side (b : BlockId) (word : Nat)
  /-- A lane of entry `n` of a FIFO bank, the oldest entry being 0. -/
  | fifo (b : BlockId) (bank n : Nat) (lane : BitVec 5)
deriving DecidableEq, Repr

/-- A memory channel that refreshes (R340). -/
inductive Channel where
  | hbm (stack : BitVec 4) (pseudo : BitVec 6)
  | lpddr (n : BitVec 8)
deriving DecidableEq, Repr

/-! ### The steps -/

/-- One constructor per row of the opcode table: the instruction words in the table's order, then the steps of the
other agents. A step's operands are what comes from outside the device or names one of several operations of an agent;
a step without operands acts on the object that the turn names (`State.on`). -/
inductive Instr where
  | nop (f : JForm)
  | bra (f : JForm)
  | brz (f : JForm)
  | brnz (f : JForm)
  | jmpi (f : RForm)
  | call (f : JForm)
  | calli (f : RForm)
  | ret (f : JForm)
  | ifc (f : JForm)
  | elsec (f : JForm)
  | endif (f : JForm)
  | loop (f : JForm)
  | breakc (f : JForm)
  | endl (f : JForm)
  | exit (f : JForm)
  | yield (f : JForm)
  | sleep (f : IForm)
  | smov (f : RForm)
  | sli (f : IForm)
  | sadd (f : RForm)
  | ssub (f : RForm)
  | smul (f : RForm)
  | smulh (f : RForm)
  | smad (f : RForm)
  | sand (f : RForm)
  | sor (f : RForm)
  | sxor (f : RForm)
  | snot (f : RForm)
  | sshl (f : RForm)
  | sshr (f : RForm)
  | ssar (f : RForm)
  | smin (f : RForm)
  | smax (f : RForm)
  | scmp (f : RForm)
  | ssel (f : RForm)
  | sbfe (f : RForm)
  | sbfi (f : RForm)
  | spopc (f : RForm)
  | sclz (f : RForm)
  | slea (f : RForm)
  | sldk (f : IForm)
  | sfromv (f : RForm)
  | sfromk (f : RForm)
  | kfroms (f : RForm)
  | vmov (f : RForm)
  | vli (f : IForm)
  | vadd (f : RForm)
  | vsub (f : RForm)
  | vmul (f : RForm)
  | vmulh (f : RForm)
  | vmad (f : RForm)
  | vand (f : RForm)
  | vor (f : RForm)
  | vxor (f : RForm)
  | vnot (f : RForm)
  | vshl (f : RForm)
  | vshr (f : RForm)
  | vsar (f : RForm)
  | vmin (f : RForm)
  | vmax (f : RForm)
  | vabs (f : RForm)
  | vcmp (f : RForm)
  | vsel (f : RForm)
  | vbfe (f : RForm)
  | vbfi (f : RForm)
  | vpopc (f : RForm)
  | vclz (f : RForm)
  | vbrev (f : RForm)
  | vlea (f : RForm)
  | vdot4 (f : RForm)
  | vprmb (f : RForm)
  | vfroms (f : RForm)
  | klogic (f : RForm)
  | fadd (f : RForm)
  | fsub (f : RForm)
  | fmul (f : RForm)
  | ffma (f : RForm)
  | fmin (f : RForm)
  | fmax (f : RForm)
  | fcmp (f : RForm)
  | frcp (f : RForm)
  | frsq (f : RForm)
  | fsqrt (f : RForm)
  | fexp2 (f : RForm)
  | flog2 (f : RForm)
  | fsinp (f : RForm)
  | fcosp (f : RForm)
  | ftanh (f : RForm)
  | fscl (f : RForm)
  | frnd (f : RForm)
  | ffrac (f : RForm)
  | fclass (f : RForm)
  | fdot2 (f : RForm)
  | ferf (f : RForm)
  | cvt (f : RForm)
  | cvtp (f : RForm)
  | mxpk (f : RForm)
  | mxup (f : RForm)
  | qnt (f : RForm)
  | qnta (f : RForm)
  | accrd (f : RForm)
  | accwr (f : RForm)
  | emov (f : RForm)
  | eset (f : RForm)
  | eget (f : RForm)
  | eadd (f : RForm)
  | eamax (f : RForm)
  | mxcvt (f : RForm)
  | echk (f : RForm)
  | qswz (f : RForm)
  | qbcst (f : RForm)
  | shfl (f : RForm)
  | shflx (f : RForm)
  | shfld (f : RForm)
  | ballot (f : RForm)
  | vote (f : RForm)
  | mbcnt (f : RForm)
  | cmprs (f : RForm)
  | wred (f : RForm)
  | wscan (f : RForm)
  | ldg (f : MForm)
  | stg (f : MForm)
  | lds (f : MForm)
  | sts (f : MForm)
  | ldcl (f : MForm)
  | stcl (f : MForm)
  | ldmx (f : MForm)
  | stmx (f : MForm)
  | sldg (f : MForm)
  | sstg (f : MForm)
  | cmpst (f : MForm)
  | expld (f : MForm)
  | fifopop (f : MForm)
  | fifopush (f : MForm)
  | pref (f : MForm)
  | atom (f : CForm)
  | acas (f : CForm)
  | red (f : CForm)
  | redd (f : CForm)
  | rflush (f : JForm)
  | fence (f : JForm)
  | fencex (f : JForm)
  | waitc (f : RForm)
  | rdcnt (f : RForm)
  | cpyk (f : RForm)
  | gsk (f : RForm)
  | colk (f : RForm)
  | rkput (f : RForm)
  | rkget (f : RForm)
  | migh (f : RForm)
  | launch (f : RForm)
  | bar (f : RForm)
  | bara (f : RForm)
  | barw (f : RForm)
  | cbara (f : RForm)
  | cbarw (f : RForm)
  | dbara (f : RForm)
  | dbarw (f : RForm)
  | boinit (f : RForm)
  | boarv (f : RForm)
  | boexp (f : RForm)
  | bowait (f : RForm)
  | mma (f : RForm)
  | mmag (f : RForm)
  | azero (f : RForm)
  | alds (f : CForm)
  | asts (f : CForm)
  | astq (f : CForm)
  | mbara (f : RForm)
  | mbarw (f : RForm)
  | mloop (f : JForm)
  | mnext (f : JForm)
  | mbra (f : JForm)
  | mend (f : JForm)
  | mmov (f : RForm)
  | madd (f : RForm)
  | mlds (f : CForm)
  | mcpyk (f : RForm)
  | mwaitc (f : RForm)
  | mfencex (f : JForm)
  | sread (f : RForm)
  | swrite (f : RForm)
  | trap (f : IForm)
  | brk (f : IForm)
  | rte (f : JForm)
  | ctrget (f : RForm)
  | ctrset (f : RForm)
  | rng (f : RForm)
  | clock (f : RForm)
  | gtime (f : RForm)
  | pmrd (f : RForm)
  | loadDataReturn (w : WarpId) (i : Nat)
  | storePerformed (a : Agent) (i : Nat)
  | scratchOpComplete (a : Agent) (i : Nat)
  | atomicComplete (w : WarpId) (i : Nat)
  | engineRequestRead (a : Agent)
  | fabricAnswer (w : WarpId) (peerStatus : Byte)
  | instructionFetchReturn (a : Agent)
  | barrierTimeout (b : BarRef)
  | fifoWaitTimeout (w : WarpId) (i : Nat)
  | tileWriteComplete (b : BlockId) (tile : Nat)
  | reddMerge (g : BitVec 32) (slice : Nat)
  | l2FillLand (die : Nat) (line : Nat)
  | hostCxlWrite (line : Nat) (data : VReg) (mask : BitVec 128)
  | contextDescWrite (c : BitVec 4) (off : BitVec 6) (wide : Bool) (val : DWord)
  | castleAbort (i : Nat) (why : AbortWhy) (unreadable : List Nat)
  | peerRequestReceive (r : PeerReq)
  | peerResponseReceive (id : Nat) (st : PeerFlit) (data : VReg) (side : EReg)
  | peerRequestTimeout (id : Nat)
  | bulkReservationRequest (src : PeerFrom) (station : BitVec 4) (bytes : Nat)
  | incarnationAnnounce (dev : BitVec 10) (d : BitVec 2) (inc : BitVec 16)
  | quiesceNotice (dev : BitVec 10) (d : BitVec 2)
  | waiporSegmentSend (f : BitVec 10) (seq : Word)
  | waiporSegmentReceive (f : BitVec 10) (seg : Segment)
  | waiporRtoExpire (f : BitVec 10) (seq : Word)
  | keyInstallTimeout (t : KeyTarget)
  | collectiveComplete (i : Nat) (why : Byte)
  | rookPutArrive (p : RookOp) (contrib : BitVec 5)
  | rookStagingDone (i : BitVec 4) (blk : Word) (c : BitVec 5) (peerData : Option (List Word))
  | rookGetArrive (p : RookOp)
  | rookGetTimeout (i : BitVec 4) (n : Nat)
  | rookRegionWrite (i : BitVec 4) (off : BitVec 7) (wide : Bool) (val : DWord)
  | powerStateCmd (d : BitVec 2) (tgt : BitVec 3)
  | thermalHalt (d : BitVec 2) (temp : BitVec 12)
  | correctedError (k : CeSite)
  | uncorrectableError (k : UeSite)
  | boot (slot0 slot1 : Bool) (good : BitVec 5)
  | getCertificate (slot : Byte)
  | challenge (nonce : BitVec 256)
  | getMeasurements (index : Byte) (nonce : BitVec 256)
  | registerWrite (off : BitVec 25) (wide : Bool) (val : DWord)
  | unassignedOpcodeIssue (raw : IWord)
  | memoryRefresh (ch : Channel)
  | hostCxlRead (line : Nat)
  | stationLinkChange (st : BitVec 4) (up : Bool)
  | quiesceAcknowledge (dev : BitVec 10)
  | pathMComplete
  | warpSlotFree
  | blockEnd
  | sleepExpire
  | bowaitTimeout
  | pendingTrapTaken
  | warpReissue
  | faultRecordWrite
  | faultAnswerService
  | faultAnswerReject
  | matrixTurn
  | gridComplete
  | queueEnable
  | queueDisable
  | launchSlotSnoop
  | gridLaunch
  | blockPlace
  | gridPreempt
  | warpQuietStop
  | warpForcedStop
  | sequencerStop
  | blockSave
  | saveComplete
  | gridRestore
  | gridEnd
  | retrainRequest
  | retrainCancel
  | retrainActivate
  | retrainDone
  | bankToOff
  | bankToCache
  | bankToFifo
  | bankModeChange
  | crossDieWriteApply
  | remoteLineFetch
  | tlbFlushContext
  | tlbFlushPage
  | tlbFlushDone
  | castleMove
  | castleAbortCmd
  | checkpoint
  | hotnessSync
  | hotnessDecay
  | castleLineCopy
  | lineLockTimeout
  | castleMoveComplete
  | completionLockTimeout
  | castleEventWrite
  | checkpointDone
  | rollbackRecovery
  | gridRelaunch
  | reservationWindowExpire
  | dieReset
  | keyInstall
  | copyLineWritten
  | gatherRowDone
  | rookDeadline
  | rookUpdateDone
  | rookMirrorDone
  | rookMirrorRetry
  | rookPublishDone
  | rookActivateMirror
  | rookForcePartial
  | rookForceSkip
  | rookReset
  | powerTransitionDone
  | softFuse
  | devtimeSet
  | dieFault
  | getVersion
  | getCapabilities
  | negotiateAlgorithms
  | getDigests
  | reservationWindowStart
deriving DecidableEq, Repr

end Sys2Proof
end

