-- ==== Sys2Proof/Machine/IntOps.lean ====
section
/-! DEFINITION. Integer and bit operations shared by the uniform and vector groups (R114-R122, R133-R140). Operands
and results are the low w bits of a value, as naturals. -/

namespace Sys2Proof.Machine

/-- Width of a type (R114). -/
def tyW : Ty → Nat
  | .s64 | .n64 | .b64 => 64
  | .s16 | .n16 | .f16 | .bf16 => 16
  | .s8 | .n8 => 8
  | _ => 32

/-- Signed types (R49). -/
def tySigned : Ty → Bool
  | .s8 | .s16 | .s32 | .s64 => true
  | _ => false

def tyWide (t : Ty) : Bool := tyW t == 64

/-- TYPE code (R73). -/
def tyCode : Ty → Nat
  | .s32 => 0 | .n32 => 1 | .s64 => 2 | .n64 => 3 | .s16 => 4 | .n16 => 5 | .s8 => 6 | .n8 => 7
  | .f32 => 8 | .f16x2 => 9 | .bf16x2 => 10 | .f16 => 11 | .bf16 => 12 | .b32 => 13 | .b64 => 14 | .rsv => 15

/-- The signed reading of the low `w` bits. -/
def sval (w x : Nat) : Int :=
  let y := x % 2 ^ w
  if 2 ^ w ≤ 2 * y then (y : Int) - (2 ^ w : Nat) else (y : Int)

/-- A value of type `t` as an integer (R116): signed for s types, unsigned otherwise. -/
def tyVal (t : Ty) (x : Nat) : Int := if tySigned t then sval (tyW t) x else ((x % 2 ^ tyW t : Nat) : Int)

/-- Two's complement wrap to `w` bits. -/
def wrapW (w : Nat) (e : Int) : Nat := (e % ((2 ^ w : Nat) : Int)).toNat

/-- Clamp to a range given by signedness and width (R116). -/
def clampW (signed : Bool) (w : Nat) (e : Int) : Nat :=
  let lo : Int := if signed then -((2 ^ (w - 1) : Nat) : Int) else 0
  let hi : Int := if signed then ((2 ^ (w - 1) : Nat) : Int) - 1 else ((2 ^ w : Nat) : Int) - 1
  wrapW w (if e < lo then lo else if hi < e then hi else e)

/-- The result r of R116 from the exact value e. -/
def ireduce (t : Ty) (sat : Bool) (e : Int) : Nat :=
  if sat then clampW (tySigned t) (tyW t) e else wrapW (tyW t) e

/-- The exact-value operations of R116. -/
inductive IOp where
  | add | sub | mul | mad | mulh | and | or | xor | not | min | max
deriving DecidableEq, Repr

def iop (o : IOp) (t : Ty) (sat : Bool) (a b c : Nat) : Nat :=
  let w := tyW t
  let va := tyVal t a
  let vb := tyVal t b
  match o with
  | .add => ireduce t sat (va + vb)
  | .sub => ireduce t sat (va - vb)
  | .mul => ireduce t sat (va * vb)
  | .mad => ireduce t sat (va * vb + tyVal t c)
  | .mulh => wrapW w ((va * vb) / ((2 ^ w : Nat) : Int))
  | .and => (a &&& b) % 2 ^ w
  | .or => (a ||| b) % 2 ^ w
  | .xor => (a ^^^ b) % 2 ^ w
  | .not => (2 ^ w - 1) - a % 2 ^ w
  | .min => wrapW w (if vb < va then vb else va)
  | .max => wrapW w (if va < vb then vb else va)

/-- The shifts of R117. -/
inductive ShOp where
  | shl | shr | sar
deriving DecidableEq, Repr

def ishift (o : ShOp) (w a k : Nat) : Nat :=
  let a := a % 2 ^ w
  let neg := decide (2 ^ w ≤ 2 * a)
  match o with
  | .shl => if w ≤ k then 0 else (a <<< k) % 2 ^ w
  | .shr => if w ≤ k then 0 else a >>> k
  | .sar =>
    if w ≤ k then (if neg then 2 ^ w - 1 else 0)
    else if neg then (a >>> k) + (2 ^ w - 2 ^ (w - k)) else a >>> k

/-- Leading zeros among `w` bits (R118). -/
def iclz (w a : Nat) : Nat := let a := a % 2 ^ w; if a = 0 then w else w - 1 - Nat.log2 a

/-- Ones among `w` bits (R118). -/
def ipopc (w a : Nat) : Nat := popNat w a

/-- Bit reversal of `w` bits (R135). -/
def ibrev (w a : Nat) : Nat := packNat 1 (fun i => a >>> (w - 1 - i)) w

/-- The conditions of R119 on integers. -/
def icond (cc : Nat) (a b : Int) : Bool :=
  match cc with
  | 0 => a == b
  | 1 => a != b
  | 2 => decide (a < b)
  | 3 => decide (a ≤ b)
  | 4 => decide (b < a)
  | _ => decide (b ≤ a)

/-- SBFE of R121. -/
def ibfe (t : Ty) (a b c : Nat) : Nat :=
  let w := tyW t
  let p := min b w
  let n := min c (w - p)
  let f := field a p n
  if n = 0 then 0 else if tySigned t then wrapW w (sval n f) else f

/-- SBFI of R121. -/
def ibfi (t : Ty) (a b c : Nat) : Nat :=
  let w := tyW t
  let b := b % 2 ^ w
  let p := min (c % 256) w
  let n := min (c / 256 % 256) (w - p)
  b - field b p n * 2 ^ p + (a % 2 ^ n) * 2 ^ p

/-- |a| of R134. -/
def iabs (t : Ty) (sat : Bool) (a : Nat) : Nat :=
  let v := tyVal t a
  ireduce t sat (if v < 0 then -v else v)

/-- A byte permute of R138. -/
def iprmb (a b c : Nat) : Nat :=
  packNat 8 (fun i =>
    let s := field c (4 * i) 4
    let k := s % 8
    let v := if k < 4 then field a (8 * k) 8 else field b (8 * (k - 4)) 8
    if 8 ≤ s then (if 128 ≤ v then 0xFF else 0) else v) 4

/-- VDOT4 of R140 on lane values; `c` is the 32-bit addend. -/
def idot4 (signed mix sat : Bool) (a b c : Nat) : Nat :=
  let rs := signed || mix
  let x := fun i => let q := field a (8 * i) 8; if signed then sval 8 q else (q : Int)
  let y := fun i => let q := field b (8 * i) 8; if signed != mix then sval 8 q else (q : Int)
  let e := x 0 * y 0 + x 1 * y 1 + x 2 * y 2 + x 3 * y 3 + (if rs then sval 32 c else ((c % 2 ^ 32 : Nat) : Int))
  if sat then clampW rs 32 e else wrapW 32 e

/-- A result of type `t` as the full register writes it (R115, R130): sign-extended for s types below 32 bits. -/
def extReg (t : Ty) (r : Nat) : Nat :=
  if tyW t < 32 then (if tySigned t then wrapW 32 (sval (tyW t) r) else r % 2 ^ tyW t) else r

end Sys2Proof.Machine
end

