-- ==== Sys2Proof/Machine/Shape.lean ====
section
/-! DEFINITION. The check order of R90, rows 1 to 7: what a row of the instruction tables demands of a word, and the
first check that fails. A `Shape` is one instruction word laid against its table row. -/

namespace Sys2Proof.Machine

/-- A register of a warp or of a matrix stream (R18). -/
inductive RegId where
  | v (n : Nat) | e (n : Nat) | s (n : Nat) | k (n : Nat) | m (n : Nat)
deriving DecidableEq, Repr

/-- Operand classes (R69). -/
inductive Cls where
  | s | v | e | a | m | k | sp | imm | kc
deriving DecidableEq, Repr

def opndCls : Opnd → Option Cls
  | .s _ => some .s | .v _ => some .v | .e _ => some .e | .a _ => some .a | .m _ => some .m
  | .k _ => some .k | .sp _ => some .sp | .imm _ => some .imm | .kc _ => some .kc
  | .none => none | .rsv _ => none

/-- The streams an instruction is legal in (R85). -/
inductive Stream where
  | warp | seq | both
deriving DecidableEq, Repr

/-- What an instruction does with G: a per-lane guard or condition (read), accepted but without effect, required to
be "always", or not looked at. -/
inductive GuardUse where
  | lanes | noEffect | always | ignored
deriving DecidableEq, Repr

/-- What a table row says of one operand slot. `cls = []`: the slot is not used. `n` registers (or constant words)
from a number that is a multiple of `al`; `withE`: the paired E registers too. -/
structure SlotSpec where
  cls : List Cls
  opt : Bool := false
  n : Nat := 1
  al : Nat := 1
  withE : Bool := false
  rd : Bool := true
  wr : Bool := false
deriving DecidableEq, Repr

/-- The declared counts that R19 and R20 check against. -/
structure Declared where
  nV : Nat
  nS : Nat
  nA : Nat
  nM : Nat
deriving DecidableEq, Repr

/-- The largest counts a kernel can declare (R18). -/
def Declared.most : Declared := ⟨256, 1024, 64, 64⟩

/-- An instruction word against its table row. -/
structure Shape where
  stream : Stream := .warp
  guard : GuardUse := .lanes
  h : Hints
  g : Guard
  /-- Latency of the fixed-latency register result, if the instruction has one (R88). -/
  lat : Option Nat := none
  /-- The path of a variable-latency instruction (R89). -/
  path : Option Path := none
  /-- Row 4: modifier bits and codes. -/
  modOk : Bool := true
  d : Opnd := .none
  a : Opnd := .none
  b : Opnd := .none
  c : Opnd := .none
  ds : SlotSpec := { cls := [] }
  as : SlotSpec := { cls := [] }
  bs : SlotSpec := { cls := [] }
  cs : SlotSpec := { cls := [] }
  /-- Row 5 of `SREAD` and `SWRITE`: an access right of R24 that the named special register lacks. -/
  spBad : Bool := false
  /-- Row 6: order against access kind (R76). -/
  ordOk : Bool := true
  /-- Row 7: the signed instruction count of a format-J transfer (R78). -/
  offs : Option Word := none
deriving DecidableEq, Repr

/-- The special registers of R24. -/
def spListed (n : Nat) : Bool := n ≤ 0x16

/-- A specifier value that R69 reserves, or a special-register index that R24 does not list. -/
def opndReserved : Opnd → Bool
  | .rsv _ => true
  | .sp n => !(spListed n.toNat)
  | _ => false

/-- The registers that an operand names, `n` of them, with the paired E registers under `withE`. -/
def opndRegs (sp : SlotSpec) : Opnd → List RegId
  | .s n => (List.range sp.n).map (fun i => .s (n.toNat + i))
  | .v n => (List.range sp.n).map (fun i => .v (n.toNat + i)) ++
      (if sp.withE then (List.range sp.n).map (fun i => .e (n.toNat + i)) else [])
  | .e n => (List.range sp.n).map (fun i => .e (n.toNat + i))
  | .k n => [.k n.toNat]
  | .m n => [.m n.toNat]
  | _ => []

/-- The declared-count check of row 5 (R19, R20, R72). -/
def countOk (dc : Declared) (sp : SlotSpec) : Opnd → Bool
  | .s n => n.toNat % sp.al == 0 && decide (n.toNat + sp.n ≤ dc.nS)
  | .v n => n.toNat % sp.al == 0 && decide (n.toNat + sp.n ≤ dc.nV)
  | .e n => n.toNat % sp.al == 0 && decide (n.toNat + sp.n ≤ dc.nV)
  | .a n => decide (n.toNat < dc.nA)
  | .m n => decide (n.toNat < dc.nM)
  | .kc n => n.toNat % sp.al == 0 && decide (n.toNat + sp.n ≤ 128)
  | _ => true

/-- Row 5 on one slot: the detail of the first failing check. A special register in a slot that does not admit one
fails the class check, be the slot used or not (R24). -/
def slotCheck (dc : Declared) (sp : SlotSpec) (o : Opnd) : Option Byte :=
  if opndReserved o then some 0x01
  else match opndCls o with
    | none => if sp.cls.isEmpty || sp.opt then none else some 0x03
    | some cl =>
      if sp.cls.isEmpty then some (if cl = .sp then 0x02 else 0x03)
      else if !(sp.cls.contains cl) then some 0x02
      else if countOk dc sp o then none else some 0x04

/-- The G field's check of row 2 (R68, R102). -/
def guardOk (u : GuardUse) (inSeq : Bool) (g : Guard) : Bool :=
  match u with
  | .ignored => true
  | .always => !g.neg && g.idx == 7
  | _ => if inSeq then !g.neg && g.idx == 7 else !(g.neg && g.idx == 7)

/-- The wait-path codes that name a counter of the stream (R80, R232). -/
def wpathOk (inSeq : Bool) (c : BitVec 3) : Bool :=
  if inSeq then c == 0 || c == 2 || c == 3 || c == 4 else true

/-- The H field's check of row 3 (R79, R80). -/
def hintsOk (inSeq : Bool) (lat : Option Nat) (h : Hints) : Bool :=
  !(h.wpath == 0 && h.wth != 0) && !(h.wo && lat.isNone) && wpathOk inSeq h.wpath

/-- The PC of the next slot (R81). -/
def nextPc (pc : DWord) : DWord := if pc.toNat % 128 = 108 then pc + 20 else pc + 12

/-- A legal PC (R81). -/
def legalPc (pc : DWord) : Bool := decide (pc.toNat < 2 ^ 57) && pc.toNat % 128 % 12 == 0 && decide (pc.toNat % 128 < 120)

/-- The slot index of a legal PC (R78). -/
def slotIdx (pc : DWord) : Nat := pc.toNat / 128 * 10 + pc.toNat % 128 / 12

/-- The target of a format-J transfer (R78), before the range check. -/
def jTarget (pc : DWord) (x : Word) : Int :=
  let t : Int := (slotIdx pc : Int) + 1 + x.toInt
  128 * (t / 10) + 12 * (t % 10)

def jTargetOk (pc : DWord) (x : Word) : Bool :=
  let t := jTarget pc x
  decide (0 ≤ t) && decide (t < (2 ^ 57 : Nat))

def jTargetPc (pc : DWord) (x : Word) : DWord := BitVec.ofInt 64 (jTarget pc x)

/-- Rows 1 to 7 of R90 on a shape: the trap of the first failing check. -/
def Shape.check (sh : Shape) (inSeq : Bool) (dc : Declared) (pc : DWord) : Option TrapInfo :=
  let ill (x : Byte) : Option TrapInfo := some { cause := .illegalOperand, detail := x }
  if (sh.stream == .warp && inSeq) || (sh.stream == .seq && !inSeq) then
    some { cause := .illegalOpcode, detail := 0x01 }
  else if !(guardOk sh.guard inSeq sh.g) then ill 0x07
  else if !(hintsOk inSeq sh.lat sh.h) then ill 0x06
  else if !sh.modOk then ill 0x05
  else match slotCheck dc sh.ds sh.d with
    | some x => ill x
    | none =>
    if sh.spBad then ill 0x02 else
    match slotCheck dc sh.as sh.a with
    | some x => ill x
    | none => match slotCheck dc sh.bs sh.b with
      | some x => ill x
      | none => match slotCheck dc sh.cs sh.c with
        | some x => ill x
        | none =>
          if !sh.ordOk then some { cause := .illegalOrder }
          else match sh.offs with
            | some x =>
              if jTargetOk pc x then none
              else some { cause := .illegalPc, detail := 0x01, addr := jTargetPc pc x }
            | none => none

/-- The registers a shape reads through one slot. -/
def slotReads (sp : SlotSpec) (o : Opnd) : List RegId := if sp.rd then opndRegs sp o else []
/-- The registers a shape writes through one slot. -/
def slotWrites (sp : SlotSpec) (o : Opnd) : List RegId := if sp.wr then opndRegs sp o else []

end Sys2Proof.Machine
end

