-- ==== Sys2Proof/Machine/Entries.lean ====
section
/-! DEFINITION. The instruction tables of groups 0 to 3 and 6 to 9 and B as shapes (R101, R114, R132, R144, R194,
R204, R207, R210-R214, R222, R260): for each instruction the operand classes, widths and permitted fields. Groups 4,
5 and A are in `EntriesMx.lean`. -/

namespace Sys2Proof.Machine

/-! ### Type sets (R114, R143) -/

def tyInt : List Ty := [.s32, .n32, .s64, .n64, .s16, .n16, .s8, .n8, .b32, .b64]
def tySn : List Ty := [.s32, .n32, .s64, .n64, .s16, .n16, .s8, .n8]
def tyFp : List Ty := [.f32, .f16x2, .bf16x2, .f16, .bf16]
def tyAll : List Ty := tyInt ++ tyFp
def tyZero : List Ty := [.s32]

/-! ### Format R -/

/-- The fields of X that a format-R row permits; every other bit must be 0 (R73). -/
structure RAllow where
  tys : List Ty := tyZero
  sat : Bool := false
  rnd : Bool := false
  na : Bool := false
  nb : Bool := false
  nc : Bool := false
  sub : Bool := true
  opx : Bool := true
deriving DecidableEq, Repr

/-- Row 4 of R90 for format R: `sub` and `opx` say whether those fields hold permitted codes; `na`, `nb`, `nc` allow
negation and absolute value of the sources. -/
def rModOk (f : RForm) (al : RAllow) : Bool :=
  al.tys.contains f.ty && (al.sat || !f.sat) && (al.rnd || f.rnd == .rne) && (al.na || (!f.na && !f.aa)) &&
  (al.nb || (!f.nb && !f.ab)) && (al.nc || !f.nc) && al.sub && al.opx

/-- A shape of format R. A slot that the instruction does not use is checked by row 5 of R90, C of group 4 too, which R161
lists among the X bits as well: a non-empty C there gives the detail of row 5 (DESIGN CHOICE, log 110). -/
def rShape (f : RForm) (al : RAllow) (lat : Option Nat) (ds as bs cs : SlotSpec) (guard : GuardUse := .lanes) : Shape :=
  { guard := guard, h := f.h, g := f.g, lat := lat, modOk := rModOk f al,
    d := f.d, a := f.a, b := f.b, c := f.c, ds := ds, as := as, bs := bs, cs := cs }

/-- An unused slot. -/
def noSlot : SlotSpec := { cls := [] }
/-- Registers and constants of a width: 2 names for 64 bits. -/
def nOf (wide : Bool) : Nat := if wide then 2 else 1
/-- A uniform source (R113). -/
def uni (wide : Bool := false) : SlotSpec := { cls := [.s, .imm, .kc], n := nOf wide, al := nOf wide }
/-- A vector source (R128). -/
def vsrc (wide : Bool := false) : SlotSpec := { cls := [.v, .s, .imm, .kc], n := nOf wide, al := nOf wide }
/-- A V register source. -/
def vreg (n : Nat := 1) : SlotSpec := { cls := [.v], n := n, al := n }
def sdst (n : Nat := 1) : SlotSpec := { cls := [.s], n := n, al := n, rd := false, wr := true }
def vdst (n : Nat := 1) : SlotSpec := { cls := [.v], n := n, al := n, rd := false, wr := true }
def kdst : SlotSpec := { cls := [.k], rd := false, wr := true }
def kreg : SlotSpec := { cls := [.k] }

def opxZero (f : RForm) : Bool := f.opx == 0
def subZero (f : RForm) : Bool := f.sub == 0
def plainX (f : RForm) (tys : List Ty) : RAllow := { tys := tys, sub := subZero f, opx := opxZero f }
/-- X = 0xFFF0_0000 but for C, which row 5 checks. -/
def bareX (f : RForm) : RAllow := plainX f tyZero

/-! ### Group 0 (R101) -/

def jShape (f : JForm) (guard : GuardUse) (modOk : Bool) (offs : Option Word) (as : SlotSpec := noSlot) : Shape :=
  { guard := guard, h := f.h, g := f.g, modOk := modOk, d := f.d, a := f.a, b := f.b,
    ds := noSlot, as := as, bs := noSlot, offs := offs }

def shNop (f : JForm) : Shape := { stream := .both, guard := .ignored, h := f.h, g := f.g }
def shBra (f : JForm) : Shape := jShape f .always true (some f.x)
def shBrz (f : JForm) : Shape := jShape f .always true (some f.x) { cls := [.s, .kc, .k] }
def shPlainJ (f : JForm) : Shape := jShape f .always (f.x == 0) none
def shIf (f : JForm) : Shape := jShape f .lanes true (some f.x)
def shBreak (f : JForm) : Shape := jShape f .lanes (decide (f.x.toNat ≤ 14)) none
def shExit (f : JForm) : Shape := jShape f .lanes (f.x == 0) none
/-- `JMPI` and `CALLI`: the whole of X, C included, is checked in row 4 (R101, R106). -/
def shJmpi (f : RForm) : Shape :=
  { guard := .always, h := f.h, g := f.g, modOk := rModOk f (bareX f) && f.c == .none,
    d := f.d, a := f.a, b := f.b, as := { cls := [.s, .kc], n := 2, al := 2 } }
def iShape (f : IForm) (guard : GuardUse) (lat : Option Nat) (modOk : Bool) (ds as : SlotSpec) : Shape :=
  { guard := guard, h := f.h, g := f.g, lat := lat, modOk := modOk, d := f.d, a := f.a, ds := ds, as := as }
def shSleep (f : IForm) : Shape := iShape f .always none (f.bm == 0) noSlot noSlot

/-! ### Group 1 (R113, R114) -/

/-- TYPE code of a format-I modifier field (R74). -/
def tyOfCode (c : BitVec 4) : Ty :=
  match c.toNat with
  | 0 => .s32 | 1 => .n32 | 2 => .s64 | 3 => .n64 | 4 => .s16 | 5 => .n16 | 6 => .s8 | 7 => .n8
  | 8 => .f32 | 9 => .f16x2 | 10 => .bf16x2 | 11 => .f16 | 12 => .bf16 | 13 => .b32 | 14 => .b64 | _ => .rsv

def iTy (f : IForm) : Ty := tyOfCode (f.bm.extractLsb' 0 4)
def iModOk (f : IForm) (tys : List Ty) : Bool := tys.contains (iTy f) && f.bm.extractLsb' 4 8 == 0

/-- SAT is admitted for s and n types only (R114, R132). -/
def satSn (t : Ty) : Bool := tySn.contains t

/-- One, two and three uniform sources of the type's width. -/
def shU (f : RForm) (al : RAllow) (nsrc : Nat) : Shape :=
  let w := tyWide f.ty
  rShape f al (some 2) (sdst (nOf w)) (uni w) (if 2 ≤ nsrc then uni w else noSlot)
    (if 3 ≤ nsrc then uni w else noSlot) .noEffect

def shSmov (f : RForm) : Shape := shU f (plainX f tyAll) 1
def shSli (f : IForm) : Shape :=
  iShape f .noEffect (some 2) (iModOk f tyAll) (sdst (nOf (tyWide (iTy f)))) noSlot
def shSadd (f : RForm) : Shape := shU f { plainX f tyInt with sat := satSn f.ty } 2
def shSmad (f : RForm) : Shape := shU f { plainX f tyInt with sat := satSn f.ty } 3
def shSmulh (f : RForm) : Shape := shU f (plainX f tySn) 2
def shSand (f : RForm) : Shape := shU f (plainX f tyInt) 2
def shSnot (f : RForm) : Shape := shU f (plainX f tyInt) 1
def shSshl (f : RForm) : Shape :=
  let w := tyWide f.ty
  rShape f (plainX f tyInt) (some 2) (sdst (nOf w)) (uni w) uni noSlot .noEffect
def shScmp (f : RForm) : Shape :=
  let w := tyWide f.ty
  rShape f { plainX f tyInt with sub := decide (f.sub.toNat ≤ 5) } (some 2) sdst (uni w) (uni w) noSlot .noEffect
def shSsel (f : RForm) : Shape :=
  let w := tyWide f.ty
  rShape f (plainX f tyAll) (some 2) (sdst (nOf w)) (uni w) (uni w) uni .noEffect
def shSbfe (f : RForm) : Shape :=
  let w := tyWide f.ty
  rShape f (plainX f [.s32, .n32, .s64, .n64]) (some 2) (sdst (nOf w)) (uni w) uni uni .noEffect
def shSbfi (f : RForm) : Shape :=
  let w := tyWide f.ty
  rShape f (plainX f [.s32, .n32, .b32, .s64, .n64, .b64]) (some 2) (sdst (nOf w)) (uni w) (uni w) uni .noEffect
def shSpopc (f : RForm) : Shape :=
  rShape f (plainX f tyInt) (some 2) sdst (uni (tyWide f.ty)) noSlot noSlot .noEffect
def shSlea (f : RForm) : Shape :=
  rShape f { plainX f [.s32, .n32] with opx := true } (some 2) (sdst 2) { cls := [.s, .kc], n := 2, al := 2 } uni noSlot
    .noEffect
def shSldk (f : IForm) : Shape :=
  iShape f .noEffect (some 2) (iModOk f [.s32, .n32, .b32, .s64, .n64, .b64]) (sdst (nOf (tyWide (iTy f))))
    { cls := [.s], opt := true }
/-- A is read in one lane, whose coverage the body looks at (R125). -/
def shSfromv (f : RForm) : Shape :=
  let w := tyWide f.ty
  rShape f (plainX f tyAll) (some 6) (sdst (nOf w)) { vreg (nOf w) with rd := false } uni noSlot .noEffect
def opxBit0 (f : RForm) : Bool := decide (f.opx.toNat ≤ 1)
def shSfromk (f : RForm) : Shape :=
  rShape f { bareX f with opx := opxBit0 f } (some 2) sdst kreg noSlot noSlot .noEffect
def shKfroms (f : RForm) : Shape :=
  rShape f { bareX f with opx := opxBit0 f } (some 2) kdst uni noSlot noSlot .noEffect

/-! ### Group 2 (R132) -/

def shV (f : RForm) (al : RAllow) (lat nsrc : Nat) : Shape :=
  let w := tyWide f.ty
  rShape f al (some lat) (vdst (nOf w)) (vsrc w) (if 2 ≤ nsrc then vsrc w else noSlot) (if 3 ≤ nsrc then vsrc w else noSlot)

def shVmov (f : RForm) : Shape := shV f (plainX f tyAll) 4 1
def shVli (f : IForm) : Shape := iShape f .lanes (some 4) (iModOk f tyAll) (vdst (nOf (tyWide (iTy f)))) noSlot
def shVadd (f : RForm) : Shape := shV f { plainX f tyInt with sat := satSn f.ty } 4 2
def shVmul (f : RForm) : Shape := shV f { plainX f tyInt with sat := satSn f.ty } 5 2
def shVmulh (f : RForm) : Shape := shV f (plainX f tySn) 5 2
def shVmad (f : RForm) : Shape := shV f { plainX f tyInt with sat := satSn f.ty } 5 3
def shVand (f : RForm) : Shape := shV f (plainX f tyInt) 4 2
def shVnot (f : RForm) : Shape := shV f (plainX f tyInt) 4 1
def shVshl (f : RForm) : Shape :=
  let w := tyWide f.ty
  rShape f (plainX f tyInt) (some 4) (vdst (nOf w)) (vsrc w) vsrc noSlot
def shVmin (f : RForm) : Shape := shV f (plainX f tySn) 4 2
def shVabs (f : RForm) : Shape := shV f { plainX f [.s8, .s16, .s32, .s64] with sat := true } 4 1
def shVcmp (f : RForm) : Shape :=
  let w := tyWide f.ty
  rShape f { plainX f tyInt with sub := decide (f.sub.toNat ≤ 5) } (some 4) kdst (vsrc w) (vsrc w) noSlot
def shVsel (f : RForm) : Shape :=
  let w := tyWide f.ty
  rShape f (plainX f tyAll) (some 4) (vdst (nOf w)) (vsrc w) (vsrc w) { cls := [.v, .s, .imm, .kc, .k] }
def shVbfe (f : RForm) : Shape :=
  let w := tyWide f.ty
  rShape f (plainX f [.s32, .n32, .s64, .n64]) (some 4) (vdst (nOf w)) (vsrc w) vsrc vsrc
def shVbfi (f : RForm) : Shape :=
  let w := tyWide f.ty
  rShape f (plainX f [.s32, .n32, .b32, .s64, .n64, .b64]) (some 4) (vdst (nOf w)) (vsrc w) (vsrc w) vsrc
def shVpopc (f : RForm) : Shape := rShape f (plainX f tyInt) (some 4) vdst (vsrc (tyWide f.ty)) noSlot noSlot
def shVlea (f : RForm) : Shape :=
  rShape f { plainX f [.s32, .n32] with opx := true } (some 4) (vdst 2) { cls := [.v, .s, .kc], n := 2, al := 2 } vsrc noSlot
def shVdot4 (f : RForm) : Shape :=
  rShape f { plainX f [.s8, .n8] with sat := true, opx := opxBit0 f } (some 5) vdst vsrc vsrc { vsrc with opt := true }
def shVprmb (f : RForm) : Shape := rShape f (plainX f [.b32]) (some 4) vdst vsrc vsrc vsrc
def shVfroms (f : RForm) : Shape :=
  let w := tyWide f.ty
  rShape f (plainX f tyAll) (some 4) (vdst (nOf w)) (uni w) uni noSlot
def kuni : SlotSpec := { cls := [.k, .s, .imm, .kc] }
def shKlogic (f : RForm) : Shape :=
  rShape f { bareX f with sub := true, opx := opxBit0 f } (some 2) kdst kuni { kuni with opt := true } noSlot

/-! ### Group 3 (R144) -/

def shF2 (f : RForm) : Shape :=
  rShape f { plainX f tyFp with sat := true, rnd := true, na := true, nb := true } (some 5) vdst vsrc vsrc noSlot
def shFfma (f : RForm) : Shape :=
  rShape f { plainX f tyFp with sat := true, rnd := true, na := true, nb := true, nc := true } (some 5) vdst vsrc vsrc vsrc
def shFmin (f : RForm) : Shape :=
  rShape f { plainX f tyFp with na := true, nb := true } (some 5) vdst vsrc vsrc noSlot
def shFcmp (f : RForm) : Shape :=
  rShape f { plainX f [.f32, .f16, .bf16] with na := true, nb := true, sub := decide (f.sub.toNat ≤ 7) } (some 5)
    kdst vsrc vsrc noSlot
/-- Single-source functions of latency 14. -/
def shF1 (f : RForm) : Shape :=
  rShape f { plainX f tyFp with na := true } (some 14) vdst vsrc noSlot noSlot
def shFsqrt (f : RForm) : Shape :=
  rShape f { plainX f tyFp with na := true, rnd := true } (some 14) vdst vsrc noSlot noSlot
def shFscl (f : RForm) : Shape :=
  rShape f { plainX f tyFp with na := true, rnd := true } (some 5) vdst vsrc vsrc noSlot
def shFrnd (f : RForm) : Shape :=
  rShape f { plainX f tyFp with na := true, rnd := true } (some 5) vdst vsrc noSlot noSlot
def shFfrac (f : RForm) : Shape :=
  rShape f { plainX f tyFp with na := true } (some 5) vdst vsrc noSlot noSlot
def shFclass (f : RForm) : Shape := rShape f (plainX f tyFp) (some 5) vdst vsrc noSlot noSlot
def shFdot2 (f : RForm) : Shape :=
  rShape f { plainX f [.f16x2, .bf16x2] with sat := true, rnd := true, na := true, nb := true, nc := true } (some 5)
    vdst vsrc vsrc { vsrc with opt := true }

/-! ### Group 6 (R75, R76, R194) -/

/-- A generic address: an even S pair or an even V pair (R75). -/
def addrSlot : SlotSpec := { cls := [.s, .v], n := 2, al := 2 }
def saddrSlot : SlotSpec := { cls := [.s], n := 2, al := 2 }
def idxSlot : SlotSpec := { cls := [.v], opt := true }
/-- Registers of an access width (R189). -/
def widN (w : BitVec 3) : Nat := if w == 3 then 2 else if w == 4 then 4 else 1
/-- Bytes of an access width (R189). -/
def widBytes (w : BitVec 3) : Nat := 2 ^ w.toNat

/-- The access kinds that R76 tells apart. -/
inductive AccKind where
  | load | store | both
deriving DecidableEq, Repr

/-- R76: no acquire on a store, no release on a load. -/
def ordLegal (k : AccKind) (ord : BitVec 2) : Bool :=
  match k with
  | .both => true
  | .load => ord == 0 || ord == 1
  | .store => ord == 0 || ord == 2

def mFields (f : MForm) : Bool := f.rsv == 0 && decide (f.scp.toNat ≤ 4)

def mShape (f : MForm) (p : Option Path) (modOk : Bool) (k : AccKind) (ds as bs : SlotSpec) : Shape :=
  { guard := .lanes, h := f.h, g := f.g, path := p, modOk := mFields f && modOk, d := f.d, a := f.a, b := f.b,
    ds := ds, as := as, bs := bs, ordOk := ordLegal k f.ord }

def widOk (f : MForm) : Bool := decide (f.wid.toNat ≤ 4)
def vdat (n : Nat) : SlotSpec := { cls := [.v], n := n, al := n }

def shLdg (f : MForm) : Shape := mShape f (some .g) (widOk f) .load (vdst (widN f.wid)) addrSlot idxSlot
def shStg (f : MForm) : Shape := mShape f (some .w) (widOk f) .store (vdat (widN f.wid)) addrSlot idxSlot
def shLds (f : MForm) : Shape := mShape f (some .s) (widOk f && f.cp == 0) .load (vdst (widN f.wid)) addrSlot idxSlot
def shSts (f : MForm) : Shape := mShape f (some .s) (widOk f && f.cp == 0) .store (vdat (widN f.wid)) addrSlot idxSlot
/-- Registers of a line layout (R197). -/
def layN (w : BitVec 3) : Nat := if w == 2 then 4 else 1
def layOk (f : MForm) : Bool := decide (f.wid.toNat ≤ 2)
def shLdmx (f : MForm) : Shape :=
  mShape f (some .g) (layOk f) .load { vdst (layN f.wid) with withE := true } saddrSlot noSlot
def shStmx (f : MForm) : Shape :=
  mShape f (some .w) (layOk f) .store { vdat (layN f.wid) with withE := true } saddrSlot noSlot
def shSldg (f : MForm) : Shape := mShape f (some .g) (widOk f) .load (sdst (widN f.wid)) saddrSlot noSlot
/-- A b128 datum is four S registers: no immediate or constant of that width exists (R87, R189). -/
def shSstg (f : MForm) : Shape :=
  mShape f (some .w) (widOk f) .store
    { cls := if f.wid == 4 then [.s] else [.s, .imm, .kc], n := widN f.wid, al := widN f.wid } saddrSlot noSlot
def elemWid (f : MForm) : Bool := f.wid == 2 || f.wid == 3
def shCmpst (f : MForm) : Shape := mShape f (some .w) (elemWid f) .store sdst saddrSlot (vdat (widN f.wid))
def shExpld (f : MForm) : Shape := mShape f (some .g) (elemWid f) .load (vdst (widN f.wid)) saddrSlot noSlot
/-- FIFO operations: OFS, ORD, SCP and CP are 0 (R193, R194). -/
def fifoX (f : MForm) : Bool := f.wid == 2 && f.ofs == 0 && f.ord == 0 && f.scp == 0 && f.cp == 0
def fifoIdx : SlotSpec := { cls := [.s, .imm] }
def shFifopop (f : MForm) : Shape := mShape f (some .s) (fifoX f) .both vdst fifoIdx noSlot
def shFifopush (f : MForm) : Shape := mShape f (some .s) (fifoX f) .both vreg fifoIdx noSlot
def shPref (f : MForm) : Shape :=
  mShape f none (f.wid == 0 && f.ord == 0 && f.scp == 0) .both noSlot addrSlot idxSlot

/-! ### Group 7 (R77, R204, R207, R210-R213) -/

def cFields (f : CForm) : Bool := f.rsv == 0 && decide (f.scp.toNat ≤ 4)
def cShape (f : CForm) (p : Option Path) (modOk ordOk : Bool) (ds as bs : SlotSpec) : Shape :=
  { guard := .lanes, h := f.h, g := f.g, path := p, modOk := cFields f && modOk, d := f.d, a := f.a, b := f.b,
    ds := ds, as := as, bs := bs, ordOk := ordOk }

/-- The types an atomic operation lists (R204). -/
def atomTys (sub : BitVec 4) : List Ty :=
  match sub.toNat with
  | 0 => [.s32, .n32, .s64, .n64, .f32, .bf16x2]
  | 1 | 2 => [.s32, .n32, .s64, .n64, .f32]
  | 3 | 4 | 5 | 6 => [.b32, .b64]
  | 7 | 8 => [.n32, .n64]
  | _ => []

/-- WID equals the width of TYPE (R204). -/
def widIsTy (f : CForm) : Bool := f.wid == (if tyWide (tyOfCode f.ty) then 3 else 2)
def cWide (f : CForm) : Bool := tyWide (tyOfCode f.ty)

def shAtom (f : CForm) : Shape :=
  cShape f (some .a) ((atomTys f.sub).contains (tyOfCode f.ty) && widIsTy f) true (vdst (nOf (cWide f))) addrSlot
    (vsrc (cWide f))
def shAcas (f : CForm) : Shape :=
  cShape f (some .a) (f.sub == 0 && [Ty.b32, .b64].contains (tyOfCode f.ty) && widIsTy f) true (vdst (nOf (cWide f)))
    addrSlot (vreg (2 * nOf (cWide f)))
def shRed (f : CForm) : Shape :=
  cShape f (some .a) ((atomTys f.sub).contains (tyOfCode f.ty) && f.sub != 6 && widIsTy f) (ordLegal .store f.ord)
    noSlot addrSlot (vsrc (cWide f))
def shRedd (f : CForm) : Shape :=
  cShape f (some .a)
    (decide (f.sub.toNat ≤ 2) && [Ty.s32, .n32, .s64, .n64, .f32].contains (tyOfCode f.ty) && widIsTy f) (f.ord == 0)
    noSlot addrSlot (vsrc (cWide f))
def shRflush (f : JForm) : Shape := { jShape f .always (f.x == 0) none with path := some .a }
/-- FENCE (R211): ORD non-zero, SCP listed, every other bit of X zero. -/
def shFence (f : JForm) : Shape :=
  jShape f .always (f.x &&& 0xFFFFFF07 == 0 && f.x.extractLsb' 3 2 != 0 && decide ((f.x.extractLsb' 5 3).toNat ≤ 4)) none
/-- FENCEX (R211): at least two classes. -/
def fencexOk (x : Word) : Bool :=
  x &&& 0xFFFFF8C0 == 0 && decide (2 ≤ popNat 6 x.toNat) && decide ((x.extractLsb' 8 3).toNat ≤ 4)
def shFencex (f : JForm) : Shape := jShape f .always (fencexOk f.x) none
def shWaitc (f : RForm) : Shape :=
  rShape f { bareX f with sub := f.sub != 0 && decide (f.sub.toNat ≤ 7) } none noSlot uni noSlot noSlot .noEffect
def shRdcnt (f : RForm) : Shape :=
  rShape f { bareX f with sub := decide (f.sub.toNat ≤ 7) } (some 2) (sdst (nOf (f.sub == 0))) noSlot noSlot noSlot .noEffect

/-! ### Group 8 (R214) -/

def kick (f : RForm) (p : Option Path) (ds as bs : SlotSpec) : Shape :=
  { rShape f (bareX f) none ds as bs noSlot .always with path := p }
def memAddr : SlotSpec := { cls := [.s, .kc], n := 2, al := 2 }
def shCpyk (f : RForm) : Shape := kick f (some .c) sdst uni noSlot
def shGsk (f : RForm) : Shape := kick f (some .c) sdst uni noSlot
def shColk (f : RForm) : Shape := kick f (some .f) sdst memAddr noSlot
def shRkput (f : RForm) : Shape := kick f (some .f) sdst memAddr uni
def shMigh (f : RForm) : Shape := kick f none noSlot memAddr uni
def shLaunch (f : RForm) : Shape := kick f (some .c) sdst memAddr uni

/-! ### Group 9 (R222) -/

def barSh (f : RForm) (xp : Bool) (p : Option Path) (as bs : SlotSpec) : Shape :=
  { rShape f { bareX f with opx := if xp then opxBit0 f else opxZero f } none noSlot as bs noSlot .always with path := p }
def shBar (f : RForm) : Shape := barSh f true none uni noSlot
def shBarw (f : RForm) : Shape := barSh f false none uni uni
def shCbara (f : RForm) : Shape := barSh f true none noSlot noSlot
def shCbarw (f : RForm) : Shape := barSh f false none uni noSlot
def shBoinit (f : RForm) : Shape := barSh f false (some .s) uni uni
def shBoarv (f : RForm) : Shape := barSh f false (some .s) uni { uni with opt := true }
def shBowait (f : RForm) : Shape := barSh f false none uni uni

/-! ### Group B (R24, R260) -/

/-- Lane-kind special registers (R24). -/
def spLaneKind (n : Nat) : Bool := n ≤ 1
/-- The special registers marked RW (R24). -/
def spWritable (n : Nat) : Bool := (0x10 ≤ n && n ≤ 0x13) || n == 0x16
/-- The 64-bit special registers (R261). -/
def spWide (n : Nat) : Bool := n == 0x12 || n == 0x13
def spNum : Opnd → Nat
  | .sp n => n.toNat
  | _ => 0x17

def isS : Opnd → Bool
  | .s _ => true
  | _ => false

def shSread (f : RForm) : Shape :=
  let n := spNum f.a
  let w := nOf (spWide n)
  { rShape f (bareX f) (some 2) { cls := [.s, .v], n := w, al := w, rd := false, wr := true } { cls := [.sp] } noSlot noSlot
      (if isS f.d then .always else .lanes) with spBad := isS f.d && spLaneKind n }
def shSwrite (f : RForm) : Shape :=
  let n := spNum f.d
  { rShape f (bareX f) (some 2) { cls := [.sp], rd := false }
      (if spWide n then { cls := [.s, .kc], n := 2, al := 2 } else uni) noSlot noSlot .always with
    spBad := spListed n && !(spWritable n) }
def shTrap (f : IForm) : Shape := iShape f .lanes none (f.bm == 0) noSlot noSlot
def shRte (f : JForm) : Shape := shPlainJ f
def shCtrget (f : RForm) : Shape :=
  rShape f { bareX f with sub := decide (f.sub.toNat ≤ 1) } (some 2) (sdst 4) noSlot noSlot noSlot .always
def shCtrset (f : RForm) : Shape :=
  rShape f { bareX f with sub := decide (f.sub.toNat ≤ 1), opx := opxBit0 f && !(f.opx == 1 && f.sub == 1) } (some 2)
    noSlot { cls := [.s], n := 4, al := 4 } noSlot noSlot .always
def shRng (f : RForm) : Shape := rShape f (plainX f [.b32, .f32]) (some 6) vdst noSlot noSlot noSlot
def shClock (f : RForm) : Shape := rShape f (bareX f) (some 2) (sdst 2) noSlot noSlot noSlot .always
def shPmrd (f : RForm) : Shape := rShape f (bareX f) (some 2) (sdst 2) uni noSlot noSlot .always

end Sys2Proof.Machine
end

