-- ==== Sys2Proof/Machine/Flags.lean ====
section
/-! DEFINITION. The five sticky conditions of `%fpst` (R25, R47) and the result of one floating-point element
operation: bits with the conditions it raises. -/

namespace Sys2Proof.Machine

/-- NV, DZ, OF, UF, NX in bits 0 to 4, the order of R25. -/
abbrev Flags := BitVec 5

def Flags.none : Flags := 0
def Flags.nv : Flags := 1
def Flags.dz : Flags := 2
def Flags.of : Flags := 4
def Flags.uf : Flags := 8
def Flags.nx : Flags := 16

/-- The bits of an element result and the conditions it raised. -/
structure FRes where
  bits : Nat
  fl : Flags
deriving DecidableEq, Repr

/-- `%fpst` with the sticky bits of `f` set (R25, R47). -/
def fpstOr (fpst : Word) (f : Flags) : Word := fpst ||| f.setWidth 32

/-- The enabled conditions among `f` (R146): FPTE is bits [12:8] of `%fpst`. -/
def fpEnabled (fpst : Word) (f : Flags) : Flags := fpst.extractLsb' 8 5 &&& f

/-- NSTE of `%fpst` (R25). -/
def nste (fpst : Word) : Bool := fpst.getLsbD 16
/-- `%fpst` with NSS set (R25). -/
def fpstNss (fpst : Word) : Word := fpst ||| 0x00020000

end Sys2Proof.Machine
end

