-- ==== Sys2Proof/Machine/Fp.lean ====
section
/-! DEFINITION. Scalar floating point (R46-R50) and the exact operations of R147-R155: every operation computes the
exact value as a dyadic number and rounds it once. -/

namespace Sys2Proof.Machine

/-- A binary format of R46: exponent width and fraction width; the bias is 2^(ew-1) - 1. -/
structure FFmt where
  ew : Nat
  fw : Nat
deriving DecidableEq, Repr

def fp32 : FFmt := ⟨8, 23⟩
def fp16 : FFmt := ⟨5, 10⟩
def bf16 : FFmt := ⟨8, 7⟩

namespace FFmt

def bias (f : FFmt) : Nat := 2 ^ (f.ew - 1) - 1
def expMax (f : FFmt) : Nat := 2 ^ f.ew - 1
def width (f : FFmt) : Nat := 1 + f.ew + f.fw
/-- Exponent of the smallest normal. -/
def emin (f : FFmt) : Int := 1 - (f.bias : Int)
def signBit (f : FFmt) (neg : Bool) : Nat := if neg then 2 ^ (f.ew + f.fw) else 0
def infBits (f : FFmt) (neg : Bool) : Nat := f.signBit neg + f.expMax * 2 ^ f.fw
/-- The positive canonical NaN (R46, R48). -/
def nanBits (f : FFmt) : Nat := f.expMax * 2 ^ f.fw + 2 ^ (f.fw - 1)
/-- The largest finite value. -/
def maxBits (f : FFmt) (neg : Bool) : Nat := f.signBit neg + f.expMax * 2 ^ f.fw - 1
def zeroBits (f : FFmt) (neg : Bool) : Nat := f.signBit neg

end FFmt

/-- A decoded operand: a NaN (signalling or quiet), an infinity, or the exact number (-1)^neg * m * 2^e. -/
inductive FV where
  | nan (sig : Bool)
  | inf (neg : Bool)
  | fin (neg : Bool) (m : Nat) (e : Int)
deriving DecidableEq, Repr

namespace FV

def isNan : FV → Bool | .nan _ => true | _ => false
def isSig : FV → Bool | .nan b => b | _ => false
def isInf : FV → Bool | .inf _ => true | _ => false
def isZero : FV → Bool | .fin _ m _ => m == 0 | _ => false
def sign : FV → Bool | .nan _ => false | .inf n => n | .fin n _ _ => n
def negate : FV → FV | .nan s => .nan s | .inf n => .inf (!n) | .fin n m e => .fin (!n) m e
def absolute : FV → FV | .nan s => .nan s | .inf _ => .inf false | .fin _ m e => .fin false m e

end FV

/-- Decodes the low bits of `x` in format `f` (R46). -/
def fdecode (f : FFmt) (x : Nat) : FV :=
  let frac := x % 2 ^ f.fw
  let ex := (x >>> f.fw) % 2 ^ f.ew
  let neg := (x >>> (f.fw + f.ew)) % 2 == 1
  if ex = f.expMax then
    if frac = 0 then .inf neg else .nan (frac < 2 ^ (f.fw - 1))
  else if ex = 0 then .fin neg frac (f.emin - (f.fw : Int))
  else .fin neg (2 ^ f.fw + frac) ((ex : Int) - (f.bias : Int) - (f.fw : Int))

/-! ### Rounding (R47, R50) -/

/-- Whether a magnitude n + r/2^d (with more below when `sticky`) rounds away from zero. -/
def roundsUp (rnd : Rnd) (neg : Bool) (n r d : Nat) (sticky : Bool) : Bool :=
  let half := 2 ^ (d - 1)
  let inexact := r != 0 || sticky
  match rnd with
  | .rne => if d = 0 then false else
      decide (half < r) || (r == half && (sticky || n % 2 == 1))
  | .rz => false
  | .rd => neg && inexact
  | .ru => !neg && inexact

/-- A rounded magnitude n * 2^q, and whether it differs from the exact one. -/
structure Rounded where
  n : Nat
  q : Int
  inexact : Bool
deriving DecidableEq, Repr

/-- Rounds the magnitude (m + [0,1) when `sticky`) * 2^e to a multiple of 2^q. -/
def roundAt (rnd : Rnd) (neg : Bool) (m : Nat) (e : Int) (sticky : Bool) (q : Int) : Rounded :=
  if q ≤ e then ⟨m <<< (e - q).toNat, q, sticky⟩
  else
    let d := (q - e).toNat
    let n := m >>> d
    let r := m % 2 ^ d
    ⟨n + b2n (roundsUp rnd neg n r d sticky), q, r != 0 || sticky⟩

/-- Rounds a non-zero magnitude to `fw` fraction bits with exponents from `emin` up, unbounded above. -/
def roundMag (fw : Nat) (emin : Int) (rnd : Rnd) (neg : Bool) (m : Nat) (e : Int) (sticky : Bool) : Rounded :=
  let top : Int := (Nat.log2 m : Int) + e
  roundAt rnd neg m e sticky ((if top < emin then emin else top) - (fw : Int))

/-- The exponent of the leading bit of a rounded magnitude. -/
def Rounded.top (r : Rounded) : Int := (Nat.log2 r.n : Int) + r.q

/-- The encoding of a rounded, in-range magnitude in format `f`. -/
def fencode (f : FFmt) (neg : Bool) (r : Rounded) : Nat :=
  if r.n = 0 then f.zeroBits neg
  else
    let top := r.top
    if top < f.emin then f.signBit neg + (r.n <<< (r.q - (f.emin - (f.fw : Int))).toNat)
    else
      let sig := (r.n <<< f.fw) >>> Nat.log2 r.n
      f.signBit neg + (top + (f.bias : Int)).toNat * 2 ^ f.fw + (sig - 2 ^ f.fw)

/-- What a mode delivers on overflow (R50). -/
def overflowBits (f : FFmt) (rnd : Rnd) (neg : Bool) : Nat :=
  match rnd with
  | .rne => f.infBits neg
  | .rz => f.maxBits neg
  | .rd => if neg then f.infBits true else f.maxBits false
  | .ru => if neg then f.maxBits true else f.infBits false

/-- Rounds the number (-1)^neg * (m, plus a fraction when `sticky`) * 2^e once into format `f`, with the flags of
R47. -/
def fround (f : FFmt) (rnd : Rnd) (neg : Bool) (m : Nat) (e : Int) (sticky : Bool) : FRes :=
  if m = 0 then ⟨f.zeroBits neg, .none⟩
  else
    let r := roundMag f.fw f.emin rnd neg m e sticky
    if (f.bias : Int) < r.top && r.n != 0 then ⟨overflowBits f rnd neg, Flags.of ||| Flags.nx⟩
    else
      let u := roundMag f.fw ((Nat.log2 m : Int) + e) rnd neg m e sticky
      let tiny := u.top < f.emin
      ⟨fencode f neg r, (if r.inexact then Flags.nx else 0) ||| (if r.inexact && tiny then Flags.uf else 0)⟩

/-- The canonical NaN with the flags of an operation whose NaN operands are `vs`. -/
def fnan (f : FFmt) (nv : Bool) : FRes := ⟨f.nanBits, if nv then Flags.nv else 0⟩

/-! ### Exact sums -/

/-- The signed integer that a finite addend is at exponent `e0`. -/
def atExp (e0 : Int) (neg : Bool) (m : Nat) (e : Int) : Int :=
  let x : Int := ((m <<< (e - e0).toNat : Nat) : Int)
  if neg then -x else x

/-- Rounds the exact sum of finite addends (R50); `zeroNeg` is the sign of an exact zero sum. -/
def fsum (f : FFmt) (rnd : Rnd) (zeroNeg : Bool) (vs : List (Bool × Nat × Int)) : FRes :=
  let nz := vs.filter (fun v => v.2.1 != 0)
  match nz with
  | [] => ⟨f.zeroBits zeroNeg, .none⟩
  | v :: _ =>
    let e0 := nz.foldl (fun acc v => if v.2.2 < acc then v.2.2 else acc) v.2.2
    let t := nz.foldl (fun acc v => acc + atExp e0 v.1 v.2.1 v.2.2) 0
    if t = 0 then ⟨f.zeroBits zeroNeg, .none⟩
    else fround f rnd (decide (t < 0)) t.natAbs e0 false

/-- The sign of an exact zero sum whose addends have these signs (R50): the common sign, else +0, or -0 under
`.rd`. -/
def zeroSign (rnd : Rnd) (signs : List Bool) : Bool :=
  if signs.all id then true else if signs.all (!·) then false else rnd == .rd

/-- The finite triple of a value; NaN and infinity give zero. -/
def FV.tri : FV → Bool × Nat × Int
  | .fin n m e => (n, m, e)
  | _ => (false, 0, 0)

/-- The exact sign of an exact zero two-operand sum: operands of equal zero sign keep it (R50). -/
def fadd (f : FFmt) (rnd : Rnd) (a b : FV) : FRes :=
  if a.isNan || b.isNan then fnan f (a.isSig || b.isSig)
  else match a, b with
    | .inf n, .inf n' => if n = n' then ⟨f.infBits n, .none⟩ else fnan f true
    | .inf n, _ => ⟨f.infBits n, .none⟩
    | _, .inf n => ⟨f.infBits n, .none⟩
    | a, b => fsum f rnd (zeroSign rnd [a.sign, b.sign]) [a.tri, b.tri]

/-- The exact product of two operands that are not NaN; ∞ × 0 gives a NaN. -/
def fprod (a b : FV) : FV :=
  let neg := a.sign != b.sign
  if a.isInf || b.isInf then
    (if a.isZero || b.isZero then .nan true else .inf neg)
  else .fin neg (a.tri.2.1 * b.tri.2.1) (a.tri.2.2 + b.tri.2.2)

/-- FMUL (R148). -/
def fmul (f : FFmt) (rnd : Rnd) (a b : FV) : FRes :=
  if a.isNan || b.isNan then fnan f (a.isSig || b.isSig)
  else match fprod a b with
    | .nan _ => fnan f true
    | .inf n => ⟨f.infBits n, .none⟩
    | .fin n m e => fround f rnd n m e false

/-- FFMA (R148): ∞ × 0 sets NV whatever c holds. -/
def ffma (f : FFmt) (rnd : Rnd) (a b c : FV) : FRes :=
  if a.isNan || b.isNan then fnan f (a.isSig || b.isSig || c.isSig)
  else match fprod a b with
    | .nan _ => fnan f true
    | p => if c.isNan then fnan f c.isSig else fadd f rnd p c

/-- FDOT2 (R151): two exact products and an FP32 addend, one rounding to FP32. -/
def fdot2 (rnd : Rnd) (a0 b0 a1 b1 c : FV) : FRes :=
  let ops := [a0, b0, a1, b1, c]
  let prod := fun (x y : FV) => if x.isNan || y.isNan then FV.nan false else fprod x y
  let p0 := prod a0 b0
  let p1 := prod a1 b1
  let add := [p0, p1, c]
  let sig := ops.any FV.isSig
  let inv := (p0 == .nan true) || (p1 == .nan true)
  let mixed := add.any (· == .inf true) && add.any (· == .inf false)
  if ops.any FV.isNan || inv || mixed then fnan fp32 (sig || inv || mixed)
  else match add.find? FV.isInf with
    | some v => ⟨fp32.infBits v.sign, .none⟩
    | none =>
      let allZero := add.all FV.isZero
      let z := if allZero then zeroSign rnd (add.map FV.sign) else rnd == .rd
      fsum fp32 rnd z (add.map FV.tri)

/-- The clamp of R147 to [+0.0, 1.0] on a rounded result; the flags are kept. -/
def fsat (f : FFmt) (r : FRes) : FRes :=
  let one := f.bias * 2 ^ f.fw
  match fdecode f r.bits with
  | .nan _ => ⟨0, r.fl⟩
  | v => if v.sign then ⟨0, r.fl⟩ else if one < r.bits then ⟨one, r.fl⟩ else r

/-! ### Comparison, classification and scaling -/

/-- A total comparison of non-NaN operands by value: the sign of a - b. -/
def fcompare (a b : FV) : Int :=
  match a, b with
  | .inf n, .inf n' => if n = n' then 0 else if n then -1 else 1
  | .inf n, _ => if n then -1 else 1
  | _, .inf n => if n then 1 else -1
  | a, b =>
    let ta := a.tri
    let tb := b.tri
    let e0 := if ta.2.2 < tb.2.2 then ta.2.2 else tb.2.2
    let d := atExp e0 ta.1 ta.2.1 ta.2.2 - atExp e0 tb.1 tb.2.1 tb.2.2
    if d < 0 then -1 else if d = 0 then 0 else 1

/-- FMIN and FMAX (R149) on operand bits: -0 lies below +0, a lone NaN gives the other operand. -/
def fminmax (f : FFmt) (isMax : Bool) (x y : Nat) : FRes :=
  let a := fdecode f x
  let b := fdecode f y
  let fl := if a.isSig || b.isSig then Flags.nv else 0
  if a.isNan && b.isNan then ⟨f.nanBits, fl⟩
  else if a.isNan then ⟨y, fl⟩
  else if b.isNan then ⟨x, fl⟩
  else
    let c := fcompare a b
    let aLow := decide (c < 0) || (c == 0 && a.sign)
    ⟨if aLow != isMax then x else y, fl⟩

/-- FCMP (R150): the truth of condition `cc` and its flags; codes 8 to 15 never reach it. -/
def fcmp (cc : Nat) (a b : FV) : Bool × Flags :=
  let un := a.isNan || b.isNan
  let sig := a.isSig || b.isSig
  let c := fcompare a b
  let quiet := if sig then Flags.nv else 0
  let loud := if un then Flags.nv else 0
  match cc with
  | 0 => (!un && c == 0, quiet)
  | 1 => (un || c != 0, quiet)
  | 2 => (!un && decide (c < 0), loud)
  | 3 => (!un && decide (c ≤ 0), loud)
  | 4 => (!un && decide (0 < c), loud)
  | 5 => (!un && decide (0 ≤ c), loud)
  | 6 => (!un, quiet)
  | _ => (un, quiet)

/-- FCLASS (R155): the one-hot class code. -/
def fclass (f : FFmt) (v : FV) : Nat :=
  match v with
  | .nan true => 0x001
  | .nan false => 0x002
  | .inf n => if n then 0x004 else 0x200
  | .fin n m e =>
    if m = 0 then (if n then 0x020 else 0x040)
    else if (Nat.log2 m : Int) + e < f.emin then (if n then 0x010 else 0x080)
    else (if n then 0x008 else 0x100)

/-- FSCL (R152): a × 2^k with one rounding. The exponent is clamped to a range beyond which the result no longer
changes. -/
def fscl (f : FFmt) (rnd : Rnd) (a : FV) (k : Int) : FRes :=
  let k := if k < -1000 then -1000 else if 1000 < k then 1000 else k
  match a with
  | .nan s => fnan f s
  | .inf n => ⟨f.infBits n, .none⟩
  | .fin n m e => fround f rnd n m (e + k) false

/-- The integral value nearest a magnitude in a mode. -/
def integral (rnd : Rnd) (neg : Bool) (m : Nat) (e : Int) : Nat := (roundAt rnd neg m e false 0).n

/-- FRND (R153): rounds to an integral value of the format; a zero keeps the sign of a; NX is never set. -/
def frnd (f : FFmt) (rnd : Rnd) (x : Nat) : FRes :=
  match fdecode f x with
  | .nan s => fnan f s
  | .inf n => ⟨f.infBits n, .none⟩
  | .fin n m e =>
    if 0 ≤ e then ⟨x % 2 ^ f.width, .none⟩
    else
      let i := integral rnd n m e
      if i = 0 then ⟨f.zeroBits n, .none⟩ else ⟨(fround f .rne n i 0 false).bits, .none⟩

/-- FFRAC (R154): x - floor(x), rounded towards zero. -/
def ffrac (f : FFmt) (v : FV) : FRes :=
  match v with
  | .nan s => fnan f s
  | .inf _ => fnan f true
  | .fin n m e =>
    if 0 ≤ e then ⟨0, .none⟩
    else
      let d := (-e).toNat
      let r := m % 2 ^ d
      if r = 0 then ⟨0, .none⟩
      else fround f .rz false (if n then 2 ^ d - r else r) e false

/-! ### Integer square root and the correctly rounded FSQRT (R156) -/

/-- The integer square root of `x`, searched bit by bit from bit `k`. -/
def isqrtFrom (x : Nat) : Nat → Nat → Nat
  | 0, acc => acc
  | k + 1, acc =>
    let t := acc + 2 ^ k
    isqrtFrom x k (if t * t ≤ x then t else acc)

def isqrt (x : Nat) : Nat := isqrtFrom x (Nat.log2 x / 2 + 1) 0

/-- A positive magnitude scaled so that its exponent is even and its significand has at least 120 bits. -/
def widen (m : Nat) (e : Int) : Nat × Int :=
  let e1 := e - 130
  if e1 % 2 = 0 then (m <<< 130, e1) else (m <<< 131, e1 - 1)

def fsqrt (f : FFmt) (rnd : Rnd) (v : FV) : FRes :=
  match v with
  | .nan s => fnan f s
  | .inf n => if n then fnan f true else ⟨f.infBits false, .none⟩
  | .fin n m e =>
    if m = 0 then ⟨f.zeroBits n, .none⟩
    else if n then fnan f true
    else
      let w := widen m e
      let r := isqrt w.1
      fround f rnd false r (w.2 / 2) (r * r != w.1)

/-! ### Conversion between formats -/

/-- A value in another format, rounded once (R50). -/
def fconv (f : FFmt) (rnd : Rnd) (v : FV) : FRes :=
  match v with
  | .nan s => fnan f s
  | .inf n => ⟨f.infBits n, .none⟩
  | .fin n m e => fround f rnd n m e false

/-- An integer in a format, rounded once. -/
def fofInt (f : FFmt) (rnd : Rnd) (i : Int) : FRes := fround f rnd (decide (i < 0)) i.natAbs 0 false

/-- FP32 addition to nearest even without flags (R65, R205). -/
def add32 (x y : Word) : Word := BitVec.ofNat 32 (fadd fp32 .rne (fdecode fp32 x.toNat) (fdecode fp32 y.toNat)).bits

end Sys2Proof.Machine
end

