-- ==== Sys2Proof/Machine/Mx.lean ====
section
/-! DEFINITION. Microscaled elements, scales, requantisation and block sums (R51-R54, R60-R65). -/

namespace Sys2Proof.Machine

/-- The element formats of R51 and R52. -/
inductive Elem where
  | e4m3 | e5m2 | e3m2 | e2m3 | e2m1 | ng4
deriving DecidableEq, Repr

namespace Elem

/-- Bits per element. -/
def width : Elem → Nat
  | .e4m3 | .e5m2 => 8 | .e3m2 | .e2m3 => 6 | .e2m1 | .ng4 => 4
def fw : Elem → Nat
  | .e4m3 => 3 | .e5m2 => 2 | .e3m2 => 2 | .e2m3 => 3 | .e2m1 => 1 | .ng4 => 0
def bias : Elem → Nat
  | .e4m3 => 7 | .e5m2 => 15 | .e3m2 => 3 | .e2m3 => 1 | .e2m1 => 1 | .ng4 => 0
def emax : Elem → Int
  | .e4m3 => 8 | .e5m2 => 15 | .e3m2 => 4 | .e2m3 => 2 | .e2m1 => 2 | .ng4 => 0
/-- Code of the largest finite magnitude. -/
def maxCode : Elem → Nat
  | .e4m3 => 0x7E | .e5m2 => 0x7B | .e3m2 => 0x1F | .e2m3 => 0x1F | .e2m1 => 0x7 | .ng4 => 0x7
def signCode (f : Elem) (neg : Bool) : Nat := if neg then 2 ^ (f.width - 1) else 0
/-- Elements per lane, lanes per block and blocks per V register (R55). -/
def perLane (f : Elem) : Nat := if f.width = 4 then 8 else 4
def lanesPerBlock (f : Elem) : Nat := 32 / f.perLane
def blocks (f : Elem) : Nat := if f.width = 4 then 8 else 4

end Elem

/-- NG4 magnitudes in 32nds (R52). -/
def ng4Mag (k : Nat) : Nat := [0, 3, 6, 9, 13, 18, 24, 32].getD k 0

/-- The value of an element code (R51, R52). -/
def edecode (f : Elem) (q : Nat) : FV :=
  let neg := (q >>> (f.width - 1)) % 2 == 1
  let mag := q % 2 ^ (f.width - 1)
  match f with
  | .ng4 => .fin neg (ng4Mag mag) (-5)
  | _ =>
    let ex := mag >>> f.fw
    let fr := mag % 2 ^ f.fw
    if f = .e4m3 ∧ mag = 0x7F then .nan false
    else if f = .e5m2 ∧ ex = 31 then (if fr = 0 then .inf neg else .nan (fr == 1))
    else if ex = 0 then .fin neg fr (1 - (f.bias : Int) - f.fw)
    else .fin neg (2 ^ f.fw + fr) ((ex : Int) - f.bias - f.fw)

/-- The exact product with a scale's value (R53, R54); `c` is not 0xFF. -/
def FV.scaled (v : FV) (c : Nat) : FV :=
  match v with
  | .fin n m e => .fin n m (e + (c : Int) - 127)
  | v => v

/-- An element under a scale, as FP32 (R54). -/
def mxDecode (f : Elem) (q c : Nat) : FRes :=
  if c = 0xFF then ⟨fp32.nanBits, .none⟩
  else match (edecode f q).scaled c with
    | .nan _ => ⟨fp32.nanBits, .none⟩
    | .inf n => ⟨fp32.infBits n, .none⟩
    | .fin n m e =>
      let r := fround fp32 .rne n m e false
      ⟨r.bits, r.fl &&& Flags.of⟩

/-! ### Requantisation (R60-R62) -/

/-- `fp_round` of R61 on the magnitude m·2^e. -/
def fpRound (f : Elem) (sat neg : Bool) (m : Nat) (e : Int) : Nat :=
  if m = 0 then f.signCode neg
  else
    let emin : Int := 1 - (f.bias : Int)
    let r := roundMag f.fw emin .rne neg m e false
    let code :=
      if r.n = 0 then 0
      else if r.top < emin then r.n <<< (r.q - (emin - (f.fw : Int))).toNat
      else (r.top + (f.bias : Int)).toNat * 2 ^ f.fw + (((r.n <<< f.fw) >>> Nat.log2 r.n) - 2 ^ f.fw)
    if code ≤ f.maxCode then f.signCode neg + code
    else if sat then f.signCode neg + f.maxCode
    else match f with
      | .e4m3 => f.signCode neg + 0x7F
      | .e5m2 => f.signCode neg + 0x7C
      | _ => f.signCode neg + f.maxCode

/-- Compares m·2^e with n: less, equal or greater as -1, 0, 1. -/
def cmpNat (m : Nat) (e : Int) (n : Nat) : Int :=
  let a := if 0 ≤ e then m <<< e.toNat else m
  let b := if 0 ≤ e then n else n <<< (-e).toNat
  if a < b then -1 else if a = b then 0 else 1

/-- `ng4_round` of R62: the index counts the midpoints (in 64ths) that the magnitude has passed. -/
def ng4Round (neg : Bool) (m : Nat) (e : Int) : Nat :=
  let mids := [3, 9, 15, 22, 31, 42, 56]
  let k := ((List.range 7).filter (fun i =>
    let c := cmpNat m (e + 6) (mids.getD i 0)
    c == 1 || (c == 0 && i % 2 == 1))).length
  Elem.signCode .ng4 neg + k

/-- A requantised block: scale, element codes, and whether an input was a NaN or an infinity. -/
structure MxBlock where
  sc : Nat
  q : List Nat
  nanScale : Bool
deriving DecidableEq, Repr

/-- The magnitude of a finite value. -/
def FV.mag : FV → Nat × Int
  | .fin _ m e => (m, e)
  | _ => (0, 0)

/-- The larger of two magnitudes. -/
def maxMag (a b : Nat × Int) : Nat × Int :=
  if a.1 = 0 then b else if b.1 = 0 then a
  else
    let e0 := if a.2 < b.2 then a.2 else b.2
    if a.1 <<< (a.2 - e0).toNat < b.1 <<< (b.2 - e0).toNat then b else a

/-- Requantisation of one block of FP32 values (R60). -/
def requant (f : Elem) (sat : Bool) (xs : List FV) : MxBlock :=
  if xs.any (fun v => v.isNan || v.isInf) then ⟨0xFF, xs.map (fun _ => 0), true⟩
  else
    let amax := (xs.map FV.mag).foldl maxMag (0, 0)
    if amax.1 = 0 then ⟨0x7F, xs.map (fun v => f.signCode v.sign), false⟩
    else
      let fl : Int := (Nat.log2 amax.1 : Int) + amax.2
      let sh0 : Int := match f with
        | .ng4 => if amax.1 = 2 ^ Nat.log2 amax.1 then fl else fl + 1
        | _ => fl - f.emax
      let sh : Int := if sh0 < -127 then -127 else if 127 < sh0 then 127 else sh0
      ⟨(sh + 127).toNat, xs.map (fun v =>
        match v with
        | .fin n m e => match f with
          | .ng4 => ng4Round n m (e - sh)
          | _ => fpRound f sat n m (e - sh)
        | _ => 0), false⟩

/-! ### Block sums (R63, R64) -/

/-- The sum of one block: pairs of element values, and the two scale codes (127 where the operand has none). -/
def blockSum (ab : List (FV × FV)) (sA sB : Nat) : Nat :=
  if sA = 0xFF ∨ sB = 0xFF ∨ ab.any (fun p => p.1.isNan || p.2.isNan) then fp32.nanBits
  else
    let ps := ab.map (fun p => fprod p.1 p.2)
    let anyNeg := ps.any (· == .inf true)
    let anyPos := ps.any (· == .inf false)
    if ps.any FV.isNan || (anyNeg && anyPos) then fp32.nanBits
    else if anyNeg then fp32.infBits true
    else if anyPos then fp32.infBits false
    else
      let off : Int := (sA : Int) + (sB : Int) - 254
      (fsum fp32 .rne (ps.all FV.sign && ps.all FV.isZero)
        (ps.map (fun p => (p.tri.1, p.tri.2.1, p.tri.2.2 + off)))).bits

end Sys2Proof.Machine
end

