-- ==== Sys2Proof/Machine/EntriesMx.lean ====
section
/-! DEFINITION. The instruction tables of groups 4, 5 and A as shapes (R159-R161, R178, R186, R187, R230-R232, R238,
R240). -/

namespace Sys2Proof.Machine

/-! ### Group 4 (R161) -/

/-- FMT codes (R159). -/
def elemOfCode (c : Nat) : Option Elem :=
  match c with
  | 0 => some .e4m3 | 1 => some .e5m2 | 2 => some .e3m2 | 3 => some .e2m3 | 4 => some .e2m1 | 5 => some .ng4
  | _ => none

/-- The element format of SUB[14:12]; a reserved code reads as E4M3 and fails row 4. -/
def fmtOf (f : RForm) : Elem := (elemOfCode f.sub.toNat).getD .e4m3
def fmtOk (f : RForm) : Bool := decide (f.sub.toNat ≤ 5)
/-- An FP32 span of a format (R160). -/
def spanN (e : Elem) : Nat := e.blocks
def vspan (n : Nat) : SlotSpec := { cls := [.v], n := n }
def vspanDst (n : Nat) : SlotSpec := { cls := [.v], n := n, rd := false, wr := true }
def mxSrc (n : Nat := 1) : SlotSpec := { cls := [.v], n := n, withE := true }
def mxDst (n : Nat := 1) : SlotSpec := { cls := [.v], n := n, withE := true, rd := false, wr := true }
def esrc : SlotSpec := { cls := [.e] }
def edst : SlotSpec := { cls := [.e], rd := false, wr := true }

def cvtTys : List Ty := tySn ++ [.f32, .f16, .bf16]
def isFpTy (t : Ty) : Bool := tyFp.contains t
/-- The source type of `CVT` and `CVTP` (OPX). -/
def stOf (f : RForm) : Ty := tyOfCode f.opx

def shCvt (f : RForm) : Shape :=
  rShape f { tys := cvtTys, sat := !(isFpTy (stOf f) && !isFpTy f.ty), rnd := true, sub := subZero f,
             opx := cvtTys.contains (stOf f) } (some 6)
    (vdst (nOf (tyWide f.ty))) (vsrc (tyWide (stOf f))) noSlot noSlot

/-- The modes of `CVTP` (R163): packing, unpacking, packed to packed. -/
inductive CvtpMode where
  | pack | unpack | repack | bad
deriving DecidableEq, Repr

def cvtpMode (f : RForm) : CvtpMode :=
  match f.ty, stOf f with
  | .f16x2, .f32 | .bf16x2, .f32 => .pack
  | .f32, .f16x2 | .f32, .bf16x2 => .unpack
  | .f16x2, .bf16x2 | .bf16x2, .f16x2 => .repack
  | _, _ => .bad

def shCvtp (f : RForm) : Shape :=
  let md := cvtpMode f
  rShape f { tys := [.f32, .f16x2, .bf16x2], sat := md != .unpack, rnd := md != .unpack, sub := subZero f,
             opx := md != .bad } (some 6)
    (vdst (if md = .unpack then 2 else 1)) vsrc (if md = .pack then vsrc else noSlot) noSlot

def mxAllow (f : RForm) : RAllow := { bareX f with sub := fmtOk f, opx := opxBit0 f }

def shMxpk (f : RForm) : Shape :=
  rShape f (mxAllow f) (some 10) mxDst (vspan (spanN (fmtOf f))) { cls := [.e, .s, .imm, .kc] } noSlot
def shMxup (f : RForm) : Shape :=
  rShape f { bareX f with sub := fmtOk f } (some 10) (vspanDst (spanN (fmtOf f))) mxSrc noSlot noSlot
def shQnt (f : RForm) : Shape := rShape f (mxAllow f) (some 10) mxDst (vspan (spanN (fmtOf f))) noSlot noSlot
def areg : SlotSpec := { cls := [.a] }
def shQnta (f : RForm) : Shape := { rShape f (mxAllow f) none mxDst areg uni noSlot with path := some .m }
def shAccrd (f : RForm) : Shape := { rShape f (bareX f) none vdst areg uni noSlot with path := some .m }
def shAccwr (f : RForm) : Shape :=
  { rShape f { bareX f with opx := opxBit0 f } none areg uni vreg noSlot with path := some .m }

/-- SMASK, X[19:12] (R161). -/
def smask (f : RForm) : BitVec 8 := f.opx ++ f.sub
/-- A non-zero SMASK (R175; for `ECHK` DEDUCED, log 25). -/
def smaskX (f : RForm) : RAllow := { bareX f with sub := smask f != 0, opx := true }
def shEmov (f : RForm) : Shape := rShape f (smaskX f) (some 4) edst esrc noSlot noSlot .noEffect
def shEset (f : RForm) : Shape := rShape f (smaskX f) (some 4) edst uni noSlot noSlot .noEffect
def shEget (f : RForm) : Shape :=
  let w := f.ty == .b64
  rShape f (plainX f [.s32, .b64]) (some 4) { cls := [.s, .v], n := nOf w, al := nOf w, rd := false, wr := true } esrc
    (if w then noSlot else uni) noSlot
def shEadd (f : RForm) : Shape := rShape f (smaskX f) (some 4) edst esrc uni noSlot .noEffect
def shEamax (f : RForm) : Shape :=
  rShape f (mxAllow f) (some 10) { edst with rd := f.opx == 1 } (vspan (spanN (fmtOf f))) noSlot noSlot .noEffect
/-- The source format of `MXCVT`, OPX[2:0] (R161). -/
def sfmtOf (f : RForm) : Elem := (elemOfCode (f.opx.toNat % 8)).getD .e4m3
/-- Registers of each side of `MXCVT` (R169). -/
def mxcvtN (f : RForm) (side : Elem) : Nat :=
  if (fmtOf f).width = 4 ∨ (sfmtOf f).width = 4 then (if side.width = 4 then 1 else 2) else 1
def shMxcvt (f : RForm) : Shape :=
  rShape f { bareX f with sub := fmtOk f, opx := decide (f.opx.toNat % 8 ≤ 5) } (some 10)
    (mxDst (mxcvtN f (fmtOf f))) (mxSrc (mxcvtN f (sfmtOf f))) noSlot noSlot
def shEchk (f : RForm) : Shape :=
  rShape f (smaskX f) (some 4) sdst esrc { uni with opt := true } noSlot .noEffect

/-! ### Group 5 (R178) -/

def tyB : List Ty := [.b32, .b64]
def vdstW (f : RForm) : SlotSpec := vdst (nOf (tyWide f.ty))
def vregW (f : RForm) : SlotSpec := vreg (nOf (tyWide f.ty))
def shQswz (f : RForm) : Shape :=
  rShape f { tys := tyB, sub := true, opx := true } (some 4) (vdstW f) (vregW f) noSlot noSlot
def shQbcst (f : RForm) : Shape := rShape f (plainX f tyB) (some 4) (vdstW f) (vregW f) vsrc noSlot
def shShfl (f : RForm) : Shape :=
  rShape f { tys := tyB, sub := decide (f.sub.toNat ≤ 3), opx := decide (f.opx.toNat ≤ 4) } (some 6) (vdstW f) (vregW f)
    vsrc noSlot
def shShflx (f : RForm) : Shape := rShape f (plainX f tyB) (some 6) (vdstW f) (vregW f) (vregW f) vsrc
def shShfld (f : RForm) : Shape := rShape f (plainX f tyB) (some 6) (vdstW f) (vregW f) (vregW f) uni
def skDst : SlotSpec := { cls := [.s, .k], rd := false, wr := true }
def kvSrc : SlotSpec := { cls := [.k, .v] }
def shBallot (f : RForm) : Shape := rShape f (bareX f) (some 6) skDst kvSrc noSlot noSlot
def shVote (f : RForm) : Shape := rShape f { bareX f with sub := decide (f.sub.toNat ≤ 2) } (some 6) skDst kvSrc noSlot noSlot
def shMbcnt (f : RForm) : Shape :=
  rShape f { bareX f with sub := decide (f.sub.toNat ≤ 1) } (some 6) vdst kuni { vsrc with opt := true } noSlot
def shCmprs (f : RForm) : Shape := rShape f (plainX f tyB) (some 6) (vdstW f) (vregW f) kuni noSlot

/-- The types of a reduction operation (R186). -/
def wredTys (sub : BitVec 4) : List Ty :=
  match sub.toNat with
  | 0 | 1 | 2 => [.s32, .n32, .s64, .n64, .f32]
  | 3 | 4 | 5 => [.b32, .b64]
  | _ => []
def wredAllow (f : RForm) (opx : Bool) : RAllow :=
  { tys := wredTys f.sub, sat := f.sub == 0 && f.ty != .f32, rnd := f.sub == 0 && f.ty == .f32, sub := true, opx := opx }
def shWred (f : RForm) : Shape :=
  let n := nOf (tyWide f.ty)
  rShape f (wredAllow f (opxZero f)) (some 10) { cls := [.s, .v], n := n, al := n, rd := false, wr := true } (vregW f)
    noSlot noSlot
def shWscan (f : RForm) : Shape := rShape f (wredAllow f (opxBit0 f)) (some 10) (vdstW f) (vregW f) noSlot noSlot

/-! ### Group A (R240) -/

/-- "cnt" and "val" of R240. -/
def cntSlot : SlotSpec := { cls := [.imm, .kc, .m] }
def valSlot : SlotSpec := { cls := [.imm, .kc, .m], n := 2, al := 2 }
def mreg : SlotSpec := { cls := [.m] }
def mdst : SlotSpec := { cls := [.m], rd := false, wr := true }
def seqSh (sh : Shape) : Shape := { sh with stream := .seq }

/-- Format codes of R238: a half code is legal only with itself. -/
def mmaFmtOk (f : RForm) : Bool :=
  decide (f.sub.toNat ≤ 7) && decide (f.opx.toNat ≤ 7) &&
  (f.sub == f.opx || (decide (f.sub.toNat ≤ 5) && decide (f.opx.toNat ≤ 5)))
def mmaAllow (f : RForm) : RAllow := { tys := [.f32], sub := mmaFmtOk f, opx := true }
def shMma (f : RForm) : Shape := seqSh (rShape f (mmaAllow f) none areg mreg mreg cntSlot)
def shMmag (f : RForm) : Shape := seqSh (rShape f (mmaAllow f) none areg mreg mreg mreg)
def shAzero (f : RForm) : Shape := seqSh (rShape f (bareX f) none areg { cntSlot with opt := true } noSlot noSlot)
/-- Tile types of `ALDS` and `ASTS` (R240). -/
def tileTyOk (c : BitVec 4) : Bool := c == 8 || c == 0xB || c == 0xC
def seqC (f : CForm) (p : Path) (modOk : Bool) (ds as bs : SlotSpec) : Shape :=
  seqSh (cShape f (some p) (f.ord == 0 && f.scp == 0 && modOk) true ds as bs)
def shAlds (f : CForm) : Shape :=
  seqC f .s (tileTyOk f.ty && decide (f.sub.toNat ≤ 1) && f.cp == 0 && f.wid == 0) areg mreg noSlot
def shAsts (f : CForm) : Shape :=
  seqC f .s (tileTyOk f.ty && f.sub == 0 && f.cp == 0 && f.wid == 0) areg mreg noSlot
def shAstq (f : CForm) : Shape :=
  seqC f .w (decide (f.ty.toNat ≤ 3) && decide (f.sub.toNat ≤ 5) && f.wid == 0) areg mreg { mreg with opt := true }
def immSlot : SlotSpec := { cls := [.imm] }
def shMbara (f : RForm) : Shape := seqSh (rShape f { bareX f with opx := opxBit0 f } none noSlot immSlot noSlot noSlot)
def shMbarw (f : RForm) : Shape := seqSh (rShape f (bareX f) none noSlot immSlot cntSlot noSlot)
def shMloop (f : JForm) : Shape :=
  { seqSh (jShape f .lanes true (some f.x) valSlot) with ds := mdst, lat := some 1 }
def shMnext (f : JForm) : Shape :=
  { seqSh (jShape f .lanes true (some f.x)) with ds := { mdst with rd := true }, lat := some 1 }
def shMbra (f : JForm) : Shape := seqSh (jShape f .lanes true (some f.x) { mreg with opt := true })
def shMend (f : JForm) : Shape := seqSh (jShape f .lanes (f.x == 0) none)
def shMmov (f : RForm) : Shape := seqSh (rShape f (bareX f) (some 2) mdst valSlot noSlot noSlot)
def shMadd (f : RForm) : Shape := seqSh (rShape f { bareX f with opx := true } (some 2) mdst valSlot valSlot noSlot)
def shMlds (f : CForm) : Shape :=
  seqC f .s (f.ty == 0 && f.sub == 0 && f.cp == 0 && f.wid == 3) mdst mreg noSlot
def shMcpyk (f : RForm) : Shape :=
  seqSh { rShape f (bareX f) none { mdst with opt := true } cntSlot noSlot noSlot with path := some .c }
def shMwaitc (f : RForm) : Shape :=
  seqSh (rShape f { bareX f with sub := f.sub == 2 || f.sub == 3 || f.sub == 4 } none noSlot cntSlot noSlot noSlot)
def shMfencex (f : JForm) : Shape := seqSh (jShape f .lanes (fencexOk f.x && f.x.getLsbD 1) none)

end Sys2Proof.Machine
end

