-- ==== Sys2Proof/WellFormed.lean ====
section
/-! DEFINITION. What a well-formed instruction term is: a word that some kernel can execute, that is, one that passes
the checks of R90 that depend on the word alone (rows 1 to 6) with the largest declared counts of R18. The other steps
of the opcode table have no word; those that name a device unit by number must name one that exists. -/

namespace Sys2Proof

open Sys2Proof.Machine

/-- The operand values that the table of R69 does not list, but for special-register indices (R24). -/
def rsvRaw (r : BitVec 12) : Bool :=
  (r.extractLsb' 10 2 == 1 && r.extractLsb' 9 1 == 1 && r.extractLsb' 6 2 != 0) ||
  (r.extractLsb' 10 2 == 2 && ((r.extractLsb' 7 3 == 0 && r.extractLsb' 3 4 != 0) || r.extractLsb' 9 1 == 1)) ||
  (r.extractLsb' 10 2 == 3 && r != 0xFFF)

/-- `rsv` holds only what no other operand term spells. -/
def Opnd.canon : Opnd → Bool
  | .rsv r => rsvRaw r
  | _ => true

/-- The word passes the static checks in the stream its table row names, with a transfer in range. -/
def wfShape (sh : Shape) : Bool :=
  ({ sh with offs := none } : Shape).check (sh.stream == .seq) Declared.most 0 == none &&
  sh.d.canon && sh.a.canon && sh.b.canon && sh.c.canon

/-- `NOP` ignores D, A, B, X and G (R70). -/
def wfNop (f : JForm) : Bool := wfShape (shNop f) && f.d.canon && f.a.canon && f.b.canon

/-- The opcode of a word (R66). -/
def opOfWord (w : IWord) : Nat := (w.extractLsb' 0 10).toNat

/-- The number of functions of each opcode group (R84). -/
def groupSize (grp : Nat) : Nat :=
  match grp with
  | 0 => 17 | 1 => 27 | 2 => 29 | 3 => 21 | 4 => 15 | 5 => 11 | 6 => 15 | 7 => 9 | 8 => 7 | 9 => 11 | 10 => 18
  | 11 => 11 | _ => 0

/-- An opcode that R84 does not assign (R85). -/
def opUnassigned (w : IWord) : Bool := decide (groupSize (opOfWord w / 64) ≤ opOfWord w % 64)

def wfDie (i : Nat) : Bool := decide (i < 4)

/-- Well-formedness of every step of the opcode table. -/
def WellFormed : Instr → Bool
  | .nop f => wfNop f
  | .bra f => wfShape (shBra f)
  | .brz f => wfShape (shBrz f)
  | .brnz f => wfShape (shBrz f)
  | .jmpi f => wfShape (shJmpi f)
  | .call f => wfShape (shBra f)
  | .calli f => wfShape (shJmpi f)
  | .ret f => wfShape (shPlainJ f)
  | .ifc f => wfShape (shIf f)
  | .elsec f => wfShape (shBra f)
  | .endif f => wfShape (shPlainJ f)
  | .loop f => wfShape (shPlainJ f)
  | .breakc f => wfShape (shBreak f)
  | .endl f => wfShape (shBra f)
  | .exit f => wfShape (shExit f)
  | .yield f => wfShape (shPlainJ f)
  | .sleep f => wfShape (shSleep f)
  | .smov f => wfShape (shSmov f)
  | .sli f => wfShape (shSli f)
  | .sadd f => wfShape (shSadd f)
  | .ssub f => wfShape (shSadd f)
  | .smul f => wfShape (shSadd f)
  | .smulh f => wfShape (shSmulh f)
  | .smad f => wfShape (shSmad f)
  | .sand f => wfShape (shSand f)
  | .sor f => wfShape (shSand f)
  | .sxor f => wfShape (shSand f)
  | .snot f => wfShape (shSnot f)
  | .sshl f => wfShape (shSshl f)
  | .sshr f => wfShape (shSshl f)
  | .ssar f => wfShape (shSshl f)
  | .smin f => wfShape (shSmulh f)
  | .smax f => wfShape (shSmulh f)
  | .scmp f => wfShape (shScmp f)
  | .ssel f => wfShape (shSsel f)
  | .sbfe f => wfShape (shSbfe f)
  | .sbfi f => wfShape (shSbfi f)
  | .spopc f => wfShape (shSpopc f)
  | .sclz f => wfShape (shSpopc f)
  | .slea f => wfShape (shSlea f)
  | .sldk f => wfShape (shSldk f)
  | .sfromv f => wfShape (shSfromv f)
  | .sfromk f => wfShape (shSfromk f)
  | .kfroms f => wfShape (shKfroms f)
  | .vmov f => wfShape (shVmov f)
  | .vli f => wfShape (shVli f)
  | .vadd f => wfShape (shVadd f)
  | .vsub f => wfShape (shVadd f)
  | .vmul f => wfShape (shVmul f)
  | .vmulh f => wfShape (shVmulh f)
  | .vmad f => wfShape (shVmad f)
  | .vand f => wfShape (shVand f)
  | .vor f => wfShape (shVand f)
  | .vxor f => wfShape (shVand f)
  | .vnot f => wfShape (shVnot f)
  | .vshl f => wfShape (shVshl f)
  | .vshr f => wfShape (shVshl f)
  | .vsar f => wfShape (shVshl f)
  | .vmin f => wfShape (shVmin f)
  | .vmax f => wfShape (shVmin f)
  | .vabs f => wfShape (shVabs f)
  | .vcmp f => wfShape (shVcmp f)
  | .vsel f => wfShape (shVsel f)
  | .vbfe f => wfShape (shVbfe f)
  | .vbfi f => wfShape (shVbfi f)
  | .vpopc f => wfShape (shVpopc f)
  | .vclz f => wfShape (shVpopc f)
  | .vbrev f => wfShape (shVnot f)
  | .vlea f => wfShape (shVlea f)
  | .vdot4 f => wfShape (shVdot4 f)
  | .vprmb f => wfShape (shVprmb f)
  | .vfroms f => wfShape (shVfroms f)
  | .klogic f => wfShape (shKlogic f)
  | .fadd f => wfShape (shF2 f)
  | .fsub f => wfShape (shF2 f)
  | .fmul f => wfShape (shF2 f)
  | .ffma f => wfShape (shFfma f)
  | .fmin f => wfShape (shFmin f)
  | .fmax f => wfShape (shFmin f)
  | .fcmp f => wfShape (shFcmp f)
  | .frcp f => wfShape (shF1 f)
  | .frsq f => wfShape (shF1 f)
  | .fsqrt f => wfShape (shFsqrt f)
  | .fexp2 f => wfShape (shF1 f)
  | .flog2 f => wfShape (shF1 f)
  | .fsinp f => wfShape (shF1 f)
  | .fcosp f => wfShape (shF1 f)
  | .ftanh f => wfShape (shF1 f)
  | .fscl f => wfShape (shFscl f)
  | .frnd f => wfShape (shFrnd f)
  | .ffrac f => wfShape (shFfrac f)
  | .fclass f => wfShape (shFclass f)
  | .fdot2 f => wfShape (shFdot2 f)
  | .ferf f => wfShape (shF1 f)
  | .cvt f => wfShape (shCvt f)
  | .cvtp f => wfShape (shCvtp f)
  | .mxpk f => wfShape (shMxpk f)
  | .mxup f => wfShape (shMxup f)
  | .qnt f => wfShape (shQnt f)
  | .qnta f => wfShape (shQnta f)
  | .accrd f => wfShape (shAccrd f)
  | .accwr f => wfShape (shAccwr f)
  | .emov f => wfShape (shEmov f)
  | .eset f => wfShape (shEset f)
  | .eget f => wfShape (shEget f)
  | .eadd f => wfShape (shEadd f)
  | .eamax f => wfShape (shEamax f)
  | .mxcvt f => wfShape (shMxcvt f)
  | .echk f => wfShape (shEchk f)
  | .qswz f => wfShape (shQswz f)
  | .qbcst f => wfShape (shQbcst f)
  | .shfl f => wfShape (shShfl f)
  | .shflx f => wfShape (shShflx f)
  | .shfld f => wfShape (shShfld f)
  | .ballot f => wfShape (shBallot f)
  | .vote f => wfShape (shVote f)
  | .mbcnt f => wfShape (shMbcnt f)
  | .cmprs f => wfShape (shCmprs f)
  | .wred f => wfShape (shWred f)
  | .wscan f => wfShape (shWscan f)
  | .ldg f => wfShape (shLdg f)
  | .stg f => wfShape (shStg f)
  | .lds f => wfShape (shLds f)
  | .sts f => wfShape (shSts f)
  | .ldcl f => wfShape (shLds f)
  | .stcl f => wfShape (shSts f)
  | .ldmx f => wfShape (shLdmx f)
  | .stmx f => wfShape (shStmx f)
  | .sldg f => wfShape (shSldg f)
  | .sstg f => wfShape (shSstg f)
  | .cmpst f => wfShape (shCmpst f)
  | .expld f => wfShape (shExpld f)
  | .fifopop f => wfShape (shFifopop f)
  | .fifopush f => wfShape (shFifopush f)
  | .pref f => wfShape (shPref f)
  | .atom f => wfShape (shAtom f)
  | .acas f => wfShape (shAcas f)
  | .red f => wfShape (shRed f)
  | .redd f => wfShape (shRedd f)
  | .rflush f => wfShape (shRflush f)
  | .fence f => wfShape (shFence f)
  | .fencex f => wfShape (shFencex f)
  | .waitc f => wfShape (shWaitc f)
  | .rdcnt f => wfShape (shRdcnt f)
  | .cpyk f => wfShape (shCpyk f)
  | .gsk f => wfShape (shGsk f)
  | .colk f => wfShape (shColk f)
  | .rkput f => wfShape (shRkput f)
  | .rkget f => wfShape (shRkput f)
  | .migh f => wfShape (shMigh f)
  | .launch f => wfShape (shLaunch f)
  | .bar f => wfShape (shBar f)
  | .bara f => wfShape (shBar f)
  | .barw f => wfShape (shBarw f)
  | .cbara f => wfShape (shCbara f)
  | .cbarw f => wfShape (shCbarw f)
  | .dbara f => wfShape (shCbara f)
  | .dbarw f => wfShape (shCbarw f)
  | .boinit f => wfShape (shBoinit f)
  | .boarv f => wfShape (shBoarv f)
  | .boexp f => wfShape (shBoinit f)
  | .bowait f => wfShape (shBowait f)
  | .mma f => wfShape (shMma f)
  | .mmag f => wfShape (shMmag f)
  | .azero f => wfShape (shAzero f)
  | .alds f => wfShape (shAlds f)
  | .asts f => wfShape (shAsts f)
  | .astq f => wfShape (shAstq f)
  | .mbara f => wfShape (shMbara f)
  | .mbarw f => wfShape (shMbarw f)
  | .mloop f => wfShape (shMloop f)
  | .mnext f => wfShape (shMnext f)
  | .mbra f => wfShape (shMbra f)
  | .mend f => wfShape (shMend f)
  | .mmov f => wfShape (shMmov f)
  | .madd f => wfShape (shMadd f)
  | .mlds f => wfShape (shMlds f)
  | .mcpyk f => wfShape (shMcpyk f)
  | .mwaitc f => wfShape (shMwaitc f)
  | .mfencex f => wfShape (shMfencex f)
  | .sread f => wfShape (shSread f)
  | .swrite f => wfShape (shSwrite f)
  | .trap f => wfShape (shTrap f)
  | .brk f => wfShape (shTrap f)
  | .rte f => wfShape (shRte f)
  | .ctrget f => wfShape (shCtrget f)
  | .ctrset f => wfShape (shCtrset f)
  | .rng f => wfShape (shRng f)
  | .clock f => wfShape (shClock f)
  | .gtime f => wfShape (shClock f)
  | .pmrd f => wfShape (shPmrd f)
  | .loadDataReturn _ _ => true
  | .storePerformed _ _ => true
  | .scratchOpComplete _ _ => true
  | .atomicComplete _ _ => true
  | .engineRequestRead _ => true
  | .fabricAnswer _ _ => true
  | .instructionFetchReturn _ => true
  | .barrierTimeout _ => true
  | .fifoWaitTimeout _ _ => true
  | .tileWriteComplete _ _ => true
  | .reddMerge _ _ => true
  | .l2FillLand d _ => wfDie d
  | .hostCxlWrite _ _ _ => true
  | .contextDescWrite _ _ _ _ => true
  | .castleAbort _ _ _ => true
  | .peerRequestReceive _ => true
  | .peerResponseReceive _ _ _ _ => true
  | .peerRequestTimeout _ => true
  | .bulkReservationRequest _ _ _ => true
  | .incarnationAnnounce _ _ _ => true
  | .quiesceNotice _ _ => true
  | .waiporSegmentSend _ _ => true
  | .waiporSegmentReceive _ _ => true
  | .waiporRtoExpire _ _ => true
  | .keyInstallTimeout _ => true
  | .collectiveComplete _ _ => true
  | .rookPutArrive _ _ => true
  | .rookStagingDone _ _ _ _ => true
  | .rookGetArrive _ => true
  | .rookGetTimeout _ _ => true
  | .rookRegionWrite _ _ _ _ => true
  | .powerStateCmd _ _ => true
  | .thermalHalt _ _ => true
  | .correctedError _ => true
  | .uncorrectableError _ => true
  | .boot _ _ _ => true
  | .getCertificate _ => true
  | .challenge _ => true
  | .getMeasurements _ _ => true
  | .registerWrite _ _ _ => true
  | .unassignedOpcodeIssue raw => opUnassigned raw
  | .memoryRefresh _ => true
  | .hostCxlRead _ => true
  | .stationLinkChange _ _ => true
  | .quiesceAcknowledge _ => true
  | .pathMComplete => true
  | .warpSlotFree => true
  | .blockEnd => true
  | .sleepExpire => true
  | .bowaitTimeout => true
  | .pendingTrapTaken => true
  | .warpReissue => true
  | .faultRecordWrite => true
  | .faultAnswerService => true
  | .faultAnswerReject => true
  | .matrixTurn => true
  | .gridComplete => true
  | .queueEnable => true
  | .queueDisable => true
  | .launchSlotSnoop => true
  | .gridLaunch => true
  | .blockPlace => true
  | .gridPreempt => true
  | .warpQuietStop => true
  | .warpForcedStop => true
  | .sequencerStop => true
  | .blockSave => true
  | .saveComplete => true
  | .gridRestore => true
  | .gridEnd => true
  | .retrainRequest => true
  | .retrainCancel => true
  | .retrainActivate => true
  | .retrainDone => true
  | .bankToOff => true
  | .bankToCache => true
  | .bankToFifo => true
  | .bankModeChange => true
  | .crossDieWriteApply => true
  | .remoteLineFetch => true
  | .tlbFlushContext => true
  | .tlbFlushPage => true
  | .tlbFlushDone => true
  | .castleMove => true
  | .castleAbortCmd => true
  | .checkpoint => true
  | .hotnessSync => true
  | .hotnessDecay => true
  | .castleLineCopy => true
  | .lineLockTimeout => true
  | .castleMoveComplete => true
  | .completionLockTimeout => true
  | .castleEventWrite => true
  | .checkpointDone => true
  | .rollbackRecovery => true
  | .gridRelaunch => true
  | .reservationWindowExpire => true
  | .dieReset => true
  | .keyInstall => true
  | .copyLineWritten => true
  | .gatherRowDone => true
  | .rookDeadline => true
  | .rookUpdateDone => true
  | .rookMirrorDone => true
  | .rookMirrorRetry => true
  | .rookPublishDone => true
  | .rookActivateMirror => true
  | .rookForcePartial => true
  | .rookForceSkip => true
  | .rookReset => true
  | .powerTransitionDone => true
  | .softFuse => true
  | .devtimeSet => true
  | .dieFault => true
  | .getVersion => true
  | .getCapabilities => true
  | .negotiateAlgorithms => true
  | .getDigests => true
  | .reservationWindowStart => true

end Sys2Proof
end

