-- ==== Sys2Proof/Decode.lean ====
section
/-! DEFINITION. Decoding and encoding of the 96-bit instruction word (R66-R79, R84). Decoding is total: a word whose
opcode R84 does not assign decodes to the step that issues it (R85), and an operand value that R69 reserves to `rsv`;
what is illegal about a word is found when it issues (R90). Fewer than twelve bytes decode to nothing. -/

namespace Sys2Proof

open Sys2Proof.Machine

/-! ### Operands and fields -/

/-- An operand specifier (R69). -/
def decodeOpnd (r : BitVec 12) : Opnd :=
  match (r.extractLsb' 10 2).toNat with
  | 0 => .s (r.extractLsb' 0 10)
  | 1 => match (r.extractLsb' 8 2).toNat with
    | 0 => .v (r.extractLsb' 0 8)
    | 1 => .e (r.extractLsb' 0 8)
    | 2 => if r.extractLsb' 6 2 = 0 then .a (r.extractLsb' 0 6) else .rsv r
    | _ => if r.extractLsb' 6 2 = 0 then .m (r.extractLsb' 0 6) else .rsv r
  | 2 => match (r.extractLsb' 7 3).toNat with
    | 0 => if r.extractLsb' 3 4 = 0 then .k (r.extractLsb' 0 3) else .rsv r
    | 1 => .sp (r.extractLsb' 0 7)
    | 2 => .imm (r.extractLsb' 0 7)
    | 3 => .kc (r.extractLsb' 0 7)
    | _ => .rsv r
  | _ => if r = 0xFFF then .none else .rsv r

/-- The specifier of an operand (R69). -/
def encodeOpnd : Opnd → BitVec 12
  | .s n => (0 : BitVec 2) ++ n
  | .v n => (4 : BitVec 4) ++ n
  | .e n => (5 : BitVec 4) ++ n
  | .a n => (24 : BitVec 6) ++ n
  | .m n => (28 : BitVec 6) ++ n
  | .k n => (256 : BitVec 9) ++ n
  | .sp n => (17 : BitVec 5) ++ n
  | .imm i => (18 : BitVec 5) ++ i
  | .kc n => (19 : BitVec 5) ++ n
  | .none => 0xFFF
  | .rsv r => r

def decodeGuard (b : BitVec 4) : Guard := ⟨bit b 3, b.extractLsb' 0 3⟩
def encodeGuard (x : Guard) : BitVec 4 := BitVec.ofBool x.neg ++ x.idx

/-- The hint field (R79). -/
def decodeHints (b : BitVec 14) : Hints :=
  ⟨b.extractLsb' 9 5, b.extractLsb' 6 3, bit b 5, bit b 4, b.extractLsb' 0 4⟩
def encodeHints (x : Hints) : BitVec 14 :=
  x.wth ++ (x.wpath ++ (BitVec.ofBool x.wo ++ (BitVec.ofBool x.yld ++ x.st)))

def rndOfCode (c : BitVec 2) : Rnd :=
  match c.toNat with
  | 0 => .rne | 1 => .rz | 2 => .rd | _ => .ru
def rndCode : Rnd → BitVec 2
  | .rne => 0 | .rz => 1 | .rd => 2 | .ru => 3

/-- TYPE codes (R73). -/
def tyBits : Ty → BitVec 4
  | .s32 => 0 | .n32 => 1 | .s64 => 2 | .n64 => 3 | .s16 => 4 | .n16 => 5 | .s8 => 6 | .n8 => 7
  | .f32 => 8 | .f16x2 => 9 | .bf16x2 => 10 | .f16 => 11 | .bf16 => 12 | .b32 => 13 | .b64 => 14 | .rsv => 15

/-! ### The fields of a word (R66) -/

def wOp (w : IWord) : BitVec 10 := w.extractLsb' 0 10
def wG (w : IWord) : BitVec 4 := w.extractLsb' 10 4
def wD (w : IWord) : BitVec 12 := w.extractLsb' 14 12
def wA (w : IWord) : BitVec 12 := w.extractLsb' 26 12
def wB (w : IWord) : BitVec 12 := w.extractLsb' 38 12
def wX (w : IWord) : Word := w.extractLsb' 50 32
def wH (w : IWord) : BitVec 14 := w.extractLsb' 82 14

/-- The word with these fields, H highest (R66). -/
def mkWord (h : BitVec 14) (x : Word) (b a d : BitVec 12) (g : BitVec 4) (op : BitVec 10) : IWord :=
  h ++ (x ++ (b ++ (a ++ (d ++ (g ++ op)))))

/-! ### Formats -/

/-- Format R (R73). -/
def decodeR (w : IWord) : RForm :=
  let x := wX w
  { h := decodeHints (wH w), g := decodeGuard (wG w), d := decodeOpnd (wD w), a := decodeOpnd (wA w),
    b := decodeOpnd (wB w), c := decodeOpnd (x.extractLsb' 20 12), opx := x.extractLsb' 16 4, sub := x.extractLsb' 12 4,
    nc := bit x 11, ab := bit x 10, nb := bit x 9, aa := bit x 8, na := bit x 7, sat := bit x 6,
    rnd := rndOfCode (x.extractLsb' 4 2), ty := tyOfCode (x.extractLsb' 0 4) }

def encodeRX (f : RForm) : Word :=
  encodeOpnd f.c ++ (f.opx ++ (f.sub ++ (BitVec.ofBool f.nc ++ (BitVec.ofBool f.ab ++ (BitVec.ofBool f.nb ++
    (BitVec.ofBool f.aa ++ (BitVec.ofBool f.na ++ (BitVec.ofBool f.sat ++ (rndCode f.rnd ++ tyBits f.ty)))))))))

def encodeR (op : BitVec 10) (f : RForm) : IWord :=
  mkWord (encodeHints f.h) (encodeRX f) (encodeOpnd f.b) (encodeOpnd f.a) (encodeOpnd f.d) (encodeGuard f.g) op

/-- Format I (R74). -/
def decodeI (w : IWord) : IForm :=
  { h := decodeHints (wH w), g := decodeGuard (wG w), d := decodeOpnd (wD w), a := decodeOpnd (wA w), bm := wB w,
    x := wX w }

def encodeI (op : BitVec 10) (f : IForm) : IWord :=
  mkWord (encodeHints f.h) f.x f.bm (encodeOpnd f.a) (encodeOpnd f.d) (encodeGuard f.g) op

/-- Format M (R75). -/
def decodeM (w : IWord) : MForm :=
  let x := wX w
  { h := decodeHints (wH w), g := decodeGuard (wG w), d := decodeOpnd (wD w), a := decodeOpnd (wA w),
    b := decodeOpnd (wB w), ofs := x.extractLsb' 12 20, rsv := x.extractLsb' 10 2, cp := x.extractLsb' 8 2,
    scp := x.extractLsb' 5 3, ord := x.extractLsb' 3 2, wid := x.extractLsb' 0 3 }

def encodeM (op : BitVec 10) (f : MForm) : IWord :=
  mkWord (encodeHints f.h) (f.ofs ++ (f.rsv ++ (f.cp ++ (f.scp ++ (f.ord ++ f.wid))))) (encodeOpnd f.b) (encodeOpnd f.a)
    (encodeOpnd f.d) (encodeGuard f.g) op

/-- The compact layout (R77). -/
def decodeC (w : IWord) : CForm :=
  let x := wX w
  { h := decodeHints (wH w), g := decodeGuard (wG w), d := decodeOpnd (wD w), a := decodeOpnd (wA w),
    b := decodeOpnd (wB w), ofs := x.extractLsb' 20 12, ty := x.extractLsb' 16 4, sub := x.extractLsb' 12 4,
    rsv := x.extractLsb' 10 2, cp := x.extractLsb' 8 2, scp := x.extractLsb' 5 3, ord := x.extractLsb' 3 2,
    wid := x.extractLsb' 0 3 }

def encodeC (op : BitVec 10) (f : CForm) : IWord :=
  mkWord (encodeHints f.h) (f.ofs ++ (f.ty ++ (f.sub ++ (f.rsv ++ (f.cp ++ (f.scp ++ (f.ord ++ f.wid)))))))
    (encodeOpnd f.b) (encodeOpnd f.a) (encodeOpnd f.d) (encodeGuard f.g) op

/-- Format J (R78). -/
def decodeJ (w : IWord) : JForm :=
  { h := decodeHints (wH w), g := decodeGuard (wG w), d := decodeOpnd (wD w), a := decodeOpnd (wA w),
    b := decodeOpnd (wB w), x := wX w }

def encodeJ (op : BitVec 10) (f : JForm) : IWord :=
  mkWord (encodeHints f.h) f.x (encodeOpnd f.b) (encodeOpnd f.a) (encodeOpnd f.d) (encodeGuard f.g) op

/-! ### The opcode map (R84) -/

/-- Group 0 of the opcode map (R84). -/
def decodeGroup0 (fn : Nat) (w : IWord) : Instr :=
  match fn with
  | 0 => .nop (decodeJ w)
  | 1 => .bra (decodeJ w)
  | 2 => .brz (decodeJ w)
  | 3 => .brnz (decodeJ w)
  | 4 => .jmpi (decodeR w)
  | 5 => .call (decodeJ w)
  | 6 => .calli (decodeR w)
  | 7 => .ret (decodeJ w)
  | 8 => .ifc (decodeJ w)
  | 9 => .elsec (decodeJ w)
  | 10 => .endif (decodeJ w)
  | 11 => .loop (decodeJ w)
  | 12 => .breakc (decodeJ w)
  | 13 => .endl (decodeJ w)
  | 14 => .exit (decodeJ w)
  | 15 => .yield (decodeJ w)
  | 16 => .sleep (decodeI w)
  | _ => .unassignedOpcodeIssue w

/-- Group 1 of the opcode map (R84). -/
def decodeGroup1 (fn : Nat) (w : IWord) : Instr :=
  match fn with
  | 0 => .smov (decodeR w)
  | 1 => .sli (decodeI w)
  | 2 => .sadd (decodeR w)
  | 3 => .ssub (decodeR w)
  | 4 => .smul (decodeR w)
  | 5 => .smulh (decodeR w)
  | 6 => .smad (decodeR w)
  | 7 => .sand (decodeR w)
  | 8 => .sor (decodeR w)
  | 9 => .sxor (decodeR w)
  | 10 => .snot (decodeR w)
  | 11 => .sshl (decodeR w)
  | 12 => .sshr (decodeR w)
  | 13 => .ssar (decodeR w)
  | 14 => .smin (decodeR w)
  | 15 => .smax (decodeR w)
  | 16 => .scmp (decodeR w)
  | 17 => .ssel (decodeR w)
  | 18 => .sbfe (decodeR w)
  | 19 => .sbfi (decodeR w)
  | 20 => .spopc (decodeR w)
  | 21 => .sclz (decodeR w)
  | 22 => .slea (decodeR w)
  | 23 => .sldk (decodeI w)
  | 24 => .sfromv (decodeR w)
  | 25 => .sfromk (decodeR w)
  | 26 => .kfroms (decodeR w)
  | _ => .unassignedOpcodeIssue w

/-- Group 2 of the opcode map (R84). -/
def decodeGroup2 (fn : Nat) (w : IWord) : Instr :=
  match fn with
  | 0 => .vmov (decodeR w)
  | 1 => .vli (decodeI w)
  | 2 => .vadd (decodeR w)
  | 3 => .vsub (decodeR w)
  | 4 => .vmul (decodeR w)
  | 5 => .vmulh (decodeR w)
  | 6 => .vmad (decodeR w)
  | 7 => .vand (decodeR w)
  | 8 => .vor (decodeR w)
  | 9 => .vxor (decodeR w)
  | 10 => .vnot (decodeR w)
  | 11 => .vshl (decodeR w)
  | 12 => .vshr (decodeR w)
  | 13 => .vsar (decodeR w)
  | 14 => .vmin (decodeR w)
  | 15 => .vmax (decodeR w)
  | 16 => .vabs (decodeR w)
  | 17 => .vcmp (decodeR w)
  | 18 => .vsel (decodeR w)
  | 19 => .vbfe (decodeR w)
  | 20 => .vbfi (decodeR w)
  | 21 => .vpopc (decodeR w)
  | 22 => .vclz (decodeR w)
  | 23 => .vbrev (decodeR w)
  | 24 => .vlea (decodeR w)
  | 25 => .vdot4 (decodeR w)
  | 26 => .vprmb (decodeR w)
  | 27 => .vfroms (decodeR w)
  | 28 => .klogic (decodeR w)
  | _ => .unassignedOpcodeIssue w

/-- Group 3 of the opcode map (R84). -/
def decodeGroup3 (fn : Nat) (w : IWord) : Instr :=
  match fn with
  | 0 => .fadd (decodeR w)
  | 1 => .fsub (decodeR w)
  | 2 => .fmul (decodeR w)
  | 3 => .ffma (decodeR w)
  | 4 => .fmin (decodeR w)
  | 5 => .fmax (decodeR w)
  | 6 => .fcmp (decodeR w)
  | 7 => .frcp (decodeR w)
  | 8 => .frsq (decodeR w)
  | 9 => .fsqrt (decodeR w)
  | 10 => .fexp2 (decodeR w)
  | 11 => .flog2 (decodeR w)
  | 12 => .fsinp (decodeR w)
  | 13 => .fcosp (decodeR w)
  | 14 => .ftanh (decodeR w)
  | 15 => .fscl (decodeR w)
  | 16 => .frnd (decodeR w)
  | 17 => .ffrac (decodeR w)
  | 18 => .fclass (decodeR w)
  | 19 => .fdot2 (decodeR w)
  | 20 => .ferf (decodeR w)
  | _ => .unassignedOpcodeIssue w

/-- Group 4 of the opcode map (R84). -/
def decodeGroup4 (fn : Nat) (w : IWord) : Instr :=
  match fn with
  | 0 => .cvt (decodeR w)
  | 1 => .cvtp (decodeR w)
  | 2 => .mxpk (decodeR w)
  | 3 => .mxup (decodeR w)
  | 4 => .qnt (decodeR w)
  | 5 => .qnta (decodeR w)
  | 6 => .accrd (decodeR w)
  | 7 => .accwr (decodeR w)
  | 8 => .emov (decodeR w)
  | 9 => .eset (decodeR w)
  | 10 => .eget (decodeR w)
  | 11 => .eadd (decodeR w)
  | 12 => .eamax (decodeR w)
  | 13 => .mxcvt (decodeR w)
  | 14 => .echk (decodeR w)
  | _ => .unassignedOpcodeIssue w

/-- Group 5 of the opcode map (R84). -/
def decodeGroup5 (fn : Nat) (w : IWord) : Instr :=
  match fn with
  | 0 => .qswz (decodeR w)
  | 1 => .qbcst (decodeR w)
  | 2 => .shfl (decodeR w)
  | 3 => .shflx (decodeR w)
  | 4 => .shfld (decodeR w)
  | 5 => .ballot (decodeR w)
  | 6 => .vote (decodeR w)
  | 7 => .mbcnt (decodeR w)
  | 8 => .cmprs (decodeR w)
  | 9 => .wred (decodeR w)
  | 10 => .wscan (decodeR w)
  | _ => .unassignedOpcodeIssue w

/-- Group 6 of the opcode map (R84). -/
def decodeGroup6 (fn : Nat) (w : IWord) : Instr :=
  match fn with
  | 0 => .ldg (decodeM w)
  | 1 => .stg (decodeM w)
  | 2 => .lds (decodeM w)
  | 3 => .sts (decodeM w)
  | 4 => .ldcl (decodeM w)
  | 5 => .stcl (decodeM w)
  | 6 => .ldmx (decodeM w)
  | 7 => .stmx (decodeM w)
  | 8 => .sldg (decodeM w)
  | 9 => .sstg (decodeM w)
  | 10 => .cmpst (decodeM w)
  | 11 => .expld (decodeM w)
  | 12 => .fifopop (decodeM w)
  | 13 => .fifopush (decodeM w)
  | 14 => .pref (decodeM w)
  | _ => .unassignedOpcodeIssue w

/-- Group 7 of the opcode map (R84). -/
def decodeGroup7 (fn : Nat) (w : IWord) : Instr :=
  match fn with
  | 0 => .atom (decodeC w)
  | 1 => .acas (decodeC w)
  | 2 => .red (decodeC w)
  | 3 => .redd (decodeC w)
  | 4 => .rflush (decodeJ w)
  | 5 => .fence (decodeJ w)
  | 6 => .fencex (decodeJ w)
  | 7 => .waitc (decodeR w)
  | 8 => .rdcnt (decodeR w)
  | _ => .unassignedOpcodeIssue w

/-- Group 8 of the opcode map (R84). -/
def decodeGroup8 (fn : Nat) (w : IWord) : Instr :=
  match fn with
  | 0 => .cpyk (decodeR w)
  | 1 => .gsk (decodeR w)
  | 2 => .colk (decodeR w)
  | 3 => .rkput (decodeR w)
  | 4 => .rkget (decodeR w)
  | 5 => .migh (decodeR w)
  | 6 => .launch (decodeR w)
  | _ => .unassignedOpcodeIssue w

/-- Group 9 of the opcode map (R84). -/
def decodeGroup9 (fn : Nat) (w : IWord) : Instr :=
  match fn with
  | 0 => .bar (decodeR w)
  | 1 => .bara (decodeR w)
  | 2 => .barw (decodeR w)
  | 3 => .cbara (decodeR w)
  | 4 => .cbarw (decodeR w)
  | 5 => .dbara (decodeR w)
  | 6 => .dbarw (decodeR w)
  | 7 => .boinit (decodeR w)
  | 8 => .boarv (decodeR w)
  | 9 => .boexp (decodeR w)
  | 10 => .bowait (decodeR w)
  | _ => .unassignedOpcodeIssue w

/-- Group A of the opcode map (R84). -/
def decodeGroupA (fn : Nat) (w : IWord) : Instr :=
  match fn with
  | 0 => .mma (decodeR w)
  | 1 => .mmag (decodeR w)
  | 2 => .azero (decodeR w)
  | 3 => .alds (decodeC w)
  | 4 => .asts (decodeC w)
  | 5 => .astq (decodeC w)
  | 6 => .mbara (decodeR w)
  | 7 => .mbarw (decodeR w)
  | 8 => .mloop (decodeJ w)
  | 9 => .mnext (decodeJ w)
  | 10 => .mbra (decodeJ w)
  | 11 => .mend (decodeJ w)
  | 12 => .mmov (decodeR w)
  | 13 => .madd (decodeR w)
  | 14 => .mlds (decodeC w)
  | 15 => .mcpyk (decodeR w)
  | 16 => .mwaitc (decodeR w)
  | 17 => .mfencex (decodeJ w)
  | _ => .unassignedOpcodeIssue w

/-- Group B of the opcode map (R84). -/
def decodeGroupB (fn : Nat) (w : IWord) : Instr :=
  match fn with
  | 0 => .sread (decodeR w)
  | 1 => .swrite (decodeR w)
  | 2 => .trap (decodeI w)
  | 3 => .brk (decodeI w)
  | 4 => .rte (decodeJ w)
  | 5 => .ctrget (decodeR w)
  | 6 => .ctrset (decodeR w)
  | 7 => .rng (decodeR w)
  | 8 => .clock (decodeR w)
  | 9 => .gtime (decodeR w)
  | 10 => .pmrd (decodeR w)
  | _ => .unassignedOpcodeIssue w

/-- The instruction of a word (R66, R84, R85). -/
def decodeWord (w : IWord) : Instr :=
  let fn := opOfWord w % 64
  match opOfWord w / 64 with
  | 0 => decodeGroup0 fn w
  | 1 => decodeGroup1 fn w
  | 2 => decodeGroup2 fn w
  | 3 => decodeGroup3 fn w
  | 4 => decodeGroup4 fn w
  | 5 => decodeGroup5 fn w
  | 6 => decodeGroup6 fn w
  | 7 => decodeGroup7 fn w
  | 8 => decodeGroup8 fn w
  | 9 => decodeGroup9 fn w
  | 10 => decodeGroupA fn w
  | 11 => decodeGroupB fn w
  | _ => .unassignedOpcodeIssue w

/-- The word of twelve little-endian bytes, the first at the lowest address (R67). -/
def wordOfBytes (bs : List Byte) : IWord := BitVec.ofNat 96 (natLE (bs.take 12))

/-- Why bytes decode to nothing. -/
inductive DecodeError where
  | tooFewBytes
deriving DecidableEq, Repr

/-- The instruction at the front of a byte list, with the rest of the list (R67). -/
def decode (bs : List Byte) : Except DecodeError (Instr × List Byte) :=
  if 12 ≤ bs.length then .ok (decodeWord (wordOfBytes bs), bs.drop 12) else .error .tooFewBytes

/-! ### Encoding -/

/-- The word of an instruction (R66, R84); a step of another agent has none. -/
def encodeWord : Instr → Option IWord
  | .nop f => some (encodeJ 0x000 f)
  | .bra f => some (encodeJ 0x001 f)
  | .brz f => some (encodeJ 0x002 f)
  | .brnz f => some (encodeJ 0x003 f)
  | .jmpi f => some (encodeR 0x004 f)
  | .call f => some (encodeJ 0x005 f)
  | .calli f => some (encodeR 0x006 f)
  | .ret f => some (encodeJ 0x007 f)
  | .ifc f => some (encodeJ 0x008 f)
  | .elsec f => some (encodeJ 0x009 f)
  | .endif f => some (encodeJ 0x00a f)
  | .loop f => some (encodeJ 0x00b f)
  | .breakc f => some (encodeJ 0x00c f)
  | .endl f => some (encodeJ 0x00d f)
  | .exit f => some (encodeJ 0x00e f)
  | .yield f => some (encodeJ 0x00f f)
  | .sleep f => some (encodeI 0x010 f)
  | .smov f => some (encodeR 0x040 f)
  | .sli f => some (encodeI 0x041 f)
  | .sadd f => some (encodeR 0x042 f)
  | .ssub f => some (encodeR 0x043 f)
  | .smul f => some (encodeR 0x044 f)
  | .smulh f => some (encodeR 0x045 f)
  | .smad f => some (encodeR 0x046 f)
  | .sand f => some (encodeR 0x047 f)
  | .sor f => some (encodeR 0x048 f)
  | .sxor f => some (encodeR 0x049 f)
  | .snot f => some (encodeR 0x04a f)
  | .sshl f => some (encodeR 0x04b f)
  | .sshr f => some (encodeR 0x04c f)
  | .ssar f => some (encodeR 0x04d f)
  | .smin f => some (encodeR 0x04e f)
  | .smax f => some (encodeR 0x04f f)
  | .scmp f => some (encodeR 0x050 f)
  | .ssel f => some (encodeR 0x051 f)
  | .sbfe f => some (encodeR 0x052 f)
  | .sbfi f => some (encodeR 0x053 f)
  | .spopc f => some (encodeR 0x054 f)
  | .sclz f => some (encodeR 0x055 f)
  | .slea f => some (encodeR 0x056 f)
  | .sldk f => some (encodeI 0x057 f)
  | .sfromv f => some (encodeR 0x058 f)
  | .sfromk f => some (encodeR 0x059 f)
  | .kfroms f => some (encodeR 0x05a f)
  | .vmov f => some (encodeR 0x080 f)
  | .vli f => some (encodeI 0x081 f)
  | .vadd f => some (encodeR 0x082 f)
  | .vsub f => some (encodeR 0x083 f)
  | .vmul f => some (encodeR 0x084 f)
  | .vmulh f => some (encodeR 0x085 f)
  | .vmad f => some (encodeR 0x086 f)
  | .vand f => some (encodeR 0x087 f)
  | .vor f => some (encodeR 0x088 f)
  | .vxor f => some (encodeR 0x089 f)
  | .vnot f => some (encodeR 0x08a f)
  | .vshl f => some (encodeR 0x08b f)
  | .vshr f => some (encodeR 0x08c f)
  | .vsar f => some (encodeR 0x08d f)
  | .vmin f => some (encodeR 0x08e f)
  | .vmax f => some (encodeR 0x08f f)
  | .vabs f => some (encodeR 0x090 f)
  | .vcmp f => some (encodeR 0x091 f)
  | .vsel f => some (encodeR 0x092 f)
  | .vbfe f => some (encodeR 0x093 f)
  | .vbfi f => some (encodeR 0x094 f)
  | .vpopc f => some (encodeR 0x095 f)
  | .vclz f => some (encodeR 0x096 f)
  | .vbrev f => some (encodeR 0x097 f)
  | .vlea f => some (encodeR 0x098 f)
  | .vdot4 f => some (encodeR 0x099 f)
  | .vprmb f => some (encodeR 0x09a f)
  | .vfroms f => some (encodeR 0x09b f)
  | .klogic f => some (encodeR 0x09c f)
  | .fadd f => some (encodeR 0x0c0 f)
  | .fsub f => some (encodeR 0x0c1 f)
  | .fmul f => some (encodeR 0x0c2 f)
  | .ffma f => some (encodeR 0x0c3 f)
  | .fmin f => some (encodeR 0x0c4 f)
  | .fmax f => some (encodeR 0x0c5 f)
  | .fcmp f => some (encodeR 0x0c6 f)
  | .frcp f => some (encodeR 0x0c7 f)
  | .frsq f => some (encodeR 0x0c8 f)
  | .fsqrt f => some (encodeR 0x0c9 f)
  | .fexp2 f => some (encodeR 0x0ca f)
  | .flog2 f => some (encodeR 0x0cb f)
  | .fsinp f => some (encodeR 0x0cc f)
  | .fcosp f => some (encodeR 0x0cd f)
  | .ftanh f => some (encodeR 0x0ce f)
  | .fscl f => some (encodeR 0x0cf f)
  | .frnd f => some (encodeR 0x0d0 f)
  | .ffrac f => some (encodeR 0x0d1 f)
  | .fclass f => some (encodeR 0x0d2 f)
  | .fdot2 f => some (encodeR 0x0d3 f)
  | .ferf f => some (encodeR 0x0d4 f)
  | .cvt f => some (encodeR 0x100 f)
  | .cvtp f => some (encodeR 0x101 f)
  | .mxpk f => some (encodeR 0x102 f)
  | .mxup f => some (encodeR 0x103 f)
  | .qnt f => some (encodeR 0x104 f)
  | .qnta f => some (encodeR 0x105 f)
  | .accrd f => some (encodeR 0x106 f)
  | .accwr f => some (encodeR 0x107 f)
  | .emov f => some (encodeR 0x108 f)
  | .eset f => some (encodeR 0x109 f)
  | .eget f => some (encodeR 0x10a f)
  | .eadd f => some (encodeR 0x10b f)
  | .eamax f => some (encodeR 0x10c f)
  | .mxcvt f => some (encodeR 0x10d f)
  | .echk f => some (encodeR 0x10e f)
  | .qswz f => some (encodeR 0x140 f)
  | .qbcst f => some (encodeR 0x141 f)
  | .shfl f => some (encodeR 0x142 f)
  | .shflx f => some (encodeR 0x143 f)
  | .shfld f => some (encodeR 0x144 f)
  | .ballot f => some (encodeR 0x145 f)
  | .vote f => some (encodeR 0x146 f)
  | .mbcnt f => some (encodeR 0x147 f)
  | .cmprs f => some (encodeR 0x148 f)
  | .wred f => some (encodeR 0x149 f)
  | .wscan f => some (encodeR 0x14a f)
  | .ldg f => some (encodeM 0x180 f)
  | .stg f => some (encodeM 0x181 f)
  | .lds f => some (encodeM 0x182 f)
  | .sts f => some (encodeM 0x183 f)
  | .ldcl f => some (encodeM 0x184 f)
  | .stcl f => some (encodeM 0x185 f)
  | .ldmx f => some (encodeM 0x186 f)
  | .stmx f => some (encodeM 0x187 f)
  | .sldg f => some (encodeM 0x188 f)
  | .sstg f => some (encodeM 0x189 f)
  | .cmpst f => some (encodeM 0x18a f)
  | .expld f => some (encodeM 0x18b f)
  | .fifopop f => some (encodeM 0x18c f)
  | .fifopush f => some (encodeM 0x18d f)
  | .pref f => some (encodeM 0x18e f)
  | .atom f => some (encodeC 0x1c0 f)
  | .acas f => some (encodeC 0x1c1 f)
  | .red f => some (encodeC 0x1c2 f)
  | .redd f => some (encodeC 0x1c3 f)
  | .rflush f => some (encodeJ 0x1c4 f)
  | .fence f => some (encodeJ 0x1c5 f)
  | .fencex f => some (encodeJ 0x1c6 f)
  | .waitc f => some (encodeR 0x1c7 f)
  | .rdcnt f => some (encodeR 0x1c8 f)
  | .cpyk f => some (encodeR 0x200 f)
  | .gsk f => some (encodeR 0x201 f)
  | .colk f => some (encodeR 0x202 f)
  | .rkput f => some (encodeR 0x203 f)
  | .rkget f => some (encodeR 0x204 f)
  | .migh f => some (encodeR 0x205 f)
  | .launch f => some (encodeR 0x206 f)
  | .bar f => some (encodeR 0x240 f)
  | .bara f => some (encodeR 0x241 f)
  | .barw f => some (encodeR 0x242 f)
  | .cbara f => some (encodeR 0x243 f)
  | .cbarw f => some (encodeR 0x244 f)
  | .dbara f => some (encodeR 0x245 f)
  | .dbarw f => some (encodeR 0x246 f)
  | .boinit f => some (encodeR 0x247 f)
  | .boarv f => some (encodeR 0x248 f)
  | .boexp f => some (encodeR 0x249 f)
  | .bowait f => some (encodeR 0x24a f)
  | .mma f => some (encodeR 0x280 f)
  | .mmag f => some (encodeR 0x281 f)
  | .azero f => some (encodeR 0x282 f)
  | .alds f => some (encodeC 0x283 f)
  | .asts f => some (encodeC 0x284 f)
  | .astq f => some (encodeC 0x285 f)
  | .mbara f => some (encodeR 0x286 f)
  | .mbarw f => some (encodeR 0x287 f)
  | .mloop f => some (encodeJ 0x288 f)
  | .mnext f => some (encodeJ 0x289 f)
  | .mbra f => some (encodeJ 0x28a f)
  | .mend f => some (encodeJ 0x28b f)
  | .mmov f => some (encodeR 0x28c f)
  | .madd f => some (encodeR 0x28d f)
  | .mlds f => some (encodeC 0x28e f)
  | .mcpyk f => some (encodeR 0x28f f)
  | .mwaitc f => some (encodeR 0x290 f)
  | .mfencex f => some (encodeJ 0x291 f)
  | .sread f => some (encodeR 0x2c0 f)
  | .swrite f => some (encodeR 0x2c1 f)
  | .trap f => some (encodeI 0x2c2 f)
  | .brk f => some (encodeI 0x2c3 f)
  | .rte f => some (encodeJ 0x2c4 f)
  | .ctrget f => some (encodeR 0x2c5 f)
  | .ctrset f => some (encodeR 0x2c6 f)
  | .rng f => some (encodeR 0x2c7 f)
  | .clock f => some (encodeR 0x2c8 f)
  | .gtime f => some (encodeR 0x2c9 f)
  | .pmrd f => some (encodeR 0x2ca f)
  | .loadDataReturn _ _ => none
  | .storePerformed _ _ => none
  | .scratchOpComplete _ _ => none
  | .atomicComplete _ _ => none
  | .engineRequestRead _ => none
  | .fabricAnswer _ _ => none
  | .instructionFetchReturn _ => none
  | .barrierTimeout _ => none
  | .fifoWaitTimeout _ _ => none
  | .tileWriteComplete _ _ => none
  | .reddMerge _ _ => none
  | .l2FillLand _ _ => none
  | .hostCxlWrite _ _ _ => none
  | .contextDescWrite _ _ _ _ => none
  | .castleAbort _ _ _ => none
  | .peerRequestReceive _ => none
  | .peerResponseReceive _ _ _ _ => none
  | .peerRequestTimeout _ => none
  | .bulkReservationRequest _ _ _ => none
  | .incarnationAnnounce _ _ _ => none
  | .quiesceNotice _ _ => none
  | .waiporSegmentSend _ _ => none
  | .waiporSegmentReceive _ _ => none
  | .waiporRtoExpire _ _ => none
  | .keyInstallTimeout _ => none
  | .collectiveComplete _ _ => none
  | .rookPutArrive _ _ => none
  | .rookStagingDone _ _ _ _ => none
  | .rookGetArrive _ => none
  | .rookGetTimeout _ _ => none
  | .rookRegionWrite _ _ _ _ => none
  | .powerStateCmd _ _ => none
  | .thermalHalt _ _ => none
  | .correctedError _ => none
  | .uncorrectableError _ => none
  | .boot _ _ _ => none
  | .getCertificate _ => none
  | .challenge _ => none
  | .getMeasurements _ _ => none
  | .registerWrite _ _ _ => none
  | .unassignedOpcodeIssue raw => some raw
  | .memoryRefresh _ => none
  | .hostCxlRead _ => none
  | .stationLinkChange _ _ => none
  | .quiesceAcknowledge _ => none
  | .pathMComplete => none
  | .warpSlotFree => none
  | .blockEnd => none
  | .sleepExpire => none
  | .bowaitTimeout => none
  | .pendingTrapTaken => none
  | .warpReissue => none
  | .faultRecordWrite => none
  | .faultAnswerService => none
  | .faultAnswerReject => none
  | .matrixTurn => none
  | .gridComplete => none
  | .queueEnable => none
  | .queueDisable => none
  | .launchSlotSnoop => none
  | .gridLaunch => none
  | .blockPlace => none
  | .gridPreempt => none
  | .warpQuietStop => none
  | .warpForcedStop => none
  | .sequencerStop => none
  | .blockSave => none
  | .saveComplete => none
  | .gridRestore => none
  | .gridEnd => none
  | .retrainRequest => none
  | .retrainCancel => none
  | .retrainActivate => none
  | .retrainDone => none
  | .bankToOff => none
  | .bankToCache => none
  | .bankToFifo => none
  | .bankModeChange => none
  | .crossDieWriteApply => none
  | .remoteLineFetch => none
  | .tlbFlushContext => none
  | .tlbFlushPage => none
  | .tlbFlushDone => none
  | .castleMove => none
  | .castleAbortCmd => none
  | .checkpoint => none
  | .hotnessSync => none
  | .hotnessDecay => none
  | .castleLineCopy => none
  | .lineLockTimeout => none
  | .castleMoveComplete => none
  | .completionLockTimeout => none
  | .castleEventWrite => none
  | .checkpointDone => none
  | .rollbackRecovery => none
  | .gridRelaunch => none
  | .reservationWindowExpire => none
  | .dieReset => none
  | .keyInstall => none
  | .copyLineWritten => none
  | .gatherRowDone => none
  | .rookDeadline => none
  | .rookUpdateDone => none
  | .rookMirrorDone => none
  | .rookMirrorRetry => none
  | .rookPublishDone => none
  | .rookActivateMirror => none
  | .rookForcePartial => none
  | .rookForceSkip => none
  | .rookReset => none
  | .powerTransitionDone => none
  | .softFuse => none
  | .devtimeSet => none
  | .dieFault => none
  | .getVersion => none
  | .getCapabilities => none
  | .negotiateAlgorithms => none
  | .getDigests => none
  | .reservationWindowStart => none

/-- The bytes of an instruction, lowest address first (R67). -/
def encode (i : Instr) : List Byte :=
  match encodeWord i with
  | some w => bytesLE 12 w.toNat
  | none => []

/-- The instruction the decoder reads from the bits of a word (every bit above `nbits` is 0). -/
def decodeTableWord (nbits w : Nat) : Option Instr :=
  match decode (bytesLE 12 (w % 2 ^ nbits)) with
  | .ok r => some r.1
  | .error _ => none

end Sys2Proof
end

