-- ==== Sys2Proof/Config.lean ====
section
/-! DEFINITION. What an implementation fixes and the spec leaves open: opaque constants that no proof can see into.
Each is named in the assumption log. `c` is the state's counter of free values, `k` numbers the values drawn at one
step. -/

namespace Sys2Proof.Config

/-- A free 32-bit value. -/
opaque freeWord : Nat → Nat → Word
/-- A free choice between two allowed outcomes. -/
opaque freeBool : Nat → Nat → Bool
/-- The value an approximated function delivers, a fixed function of function, type and input bits (R156). -/
opaque approx : Nat → Nat → Nat → Nat
/-- Which neighbour a faithfully rounded result of a half type takes (R156). -/
opaque approxUp : Nat → Nat → Nat → Bool

/-- Where a line of HBM4E lies among the 160 pseudo-channels of its home die (R436). -/
opaque hbmPlace : Nat → Nat
/-- The LPDDR6 channel of a line. -/
opaque lpddrPlace : Nat → BitVec 8

/-- The set of an L2 slice that a line falls in (R334). -/
opaque l2Set : Nat → Nat

/-- A device is joined to the fabric. -/
opaque joined : Nat → Bool
/-- The AES-256-GCM tag of a segment under a key: salt, key, counter, and the segment's authenticated bytes. -/
opaque gcmTag : DWord → BitVec 256 → Word → List Byte → BitVec 128
/-- AES-256-GCM encryption of a segment's payload under a key: salt, key, counter, and the bytes. -/
opaque gcmBody : DWord → BitVec 256 → Word → List Byte → List Byte

/-- A physical core of the die at a position, of those that no logical core is bound to at first, is good: no fuse hides
it. -/
opaque spareGood : Nat → Nat → Bool
/-- SHA3-512 of what a measurement or certificate covers: its kind and its content. -/
opaque digest : Nat → List Nat → BitVec 512
/-- The hub's certificate chain, and its ML-DSA-87 signature over a message. -/
opaque certificate : Nat → Nat
opaque signature : List Nat → Nat

end Sys2Proof.Config
end

