-- ==== Sys2Proof/Machine/State.lean ====
section
/-! DEFINITION. The state of the machine as plain data: everything the spec gives warps, blocks, grids, cores, dies,
memory and the device pages, and what an implied transfer in progress holds. -/

namespace Sys2Proof.Machine

/-! ### Warps (R9, R14, R18, R24-R35, R39) -/

/-- The special registers and generator words that `SWRITE` and `CTRSET` write (R262, R268). -/
inductive SpecId where
  | fpst | mode | trapcause | trapaddr | trappc | key | ctr
deriving DecidableEq, Repr

/-- A fixed-latency result not yet in the register file (R28-R31): the register, the bits it writes and their
values, the nominal time of its producer, its latency, the WO mark, and the producer's number in issue order. -/
structure Fly where
  reg : RegId
  mask : BitVec 1024
  val : BitVec 1024
  born : Nat
  lat : Nat
  wo : Bool
  num : Nat
deriving DecidableEq, Repr

/-- The value a special register held before a write that a reader may still see (R262, R268). -/
structure SpecWrite where
  spec : SpecId
  old : BitVec 128
  born : Nat
  num : Nat
  wo : Bool
deriving DecidableEq, Repr

/-- Where a byte lies: a physical address, a block's scratchpad, or a peer device. -/
inductive Loc where
  | mem (pa : Nat)
  | scratch (b : BlockId) (off : Nat)
  | peer (dev : Nat) (pa : Nat)
deriving DecidableEq, Repr

/-- One lane's access: lane, generic address (or scratchpad address) and place. -/
structure Piece where
  lane : Nat
  va : DWord
  loc : Loc
deriving DecidableEq, Repr

/-- Bytes for one 128-byte line, with the sidecar slots they carry. -/
structure LinePut where
  va : DWord
  loc : Loc
  data : VReg
  mask : BitVec 128
  side : EReg
  sideMask : BitVec 8
deriving DecidableEq, Repr

/-- One lane's atomic operation: the operand, and the compare value of `ACAS`. -/
structure AtomPiece where
  piece : Piece
  val : DWord
  cmp : DWord
deriving DecidableEq, Repr

/-- What an engine kick names (R214), or the status that its own checks give it. A put and a get name the lines of A
as they were translated at issue (R431). -/
inductive Kick where
  | copy (off : Nat)
  | gather (off : Nat)
  | launch (va : DWord) (q : BitVec 6)
  | coll (va : DWord)
  | rkput (va : DWord) (lines : List Nat) (tag : Nat)
  | rkget (va : DWord) (lines : List Nat) (tag : Nat)
  | refused (status : Byte)
deriving DecidableEq, Repr

/-- What a variable-latency operation does when it is performed. -/
inductive OpKind where
  | load (ps : List Piece) (width dst : Nat)
  | loadS (p : Piece) (width dst : Nat)
  | loadMx (lines : List Piece) (layout dst : Nat) (lanes : Mask)
  | store (ls : List LinePut)
  | storeCnt (ls : List LinePut) (dst n : Nat)
  | fifoPop (f dst : Nat) (lanes : Mask)
  | fifoPush (f : Nat) (entry : VReg)
  | boinit (o c : Nat)
  | boarv (o b : Nat)
  | boexp (o b : Nat)
  | atom (ps : List AtomPiece) (sub : Nat) (ty : Ty) (cas : Bool) (dst : Option Nat)
  | redd (ps : List AtomPiece) (sub : Nat) (ty : Ty)
  | rflush
  | kick (k : Kick) (dst : Option RegId)
  | accrd (tile row dst : Nat) (lanes : Mask)
  | accwr (tile row : Nat) (add : Bool) (val : VReg) (lanes : Mask)
  | qnta (fmt : Elem) (sat : Bool) (tile row dst : Nat) (lanes : Mask)
  | alds (tile off : Nat) (ty : Nat) (add : Bool)
  | asts (tile off : Nat) (ty : Nat) (rows : List VReg)
  | mlds (off dst : Nat)
  | astq (lines : List LinePut) (bytes : Nat)
deriving DecidableEq, Repr

/-- An outstanding variable-latency operation (R32, R33): its number in issue order, path and PC; order, scope and
cache policy; whether it went through the generic space (R290); the register bits it has
pending, those a later instruction has written meanwhile, and the values its landing replaced, with the earlier results
that were in flight then; whether it has been performed; the core clk of its issue; whether a handler issued it; whether
its data came back before its counter falls (R33). -/
structure Op where
  num : Nat
  path : Path
  pc : DWord
  kind : OpKind
  ord : BitVec 2 := 0
  scp : BitVec 3 := 0
  cp : BitVec 2 := 0
  generic : Bool := false
  dst : List (RegId × BitVec 1024) := []
  clob : List (RegId × BitVec 1024) := []
  old : List (RegId × BitVec 1024) := []
  oldFly : List Fly := []
  done : Bool := false
  clk : Nat := 0
  inTrap : Bool := false
  early : Bool := false
deriving DecidableEq, Repr

/-- The results in flight of a warp or a matrix stream (R27-R33): fixed-latency results, oldest first; operations still
counted, in issue order; the nominal time (R28) and the number (R31) of the next instruction; and the earliest clk at
which it issues (R27). -/
structure Win where
  fly : List Fly := []
  ops : List Op := []
  nominal : Nat := 0
  num : Nat := 0
  notBefore : Nat := 0
deriving DecidableEq, Repr

/-- What a warp or a sequencer waits for before its next issue (R212, R223-R229, R248, R254). -/
inductive Wait where
  | path (p : Path) (n : Nat)
  | numbered (n : Nat) (parity : Bool)
  | cluster (parity : Bool)
  | die (parity : Bool)
  | object (o : Nat) (parity : Bool) (left : Nat)
deriving DecidableEq, Repr

/-- A trap raised by a completion (R274): row 1 is the serialised instruction's own, row 2 asynchronous. `tpc` is
the instruction for row 1; row 2 takes the next instruction. -/
structure PendTrap where
  row1 : Bool
  info : TrapInfo
  tpc : DWord
  fpc : DWord
  fromTrap : Bool := false
deriving DecidableEq, Repr

/-- A warp's suspension (R276, R316): the record's fields, and the host's answer. `release`: the dirty L1 sector
whose write-back faulted, as core, line and sector. `at_`: the releasing instruction, by number and PC, where later
ones have issued already (R470). -/
structure Susp where
  cause : Cause
  detail : Byte
  addr : DWord
  acc : Nat
  recPc : DWord
  release : Option (Nat × Nat × Nat) := none
  at_ : Option (Nat × DWord) := none
  serviced : Bool := false
deriving DecidableEq, Repr

/-- A REDD buffer entry (R208). -/
structure ReddEntry where
  pa : Nat
  ty : Ty
  op : Nat
  val : DWord
deriving DecidableEq, Repr

/-- A warp. -/
structure Warp where
  pc : DWord
  v : List (Nat × VReg) := []
  e : List (Nat × EReg) := []
  s : List (Nat × Word) := []
  k : List (Nat × Mask) := []
  nest : BitVec 128 := 0
  retired : Mask
  helper : Mask
  /-- Return stack, entry 0 pushed first (R35). -/
  stack : List DWord := []
  fpst : Word := 0
  mode : Word := 0
  trapcause : Word := 0
  trapaddr : DWord := 0
  trappc : DWord := 0
  key : BitVec 128 := 0
  ctr : BitVec 128 := 0
  inTrap : Bool := false
  forced : Bool := false
  susp : Option Susp := none
  win : Win := {}
  specs : List SpecWrite := []
  /-- The clk by which every flag of earlier instructions has reached `%fpst` (R145). -/
  fpClk : Nat := 0
  /-- One more than the clk that a sleeping warp still issues nothing in (R112); 0 while the warp does not sleep. -/
  sleep : Nat := 0
  wait : Option Wait := none
  /-- YLD: the clk in which the warp gives way (R80). -/
  yieldClk : Option Nat := none
  /-- YIELD: warps of the quadrant that issue first (R111). -/
  yieldTo : List WarpId := []
  /-- Slot number in its quadrant, and the clk for which it has been ready without issuing (R360). -/
  slot : Nat := 0
  readyFor : Nat := 0
  pend : List PendTrap := []
  redd : List ReddEntry := []
  /-- Drained contributions that spilled, on their way to their homes as `RED` operations (R208, R313). -/
  spills : List ReddEntry := []
  /-- The fetched code block: its number (address / 128) and its 128 bytes (R81). -/
  ibuf : Option (Nat × VReg) := none
  /-- Lines of a trap frame still to be written, with their generic addresses, places (`none` while a walk waits) and bytes
  (R269, R385, R402, R442). -/
  frame : List (DWord × Option Loc × VReg) := []
  /-- Scratchpad accesses of other warps that come before this warp's accesses from a number on: the warp, its accesses
  below a number, and the number of the first access held (R295). -/
  sync : List (WarpId × Nat × Nat) := []
  /-- Arrived in the current phase of the cluster and die barrier (R225). -/
  cArr : Bool := false
  dArr : Bool := false
  /-- Stopped without entering a handler (R275). -/
  stopped : Bool := false
  terminated : Bool := false
  freed : Bool := false
  /-- Stopped for pre-emption, and the instructions issued since the command (R43, R278). -/
  held : Bool := false
  sinceCmd : Nat := 0
deriving DecidableEq, Repr

/-! ### Blocks (R9-R12, R42, R202, R228-R236, R325) -/

/-- A numbered barrier state (R42). -/
structure NBar where
  exp : Nat := 0
  arr : Nat := 0
  phase : Bool := false
  fallen : Bool := false
  seqp : Bool := false
  seqa : Bool := false
  amask : Mask := 0
  torem : Nat := 0
  /-- The phase has had its first arrival (R227). -/
  begun : Bool := false
  /-- Warps that arrived in this phase, each with its place in issue order: their earlier scratchpad accesses come before
  what a wait for the phase orders (R295); and those of the phases that have completed. -/
  after : List (WarpId × Nat) := []
  past : List (WarpId × Nat) := []
deriving DecidableEq, Repr

/-- A cluster or die barrier state (R281), with the same two fields as a numbered one. -/
structure CBar where
  exp : Nat := 0
  arr : Nat := 0
  phase : Bool := false
  fallen : Bool := false
  torem : Nat := 0
  begun : Bool := false
  after : List (WarpId × Nat) := []
  past : List (WarpId × Nat) := []
deriving DecidableEq, Repr

/-- One `MMA` or `MMAG` in progress (R234-R242): its tiles with the turns each still needs, and its operands. -/
structure MmaRun where
  gather : Bool
  fa : Nat
  fb : Nat
  dA : DWord
  dB : DWord
  kb : Nat
  /-- Index record of `MMAG`: source row, destination row and drop mark per product row. -/
  rows : List (Nat × Nat × Bool)
  dst : Nat
  tm : Nat
  tn : Nat
  /-- Tile in progress (ti·TN + tj) and turns already issued on it. -/
  tile : Nat
  turn : Nat
  /-- ST of the instruction, its number, and the earliest clk of its next turn. -/
  st : Nat
  num : Nat
  ready : Nat
deriving DecidableEq, Repr

/-- A tile write on its way to completion (R236): the tile, and whether an MMA made it. -/
structure TileBusy where
  tile : Nat
  byMma : Bool
  /-- Core clk of completion; `none` while its turns or its S counter run. -/
  doneAt : Option Nat
  op : Nat
deriving DecidableEq, Repr

/-- A block's matrix sequencer (R230-R236). -/
structure Seq where
  pc : DWord
  win : Win := {}
  wait : Option Wait := none
  run : Option MmaRun := none
  busy : List TileBusy := []
  ibuf : Option (Nat × VReg) := none
  chk : Bool := false
  stopped : Bool := false
  /-- `MEND` has issued, and has completed (R250). -/
  ending : Bool := false
  ended : Bool := false
  /-- Stopped for pre-emption (R259). -/
  held : Bool := false
deriving DecidableEq, Repr

/-- A scratchpad line that an engine operation has written, as it was before, the bytes that were written, the object that
counts them, and the warps that have waited for a phase of it (R257). -/
structure Unseen where
  line : Nat
  data : VReg
  side : EReg
  mask : BitVec 128
  sideMask : BitVec 8
  obj : Nat
  seen : List Nat := []
deriving DecidableEq, Repr

/-- A resident block. -/
structure Block where
  id : BlockId
  core : Nat
  q0 : Nat
  /-- Die portion (R12). -/
  portion : Nat
  warps : List Warp
  /-- A registers: row `i` of tile `t` at key 32t + i, column `j` in lane `j` (R23). -/
  acc : List (Nat × VReg) := []
  m : List (Nat × DWord) := []
  bars : List NBar := []
  scratch : List Host.Cell := []
  scratchSide : List (Nat × Byte) := []
  /-- Scratchpad banks in grant order, FIFO banks by index, and their entries, oldest first (R202, R320, R325). -/
  banks : List Nat := []
  fifoBanks : List Nat := []
  fifos : List (List VReg) := []
  /-- Scratchpad lines written by an engine that the stream may still read as they were (R257). -/
  unseen : List Unseen := []
  seq : Option Seq := none
  /-- Stream slot (R234). -/
  slot : Nat := 0
  ended : Bool := false
  /-- Reservations that a restore holds for the block, which it has not placed yet (R283, R363). -/
  frozen : Bool := false
deriving DecidableEq, Repr

/-! ### Cores and dies (R263, R264, R298, R319-R334) -/

/-- What a dirty L1 sector records (R315): the last store's PC and warp, and its generic address. `readers` are the other
warps whose releases order it: earlier writers, warps that have read it, and warps that received it through a
synchronisation (R292). `passed` are the blocks in which a release at `.blk` has ordered it. -/
structure SectInfo where
  pc : DWord
  warp : WarpId
  va : DWord
  readers : List WarpId := []
  passed : List BlockId := []
  /-- The sector's eviction write-back faulted and waits for a release or the host (R317). -/
  pinned : Bool := false
deriving DecidableEq, Repr

/-- An L1 line (R330), in a bank (way); line = PA / 128. -/
structure L1Line where
  line : Nat
  bank : Nat
  data : VReg
  valid : BitVec 4
  dirty : BitVec 128
  side : EReg
  sideValid : Bool
  sideDirty : BitVec 8
  keep : Bool
  info : List (Nat × SectInfo)
deriving DecidableEq, Repr

/-- A miss entry of the coalescer (R333): line, core clk it was opened, and the load operations that it serves. Once its
fill has landed, the entry is closed and `fill` holds the line, its sidecar and whether it was poisoned, for those it
still has to serve. -/
structure MissEntry where
  line : Nat
  clk : Nat
  serves : List (WarpId × Nat)
  fill : Option (VReg × EReg × Bool) := none
deriving DecidableEq, Repr

/-- A first-level TLB entry (R372). -/
structure TlbEntry where
  ctx : Nat
  /-- First generic address of the page, and its size. -/
  page : Nat
  size : Nat
  pte : DWord
  /-- The place of the page: the key address of a page in motion (R383). -/
  at_ : Loc
  /-- LA: the line that holds the leaf entry. -/
  la : Nat
deriving DecidableEq, Repr

/-- The mode of a bank (R319). -/
inductive BankMode where
  | off | cache | scratch | fifo
deriving DecidableEq, Repr

/-- A bank whose mode changes under a command, the mode it goes to, and the clk of the command (R322-R324). -/
structure Leaving where
  bank : Nat
  goal : BankMode
  since : Nat := 0
deriving DecidableEq, Repr

structure Core where
  /-- Modes of the 16 banks (BANKMODE, R321). -/
  modes : List BankMode
  owned : BitVec 16 := 0
  bank : BitVec 4 := 0
  tmode : BitVec 2 := 0
  busy : Bool := false
  res : BitVec 3 := 0
  lbank : BitVec 4 := 0
  locx : BitVec 4 := 0
  locy : BitVec 3 := 0
  leaving : Option Leaving := none
  /-- L1 lines, most recently used first (R330). -/
  l1 : List L1Line := []
  miss : List MissEntry := []
  tlb : List TlbEntry := []
  /-- PMRD counters by index (R264). -/
  pm : List (Nat × DWord) := []
  /-- Park-buffer bytes reserved (R246). -/
  park : Nat := 0
  fused : Bool := false
  /-- Slot number that issued last, per quadrant, and one more than the clk in which it did (R360). -/
  lastSlot : List Nat := [63, 63, 63, 63]
  lastClk : List Nat := [0, 0, 0, 0]
  /-- Prefetches whose line is on its way, by line and cache policy (R196). -/
  prefs : List (Nat × Nat) := []
deriving DecidableEq, Repr

/-- A die's copy of a line homed elsewhere (R296): which bytes it holds, and which of them its own unsent or
unapplied writes cover. -/
structure DieCopy where
  line : Nat
  data : VReg
  have_ : BitVec 128
  side : EReg
  sideHave : BitVec 8
deriving DecidableEq, Repr

/-- A stamped write on its way from die `src` to die `dst` (R298, R299); `put = none` is a stamp notice. -/
structure Msg where
  src : Nat
  dst : Nat
  stamp : List (BitVec 48)
  line : Nat
  /-- The grid whose access made the write (R394). -/
  grid : Option (BitVec 32)
  put : Option (VReg × BitVec 128 × EReg × BitVec 8)
  /-- Cache policy of the write (R334). -/
  cp : Nat := 0
  /-- The write was made at the home for an agent of the die it goes to (R312). -/
  own : Bool := false
deriving DecidableEq, Repr

/-- A line that an L2 holds (R334): the bytes and sidecar slots it holds, and the keep mark. A line that the die is home
to has its content in the memory tables, any other in the die's copies. -/
structure L2Line where
  line : Nat
  held : BitVec 128
  side : BitVec 8
  keep : Bool := false
  /-- A line of the die's own, written since the slice took it and not written back (R448). -/
  dirty : Bool := false
deriving DecidableEq, Repr

/-- A line fetch between dies (R300): the writes that the home must have applied before the line is read there (R302,
log 77), and, once it is read, the line and the home's clock. -/
structure Fetch where
  die : Nat
  line : Nat
  /-- Cache policy of the request (R330). -/
  cp : Nat := 0
  want : List (BitVec 48) := [0, 0, 0, 0]
  got : Option (VReg × EReg × List (BitVec 48)) := none
deriving DecidableEq, Repr

/-! ### Grids and the front end (R343-R364) -/

/-- How a launched grid stands: running, saved (R363), or completing. -/
inductive GridState where
  | running | saved
deriving DecidableEq, Repr

/-- A launched grid that has not completed. `record` is the 128-byte launch record (R343). -/
structure Grid where
  id : BitVec 32
  record : VReg
  /-- The constant set: word `n` at key `n` (R72, R344). -/
  konst : List (Nat × Word) := []
  gx : Nat
  variant : Nat := 0
  sizev : Word := 0
  /-- `%rook` (R428). -/
  rook : Word := 0xFFFFFFFF
  /-- Translation context of the launch queue (R367). -/
  ctx : Nat := 0
  state : GridState := .running
  /-- Linear index of the next block to place (R357). -/
  nextBlock : Nat := 0
  /-- The status the grid ends with once it has ended (R355); 0 while none applies. -/
  status : Byte := 0
  /-- The host's end command has stopped the grid (R363). -/
  ending : Bool := false
  spill : Bool := false
  nspill : Nat := 0
  pois : Bool := false
  tstart : Option DWord := none
  /-- Cluster barriers by cluster index and die barriers by portion (R225). -/
  cbars : List (Nat × CBar) := []
  dbars : List CBar := []
  /-- Blocks that have ended (R356), and blocks saved and not yet placed again, each with its die portion. -/
  endedBlocks : List Nat := []
  savedBlocks : List (Nat × Nat) := []
  /-- A read of a poisoned line has started recovery (R396). -/
  recover : Bool := false
  /-- The grid was launched by the Rook service: region and block (R428). -/
  rookRegion : Option (Nat × Word) := none
deriving DecidableEq, Repr

/-- A launch queue (R345). -/
structure Queue where
  qbase : DWord := 0
  cbase : DWord := 0
  qlog : BitVec 5 := 0
  devq : Bool := false
  irq : Bool := false
  head : BitVec 26 := 0
  done : BitVec 26 := 0
  tail : BitVec 26 := 0
  qstate : BitVec 3 := 0
  efail : Bool := false
  /-- A disable command waits for the running grid (R346). -/
  disabling : Bool := false
  /-- The coherent copy of the head slot's line (R348). -/
  snoop : VReg := 0
  /-- Records the Rook service wrote (R428): sequence number, region and parameter block. -/
  rook : List (BitVec 26 × Nat × Word) := []
deriving DecidableEq, Repr

/-- A staged reduction partial at a home slice (R208). -/
structure Staged where
  grid : BitVec 32
  pa : Nat
  ty : Ty
  op : Nat
  die : Nat
  core : Nat
  quadrant : Nat
  block : Nat
  warp : Nat
  val : DWord
deriving DecidableEq, Repr

/-- The pre-emption in progress (R278): its grid, area and deadline, the ns it started at, the blocks whose records it
writes, ascending, once every block has stopped, and whether a record write has met a fault. -/
structure SaveJob where
  grid : BitVec 32
  csa : DWord
  startNs : Nat
  deadline : Nat
  blocks : Option (List Nat) := none
  failed : Bool := false
deriving DecidableEq, Repr

/-- The restore in progress (R283, R363): its grid and area, and whether the area has passed its checks and every
reservation is granted. -/
structure RestoreJob where
  grid : BitVec 32
  csa : DWord
  granted : Bool := false
deriving DecidableEq, Repr

/-- The front-end control page (R345, R362). -/
structure FrontEnd where
  cmdcsa : DWord := 0
  cmdgrid : Word := 0
  cmddl : Word := 0
  cbusy : Bool := false
  cres : BitVec 3 := 0
  rstack : BitVec 4 := 0
  rrate : BitVec 4 := 0
  rstate : BitVec 2 := 0
  rcan : Bool := false
  rref : Bool := false
  /-- Stack to retrain and its new rate, and, once the request is active, the ns at which the hold began (R364). -/
  rhold : Option (Nat × BitVec 4 × Nat) := none
  job : Option SaveJob := none
  restore : Option RestoreJob := none
  /-- Data-rate code of each HBM4E stack (R437). -/
  rates : List (BitVec 4) := List.replicate 10 0
  /-- The queue that launched last (R354). -/
  lastQueue : Nat := 63
deriving DecidableEq, Repr

/-! ### Translation, faults and the Castle engine (R367-R397) -/

/-- A context descriptor (R367). -/
structure Context where
  cvalid : Bool := false
  cerr : Bool := false
  hrd : Bool := false
  hwr : Bool := false
  hex : Bool := false
  ptroot : DWord := 0
  hbase : DWord := 0
  hlim : DWord := 0
  hofs : DWord := 0
deriving DecidableEq, Repr

/-- The block of launch queue q on the translation page (R367). -/
structure QueueCtx where
  qctx : BitVec 4 := 0
  ulbase : DWord := 0
  ulsize : Word := 0
  ulused : Word := 0
  rbst : BitVec 2 := 0
  reln : Bool := false
  rbcnt : Word := 0
  /-- The model's own: lines that were poisoned before the grid first wrote them (R396). -/
  ulpois : List Nat := []
deriving DecidableEq, Repr

/-- Who waits on a fault record (R277, R377). -/
inductive Waiter where
  | warp (w : WarpId)
  | line (core : Nat) (b : BlockId) (num : Nat) (line : Nat)
  | engine (id : Nat)
  | eviction (core line sector : Nat) (g : BitVec 32)
  | nobody
deriving DecidableEq, Repr

/-- A fault-queue record before it is written (R277). -/
structure FaultRec where
  kind : Byte
  cause : Byte
  detail : Byte
  grid : Word
  block : Nat
  warp : Nat
  core : Nat
  engine : Nat
  pc : DWord
  addr : DWord
  acc : Nat
  bobj : Byte := 0xFF
  waiter : Waiter
deriving DecidableEq, Repr

/-- A TLB flush in progress (R378): its context, the pages of the entries it selected (`none`: every page), and the
outstanding operations that they may have translated, by agent and number, and the number of the first peer request made
after it. -/
structure Flush where
  ctx : Nat
  pages : Option (List (Nat × Nat))
  ops : List (Agent × Nat)
  req : Nat := 0
deriving DecidableEq, Repr

/-- The fault-queue registers (R376), the records not yet written, and the written ones that wait for an answer. -/
structure FaultQ where
  fqbase : DWord := 0
  fqlog : BitVec 5 := 0
  fqtail : Word := 0
  fqhead : Word := 0
  ansseq : Word := 0
  ares : BitVec 2 := 0
  tfctx : BitVec 4 := 0
  tfva : DWord := 0
  poisrd : Word := 0
  pending : List FaultRec := []
  waiting : List (Word × FaultRec) := []
  flush : Option Flush := none
deriving DecidableEq, Repr

/-- How a move stands (R384, R387). -/
inductive MovePhase where
  | copying | aborting (why : Byte)
deriving DecidableEq, Repr

/-- A move in flight (R381-R387). `pages` is the 64-KiB chunk count; `moved` the lines of the page at the
destination; `back` and `poisoned` count an abort's work. -/
structure Move where
  rec_ : Nat
  size : Nat
  ptea : Nat
  oldpte : DWord
  newpte : DWord
  src : Loc
  dst : Loc
  chunk : Nat := 0
  moved : BitVec 512 := 0
  phase : MovePhase := .copying
  /-- Line number within the page under a copy lock, with the clk it was taken. -/
  lock : Option (Nat × Nat) := none
  /-- Completion locks are held since this clk. -/
  allLocked : Option Nat := none
  back : Nat := 0
  poisoned : Nat := 0
  /-- Lines of the page that cannot be read at the destination (R387). -/
  bad : List Nat := []
  /-- Lines of the page whose current location is not the key address, with the bytes and sidecar slots that the motion
  home holds newer (R383, R386). -/
  wb : List (Nat × BitVec 128 × BitVec 8) := []
  /-- Another agent has written the leaf entry (R387, reason 4). -/
  leafHit : Bool := false
deriving DecidableEq, Repr

/-- A Castle event not yet written (R388). -/
structure CastleEvent where
  kind : BitVec 4
  reason : Byte := 0
  tier : BitVec 2 := 0
  addr : DWord := 0
  lback : Nat := 0
  lpois : Nat := 0
  time : DWord := 0
deriving DecidableEq, Repr

/-- The Castle registers (R381) and the engine's work. -/
structure Castle where
  csrec : DWord := 0
  csres : BitVec 4 := 0
  cebase : DWord := 0
  celog : BitVec 5 := 0
  cetail : Word := 0
  cehead : Word := 0
  hotbase : DWord := 0
  hcxl0 : Word := 0
  hcxl1 : Word := 0
  dshift : BitVec 5 := 1
  ckdst0 : DWord := 0
  ckdst1 : DWord := 0
  ckdone : DWord := 0
  ckpois : Word := 0
  ckbusy : Bool := false
  moves : List Move := []
  events : List CastleEvent := []
  /-- Hotness counts not yet in the table: frame index and die to count (R390). -/
  hot : List (Nat × Nat) := []
  /-- The checkpoint's next run of 64 lines (R392). -/
  ckGroup : Nat := 0
  /-- Commands that wait while a full event ring holds the engine, each with its CSREC (R388). -/
  cmds : List (Nat × DWord) := []
deriving DecidableEq, Repr

/-- A copy or gather/scatter operation in an engine (R217-R221), with the bytes it still has to write. -/
structure EngOp where
  id : Nat
  block : BlockId
  core : Nat
  gather : Bool
  conv : Nat
  fmt : Elem
  bobj : Nat
  /-- Units still to do, each from its source to its destination line: number of the next one. -/
  next : Nat := 0
  total : Nat
  src : DWord
  dst : DWord
  scl : DWord
  sshape : List Int
  dshape : List Int
  /-- Gather/scatter: direction, row bytes, pitch, index address. -/
  dir : Nat := 0
  rowb : Nat := 0
  pitch : DWord := 0
  idx : DWord := 0
  /-- A translation fault of the operation waits for the host. -/
  waiting : Bool := false
deriving DecidableEq, Repr

/-! ### The fabric (R398-R420) -/

/-- A key with its salt (R413). -/
structure Key where
  salt : DWord
  key : BitVec 256
deriving DecidableEq, Repr

/-- The keys of a station or flow (R413, R414): the current and the next key, the one the receiver still keeps, the
key selector, the next counter value, and since when the holder is in KEY_EXHAUSTED. -/
structure KeySlot where
  cur : Option Key := none
  next : Option Key := none
  prev : Option Key := none
  sel : Bool := false
  ctr : Nat := 0
  kx : Option Nat := none
  /-- KTO has passed in KEY_EXHAUSTED and the held traffic has completed with error. -/
  lapsed : Bool := false
deriving DecidableEq, Repr

/-- Whose request a peer request is. -/
inductive PeerOwner where
  | op (a : Agent) (num : Nat)
  | engine (id : Nat)
  | castle (move : Nat)
  | mirror (region : Nat) (blk : Nat)
  | publish (region : Nat) (blk : Nat)
  | rookGet (dev : Nat) (id : Nat)
  /-- The reads of the data of a peer's put (R425). -/
  | rookPut (dev : Nat) (id : Nat)
  /-- The reads of an update template's constants (R428). -/
  | template (region : Nat) (blk : Nat)
  | plan (id : Nat)
  /-- The hub's announcements and notices (R407, R409). -/
  | hub
  | reserve (peer station : Nat)
  | front (q : Nat)
  | fill (line : Nat)
deriving DecidableEq, Repr

/-- A request to a peer that has no final answer taken yet (R402-R406): its number, peer, station and issuing die,
its owner and content, the ns it left at, the times it was dropped, and its answer. A request has not left while its
station holds it in KEY_EXHAUSTED (`heldK`, R414), while it waits for a reservation window, or at a Castle lock. -/
structure PeerOut where
  id : Nat
  dev : Nat
  station : Nat
  die : Nat
  owner : PeerOwner
  op : PeerOp
  /-- The line by which the station map places it (R401). -/
  line : Nat := 0
  left : Option Nat := none
  heldK : Bool := false
  drops : Nat := 0
  /-- Waits for a reservation window from this ns (R405). -/
  window : Option Nat := none
  /-- The extension that it carried when it left: the issuing die's INC and number (R407). -/
  ext : BitVec 20 := 0
  answer : Option (PeerStatus × VReg × EReg) := none
deriving DecidableEq, Repr

/-- A reservation that this device granted as a target (R405): the source, the station, the bytes still set aside, and the
grant time TG at which its window begins. -/
structure Reservation where
  src : Nat
  station : Nat
  bytes : Nat
  start : Nat
deriving DecidableEq, Repr

/-- The source of a data segment (R412): memory, read anew at each sending, in the context and from the die of a plan; or
bytes that the collective engine forms (sums, their codes and scales, a plan's parameters), which no memory holds. -/
inductive SegSource where
  | mem (die ctx va n : Nat)
  | bytes (bs : List Byte)
deriving DecidableEq, Repr

/-- A data segment that has still to be sent: the plan that it belongs to, and its source. -/
structure SegData where
  own : Nat
  src : SegSource
deriving DecidableEq, Repr

/-- A data segment that is not yet acknowledged (R412): sequence number, ns of its last sending, times sent, how many
later segments have been acknowledged, and what it carries. -/
structure SentSeg where
  seq : Nat
  at_ : Nat
  sends : Nat
  later : Nat := 0
  data : SegData := ⟨0, .bytes []⟩
deriving DecidableEq, Repr

/-- The two ends of a flow (R411, R412): sending and receiving sequence state, keys, and consecutive RTO expiries. -/
structure Flow where
  keys : KeySlot := {}
  nextSeq : Nat := 0
  sent : List SentSeg := []
  /-- What is to be sent after them, oldest first. -/
  queue : List SegData := []
  /-- Segments that KEY_EXHAUSTED holds (R414). -/
  held : List Nat := []
  rtos : Nat := 0
  /-- Every sequence number below this is received; and those received above it. -/
  ackb : Nat := 0
  got : List Nat := []
  /-- An acknowledgement is due. -/
  ackDue : Bool := false
  /-- The last segment this device put on the port. -/
  wire : Option Segment := none
deriving DecidableEq, Repr

/-- A running collective plan (R415): its number, die, context, and the 128 bytes of it that carry fields. -/
structure Plan where
  id : Nat
  die : Nat
  grid : BitVec 32
  bytes : VReg
  /-- Status that ends it (R419, R420), once its work is done or cut short: the completion word waits for its writes. -/
  status : Option Byte := none
  /-- INL and OUTL as read at the start, when the parameters were sent (R419). -/
  rings : Option (List Nat × List Nat) := none
  /-- The completion word is on its way to a peer. -/
  cwordSent : Bool := false
deriving DecidableEq, Repr

/-- A quiesce notice that the resetting die still waits on (R409). -/
structure Quiesce where
  die : Nat
  acks : List Nat := []
  since : Nat
deriving DecidableEq, Repr

/-! ### The Rook service (R421-R432) -/

/-- The descriptor of a region (R421). -/
structure RookRegion where
  rookid : BitVec 16 := 0
  role : BitVec 2 := 0
  policy : BitVec 2 := 0
  rerr : Bool := false
  cmask : Word := 0
  nblk : Word := 0
  base : DWord := 0
  swbase : DWord := 0
  pubbase : DWord := 0
  urec : DWord := 0
  uq : BitVec 6 := 0
  dlns : Word := 0
  subl : DWord := 0
  nsub : BitVec 6 := 0
  mpeer : BitVec 10 := 0
  men : Bool := false
  rstep : BitVec 48 := 0
  dupcnt : Word := 0
  stalecnt : Word := 0
  farcnt : Word := 0
  latecnt : Word := 0
  dlcnt : Word := 0
  /-- Blocks that are FAILED, or under HOLD past their deadline: STALL is set while there is one. -/
  stalled : List Nat := []
  /-- Blocks whose state word could not be written: they are FAILED (R421). -/
  dead : List Nat := []
  /-- Blocks that RCMD 2 (`true`) or 3 names while puts accepted before their deadline are still staged (R427). -/
  forced : List (Nat × Bool) := []
  rblk : Word := 0
deriving DecidableEq, Repr

/-- A put that is accepted and being staged, or held for the next step (R425). -/
structure RookPut where
  region : Nat
  blk : Nat
  step : Nat
  contrib : Nat
  src : RookSrc
  held : Bool := false
  /-- It has an entry of the hold queue, until it is staged. -/
  queued : Bool := false
  /-- The lines of its data at the peer that it comes from. -/
  lines : List Nat := []
  /-- Accepted before the deadline that has since expired (R427). -/
  before : Bool := false
deriving DecidableEq, Repr

/-- A get that waits for its step (R431). -/
structure RookGet where
  region : Nat
  blk : Nat
  step : Nat
  src : RookSrc
  at_ : Nat
  lines : List Nat := []
deriving DecidableEq, Repr

/-- A mirror write that failed, to be retried from this ns on (R429). -/
structure RookRetry where
  region : Nat
  blk : Nat
  at_ : Nat
deriving DecidableEq, Repr

/-- A put or get of this device that its own region handles, and the region's answer (R420). -/
structure RookAnswer where
  w : WarpId
  num : Nat
  arrived : Bool := false
  status : Option Byte := none
deriving DecidableEq, Repr

/-- An update grid that has ended, or whose record was refused, with its status (R424, R428). -/
structure RookEnd where
  region : Nat
  blk : Nat
  grid : BitVec 32
  status : Byte
deriving DecidableEq, Repr

/-- An answer that this device gives a peer (R402-R405, R420): the request's number, status, the code of a Rook
operation or the grant time of a reservation, the data of a read (`data2` from 128 B on), and the station it leaves
through. -/
structure PeerReply where
  dev : Nat
  id : Nat
  st : PeerStatus
  code : Nat := 0
  data : VReg := 0
  side : EReg := 0
  data2 : VReg := 0
  station : Nat := 0
deriving DecidableEq, Repr

/-- The fabric control page and the units behind it (R400, R410, R413, R421). -/
structure Fabric where
  fabid : BitVec 10 := 0
  fvalid : Bool := false
  stup : BitVec 16 := 0
  nsw : BitVec 5 := 16
  rstpol : Bool := false
  treq : Word := 2000000
  inc : List (BitVec 16) := [0, 0, 0, 0]
  stmap0 : Word := 0x76543210
  stmap1 : Word := 0xFEDCBA98
  kto : Word := 100000000
  dropcnt : Word := 0
  rsvcnt : Word := 0
  incdrop : Word := 0
  tocnt : Word := 0
  kxerr : Word := 0
  ktgt : BitVec 11 := 0
  salt : DWord := 0
  key : BitVec 256 := 0
  kres : BitVec 2 := 0
  flbase : BitVec 47 := 0
  nflow : BitVec 11 := 0
  stations : List KeySlot := List.replicate 16 {}
  flows : List (Nat × Flow) := []
  /-- Incarnation recorded for each (device, die), at key 4·device + die (R407). -/
  peerInc : List (Nat × BitVec 16) := []
  /-- Fenced (device, die) pairs (R409), at 4·device + die, with the ns of the notice. -/
  fences : List (Nat × Nat) := []
  /-- Fences whose notice this device has acknowledged. -/
  fenceAcks : List Nat := []
  out : List PeerOut := []
  nextReq : Nat := 0
  /-- Bytes that may lie in each station's bulk admission buffer (R404). -/
  bulk : List Nat := List.replicate 16 0
  rsv : List Reservation := []
  quiesce : Option Quiesce := none
  plans : List Plan := []
  nextPlan : Nat := 0
  regions : List RookRegion := List.replicate 16 {}
  puts : List RookPut := []
  gets : List RookGet := []
  retries : List RookRetry := []
  rookOwn : List RookAnswer := []
  ends : List RookEnd := []
  /-- Answers put on the stations, oldest first. -/
  replies : List PeerReply := []
  /-- Answers that stations in KEY_EXHAUSTED hold (R414). -/
  heldReplies : List PeerReply := []
deriving DecidableEq, Repr

/-! ### Dies, package and hub (R298, R334, R341, R434-R449) -/

/-- An active die. -/
structure Die where
  /-- Vector clock: sequence number per die of the writes applied here (R298). -/
  vclk : List (BitVec 48) := [0, 0, 0, 0]
  /-- Count of the core clock at which the die last left reset or PARK (R263). -/
  clk0 : Nat := 0
  /-- Copies of lines homed on other dies (R296). -/
  copies : List DieCopy := []
  /-- Lines the L2 slices hold, most recently used first (R334), and fills outstanding,
  each with the die and the cache policy of the request that caused it (R341, R390). -/
  l2 : List L2Line := []
  fills : List (Nat × Nat × Nat) := []
  ptgt : BitVec 3 := 0
  pcur : BitVec 3 := 0
  pbusy : Bool := false
  /-- The ns at which the transition in progress ends. -/
  pends : Nat := 0
  /-- The ns and the clk of its command, and the target before it (R443). -/
  begun : Nat × Nat × BitVec 3 := (0, 0, 0)
  halt : Bool := false
  pres : BitVec 2 := 0
  temp : BitVec 12 := 0
  /-- A thermal halt came during a transition (R443). -/
  haltAfter : Bool := false
  hbmce : Word := 0
  hbmue : Word := 0
  sramce : Word := 0
  sramue : Word := 0
  linkrty : Word := 0
  dieflt : Bool := false
  /-- Corrected errors of the current window, by their ns (R448). -/
  ceTimes : List Nat := []
deriving DecidableEq, Repr

/-- A package report entry (R446). -/
structure ReportEntry where
  pos : Nat
  dstate : Nat
  ldie : Nat
  pfuse : BitVec 52
deriving DecidableEq, Repr

/-- What the hub answers on the mailbox (R447). Digests, certificates and signatures are the hub's own bytes, named by
what they cover. -/
inductive SpdmReply where
  | version
  | capabilities
  | algorithms
  | digests (slot0 : BitVec 512)
  | certificate (slot : Byte) (body : Nat)
  | challengeAuth (nonce : BitVec 256) (sig : Nat)
  | measurements (index : Byte) (digests : List (Nat × BitVec 512)) (sig : Nat)
  | error
deriving DecidableEq, Repr

/-- The management page and the hub (R440-R447). -/
structure Hub where
  bootst : BitVec 3 := 0
  slot : Bool := false
  hidden : BitVec 3 := 4
  spgood : Bool := false
  swapped : Bool := false
  devtime : DWord := 0
  /-- What `GTIME` reads from the next ns on (R440). -/
  tnext : Option DWord := none
  cfcore : Byte := 0
  cfres : BitVec 2 := 0
  absent : List Nat := []
  corefloor : Byte := 184
  errwin : Word := 1000000000
  errthr : Word := 1000
  rqdie : Bool := false
  rqcore : Bool := false
  rqrate : Bool := false
  lpce : Word := 0
  lpue : Word := 0
  report : List ReportEntry := []
  /-- Physical core of each rebound logical core, and the physical cores soft-fused (R439), in flash. -/
  rebound : List (Nat × Nat) := []
  fusedPhys : List (Nat × Nat) := []
  /-- Positions whose die has had a die-level fault, in flash: the next discovery finds them failed (R449). -/
  badPos : List Nat := []
  /-- The last answer on the SPDM mailbox, and the hub's signature over it (R447). -/
  reply : Option SpdmReply := none
  replySig : Nat := 0
  /-- The last register access completed with a CXL.io unsupported-request status (R434). -/
  ur : Bool := false
deriving DecidableEq, Repr

/-! ### The machine -/

/-- The object a step acts on: a warp (its block and grid too), and one or two numbers (a queue, die, core and bank,
region and parameter block, or the place of an operation in its list). -/
structure Obj where
  w : WarpId := ⟨0, 0, 0⟩
  n : Nat := 0
  m : Nat := 0
deriving DecidableEq, Repr

def Obj.block (o : Obj) : BlockId := ⟨o.w.grid, o.w.block⟩

/-- What acts in one step: the front of the agenda. -/
inductive Turn where
  /-- One arbitration of a quadrant (R360). -/
  | quadrant (core q : Nat)
  /-- One issue opportunity of a block's matrix sequencer (R230). -/
  | seq (b : BlockId)
  /-- A step of another agent, and the object it acts on. -/
  | event (i : Instr) (on : Obj)
  /-- One clk of a die's core clock (R6). -/
  | clk (die : Nat)
  /-- `n` ns of device time (R263). -/
  | ns (n : Nat)
  /-- The running checkpoint copies `n` times 64 lines: 16 groups of data and their group of sidecars (R392). -/
  | checkpointGroups (n : Nat)
  /-- The data of the operation at place `i` of an agent come back before its counter falls (R33). -/
  | early (a : Agent) (i : Nat)
  /-- The host's caches give up a line of device memory (R304). -/
  | evictHost (line : Nat)
deriving DecidableEq, Repr

/-- The whole machine. -/
structure State where
  /-- The model's own: turns to come, the agent whose word runs, the object of
  the step that runs, the counter free values are drawn at. -/
  agenda : List Turn := []
  cur : Option Agent := none
  on : Obj := {}
  freeCtr : Nat := 0
  /-- The model's own: the warps that were ready when the quadrant whose turn it is chose (R111, R360). -/
  ready : List WarpId := []
  /-- Elapsed ns, and the device time that `GTIME` reads (R263). -/
  now : Nat := 0
  gtime : DWord := 0
  /-- Core-clock cycles counted by each die (R263). -/
  clks : List Nat := [0, 0, 0, 0]
  /-- Physical memory (R366): bytes that differ from 0x00, sidecar slots (8·line + slot) that differ from 0x7F,
  poisoned lines (R391). -/
  mem : List Host.Cell := []
  side : List (Nat × Byte) := []
  poison : List Nat := []
  blocks : List Block := []
  cores : List Core := []
  dies : List Die := [{}, {}, {}, {}]
  grids : List Grid := []
  queues : List Queue := List.replicate 64 {}
  front : FrontEnd := {}
  ctxs : List Context := List.replicate 16 {}
  qctxs : List QueueCtx := List.replicate 64 {}
  fq : FaultQ := {}
  castle : Castle := {}
  fab : Fabric := {}
  hub : Hub := {}
  msgs : List Msg := []
  fetches : List Fetch := []
  staged : List Staged := []
  eng : List EngOp := []
  nextEng : Nat := 0
  /-- Interrupt vectors raised, oldest first (R434). -/
  irqs : List Nat := []
  /-- Channels that a refresh holds, each until an ns (R340). -/
  holds : List (Channel × Nat) := []
  /-- Lines of device memory that the host's caches hold (R304). -/
  hostCache : List (Nat × VReg) := []
  /-- The line the last host read returned (R304). -/
  hostRead : Option (Nat × VReg) := none
deriving DecidableEq, Repr

/-- Why a step stops. -/
inductive Fault where
  /-- The host accessed a physical address outside the ranges of R366; raised by `HOST_CXL_WRITE` and `HOST_CXL_READ`.
  Safe: the run ends. -/
  | noSuchAddress (pa : Nat)
deriving DecidableEq, Repr

/-- Why a step gives no meaning. -/
inductive Refusal where
  /-- An instruction with no meaning yet, rejected by name. Safe. -/
  | notModelled (mnemonic : String)
  /-- `exec` was asked to run an instruction word while no agent holds the turn. Safe. -/
  | noIssuer
deriving DecidableEq, Repr

/-- The mesh stop of logical core `c` of a die (R337, R438): the first 48 stops in row-major order that carry no
slice (log 4). -/
def coreStop (c : Nat) : BitVec 4 × BitVec 3 :=
  let r := c % 16
  if r < 4 then (BitVec.ofNat 4 (if r < 2 then r else r + 8), BitVec.ofNat 3 (2 * (c / 16)))
  else (BitVec.ofNat 4 (r - 4), BitVec.ofNat 3 (2 * (c / 16) + 1))

/-- A core after reset (R321): every bank in CACHE mode. -/
def Core.reset (c : Nat) : Core :=
  { modes := List.replicate 16 .cache, locx := (coreStop (c % 48)).1, locy := (coreStop (c % 48)).2 }

/-- The machine after reset: the registers at their reset values, no block resident, memory with nothing listed. -/
def State.reset : State := { cores := (List.range 192).map Core.reset }

end Sys2Proof.Machine
end

