-- ==== Sys2Proof/Machine/Window.lean ====
section
/-! DEFINITION. The forwarding window and the pending registers (R28-R33): what a read of a register returns, what
checked mode refuses, and how results reach the register file. -/

namespace Sys2Proof.Machine

/-! ### Register files -/

/-- The width of a register's bits within the 1,024 that results are kept in. -/
def RegId.bits : RegId → BitVec 1024
  | .v _ => BitVec.allOnes 1024
  | .e _ => (BitVec.allOnes 64).setWidth 1024
  | .s _ => (BitVec.allOnes 32).setWidth 1024
  | .k _ => (BitVec.allOnes 32).setWidth 1024
  | .m _ => (BitVec.allOnes 64).setWidth 1024

/-- The bits of one lane slot of a register: 32 bits of V, one slot of E, one bit of K, all of S and M (R33). -/
def RegId.slotMask (r : RegId) (i : Nat) : BitVec 1024 :=
  match r with
  | .v _ => if i < 32 then ((BitVec.allOnes 32).setWidth 1024) <<< (32 * i) else 0
  | .e _ => if i < 8 then ((BitVec.allOnes 8).setWidth 1024) <<< (8 * i) else 0
  | .k _ => if i < 32 then ((1 : BitVec 1024)) <<< i else 0
  | .s _ | .m _ => if i = 0 then r.bits else 0

/-- Slots of a register. -/
def RegId.slots : RegId → Nat
  | .v _ | .k _ => 32
  | .e _ => 8
  | .s _ | .m _ => 1

/-- A number for a register slot, at which a free choice is drawn. -/
def RegId.code (r : RegId) (i : Nat) : Nat :=
  match r with
  | .v n => 1000000 + 100 * n + i
  | .e n => 2000000 + 100 * n + i
  | .s n => 3000000 + n
  | .k n => 4000000 + 100 * n + i
  | .m n => 5000000 + n

/-- The initial value of every E register (R36). -/
def eInit : EReg := 0x7F7F7F7F7F7F7F7F

/-- A warp's register file (R18). -/
def Warp.base (w : Warp) : RegId → BitVec 1024
  | .v n => tget 0 w.v n
  | .e n => (tget eInit w.e n).setWidth 1024
  | .s n => (tget 0 w.s n).setWidth 1024
  | .k n => (tget 0 w.k n).setWidth 1024
  | .m _ => 0

def Warp.setBase (w : Warp) (r : RegId) (x : BitVec 1024) : Warp :=
  match r with
  | .v n => { w with v := tset 0 n x w.v }
  | .e n => { w with e := tset eInit n (x.setWidth 64) w.e }
  | .s n => { w with s := tset 0 n (x.setWidth 32) w.s }
  | .k n => { w with k := tset 0 n (x.setWidth 32) w.k }
  | .m _ => w

/-- A block's M registers (R18). -/
def mBase (m : List (Nat × DWord)) : RegId → BitVec 1024
  | .m n => (tget 0 m n).setWidth 1024
  | _ => 0

def mSetBase (m : List (Nat × DWord)) (r : RegId) (x : BitVec 1024) : List (Nat × DWord) :=
  match r with
  | .m n => tset 0 n (x.setWidth 64) m
  | _ => m

/-! ### Reads (R29, R31, R33) -/

/-- A result is covered at the next instruction (R28). -/
def Fly.covered (f : Fly) (nominal : Nat) : Bool := decide (f.born + f.lat ≤ nominal)

/-- A WO result whose producer has left the window of instruction `num` (R31). -/
def Fly.expired (f : Fly) (num : Nat) : Bool := f.wo && decide (f.num + 8 < num)

/-- The value R29 gives a read by the next instruction, oldest producer first. -/
def Win.readFrom (wn : Win) (base : BitVec 1024) (r : RegId) : BitVec 1024 :=
  wn.fly.foldl (fun x f => if f.reg = r && f.covered wn.nominal && !f.expired wn.num then merge f.mask x f.val else x) base

/-- The bits of a register that operations still counted have pending (R33). -/
def Win.pendingBits (wn : Win) (r : RegId) : BitVec 1024 :=
  wn.ops.foldl (fun m o => o.dst.foldl (fun m p => if p.1 = r then m ||| p.2 else m) m) 0

/-- The register is the destination of an operation still counted, whatever lanes the operation writes (R33). -/
def Win.pends (wn : Win) (r : RegId) : Bool := wn.ops.any (fun o => o.dst.any (fun p => p.1 == r))

/-- The bits of `clob` of one register. -/
def Op.clobBits (o : Op) (r : RegId) : BitVec 1024 :=
  o.clob.foldl (fun m p => if p.1 = r then m ||| p.2 else m) 0

/-- The value a slot held before the pending operation that landed in it, where one has landed and nothing has written
the slot since: by R29 from what the register held and the earlier results in flight at the landing. -/
def Win.oldBits (wn : Win) (r : RegId) : BitVec 1024 × BitVec 1024 :=
  wn.ops.foldl (fun a o =>
    (o.dst.zip o.old).foldl (fun a p =>
      let m := p.1.2 &&& ~~~(o.clobBits r)
      if p.1.1 = r && o.done then (a.1 ||| m, merge (m &&& ~~~a.1) a.2 ({ wn with fly := o.oldFly }.readFrom p.2.2 r)) else a) a)
    (0, 0)

/-- A read of a register: R29's value, and, where the register is pending in unchecked mode, for each slot freely either
the value before the operation or its result (R33). The result is there once the operation's data have come back,
which may be before its counter falls (`Turn.early`). -/
def Win.read (wn : Win) (base : RegId → BitVec 1024) (c : Nat) (r : RegId) : BitVec 1024 :=
  let x := wn.readFrom (base r) r
  if wn.pendingBits r = 0 then x
  else
    let od := wn.oldBits r
    (List.range r.slots).foldl (fun acc i =>
      let m := r.slotMask i &&& od.1
      if m = 0 || Config.freeBool c (r.code i) then acc else merge m acc od.2) x

/-! ### Checked mode (R30, R33) -/

/-- Some slot's latest producer is uncovered. -/
def Win.uncovered (wn : Win) (r : RegId) : Bool :=
  (wn.fly.reverse.foldl (fun (a : BitVec 1024 × Bool) f =>
    if f.reg = r && !f.expired wn.num then
      (a.1 ||| f.mask, a.2 || (!f.covered wn.nominal && f.mask &&& ~~~a.1 != 0))
    else a) (0, false)).2

/-- Checked mode refuses a read of one slot of the register: a pending write counts for that slot alone (R125). -/
def Win.badSlot (wn : Win) (r : RegId) (i : Nat) : Bool := wn.uncovered r || wn.pendingBits r &&& r.slotMask i != 0

/-- Checked mode refuses a read of the register. -/
def Win.badRead (wn : Win) (r : RegId) : Bool := wn.uncovered r || wn.pends r
/-- Checked mode refuses a write of the register. -/
def Win.badWrite (wn : Win) (r : RegId) : Bool := wn.pends r

/-! ### Results -/

/-- One register written by an instruction: the bits written and their values. -/
structure Result where
  reg : RegId
  mask : BitVec 1024
  val : BitVec 1024
deriving DecidableEq, Repr

/-- Splits the window into the results that reach the register file now and those that stay. -/
def Win.settle (wn : Win) : List Fly × List Fly :=
  wn.fly.foldl (fun a f =>
    if f.expired wn.num then a
    else if !f.wo && f.covered wn.nominal && a.2.all (fun g => g.reg ≠ f.reg) then (a.1 ++ [f], a.2)
    else (a.1, a.2 ++ [f])) ([], [])

/-- A warp with its covered results written. -/
def Warp.settle (w : Warp) : Warp :=
  let p := w.win.settle
  p.1.foldl (fun w f => w.setBase f.reg (merge f.mask (w.base f.reg) f.val)) { w with win := { w.win with fly := p.2 } }

/-- A warp with every result of the window written, WO results too, as at a trap or stop (R43). -/
def Warp.flush (w : Warp) : Warp :=
  w.win.fly.foldl (fun w f => if f.expired w.win.num then w else w.setBase f.reg (merge f.mask (w.base f.reg) f.val))
    { w with win := { w.win with fly := [] }, specs := [] }

/-- M registers with the covered results of the stream written. -/
def settleM (m : List (Nat × DWord)) (wn : Win) : List (Nat × DWord) × Win :=
  let p := wn.settle
  (p.1.foldl (fun m f => mSetBase m f.reg (merge f.mask (mBase m f.reg) f.val)) m, { wn with fly := p.2 })

def flushM (m : List (Nat × DWord)) (wn : Win) : List (Nat × DWord) × Win :=
  (wn.fly.foldl (fun m f => if f.expired wn.num then m else mSetBase m f.reg (merge f.mask (mBase m f.reg) f.val)) m,
    { wn with fly := [] })

/-- Marks in pending operations, but those that `skip` names, the bits that another instruction has written (R33). -/
def Win.clobberBut (wn : Win) (skip : Op → Bool) (rs : List Result) : Win :=
  { wn with ops := wn.ops.map (fun o =>
      if o.dst.isEmpty || skip o then o
      else { o with clob := o.clob ++ rs.filterMap (fun r =>
        match o.dst.find? (fun p => p.1 = r.reg) with
        | some p => if p.2 &&& r.mask = 0 then none else some (r.reg, p.2 &&& r.mask)
        | none => none) }) }

def Win.clobber (wn : Win) (rs : List Result) : Win := wn.clobberBut (fun _ => false) rs

/-- Puts the fixed-latency results of the instruction that issues now into the window. -/
def Win.push (wn : Win) (lat : Nat) (wo : Bool) (rs : List Result) : Win :=
  let wn := wn.clobber rs
  { wn with fly := wn.fly ++ (rs.filter (fun r => r.mask ≠ 0)).map (fun r =>
      { reg := r.reg, mask := r.mask, val := r.val, born := wn.nominal, lat := lat, wo := wo, num := wn.num }) }

/-- The window at the next instruction (R27, R28). -/
def Win.advance (wn : Win) (st clk : Nat) : Win :=
  { wn with nominal := wn.nominal + 1 + st, num := wn.num + 1, notBefore := clk + 1 + st }

/-- The next instruction issues no earlier than a clk. -/
def Win.noEarlier (wn : Win) (t : Nat) : Win := { wn with notBefore := max wn.notBefore t }

/-- The bits of a register that a landing writes: its own, less those of slots that a later instruction wrote and
keeps (R33, free per slot). -/
def Op.landMask (o : Op) (c : Nat) (r : RegId) (mask : BitVec 1024) : BitVec 1024 :=
  let cl := o.clobBits r
  if cl &&& mask = 0 then mask
  else (List.range r.slots).foldl (fun m i =>
    let sm := r.slotMask i
    if sm &&& cl = 0 then m
    else if Config.freeBool c (r.code i + 60) then m else m &&& ~~~sm) mask

/-- A window whose in-flight results no longer cover landed bits of a register. -/
def Win.clearBits (wn : Win) (r : RegId) (mask : BitVec 1024) : Win :=
  let fly := wn.fly.map (fun f => if f.reg = r then { f with mask := f.mask &&& ~~~mask } else f)
  { wn with fly := fly.filter (fun f => f.mask ≠ 0) }

/-- A quiet point: no result marked WO, every result covered at the next instruction (R43). A result that is not marked WO
and is still uncovered counts even where its producer has left the window of eight instructions: its register is not
written yet (DESIGN CHOICE, log 99: R43 speaks of the results in the window). -/
def Win.quiet (wn : Win) : Bool := wn.fly.all (fun f => f.expired wn.num || (!f.wo && f.covered wn.nominal))

/-- A special-register write is covered at the next instruction: latency 2 (R262, R268). -/
def SpecWrite.covered (r : SpecWrite) (nominal : Nat) : Bool := decide (r.born + 2 ≤ nominal)
/-- A WO write that has left the window (R31). -/
def SpecWrite.expired (r : SpecWrite) (num : Nat) : Bool := r.wo && decide (r.num + 8 < num)

/-- A warp is at a quiet point: a sleeping one always (R112), else by its results, special registers among them. -/
def Warp.quiet (x : Warp) : Bool :=
  x.sleep != 0 || (x.win.quiet && x.specs.all (fun r => r.expired x.win.num || (!r.wo && r.covered x.win.nominal)))

/-- Counter of a path (R32). -/
def Win.count (wn : Win) (p : Path) : Nat := (wn.ops.filter (fun o => o.path = p)).length

/-- Retires performed operations whose path holds nothing older that is not performed; `seen` are the paths that
do (R32). -/
def retireGo (seen : List Path) : List Op → List Op
  | [] => []
  | o :: os => if o.done && !o.early && !seen.contains o.path then retireGo seen os else o :: retireGo (o.path :: seen) os

def Win.retire (wn : Win) : Win := { wn with ops := retireGo [] wn.ops }

end Sys2Proof.Machine
end

