-- ==== Sys2Proof/Machine/Lookup.lean ====
section
/-! DEFINITION. Finding and replacing the parts of the state: blocks, warps, grids, cores, dies, queues, and the
predicates on lanes (R13-R17, R100). -/

namespace Sys2Proof

/-- The block of a warp. -/
def WarpId.blockId (w : WarpId) : BlockId := ⟨w.grid, w.block⟩

def Agent.blockId : Agent → BlockId
  | .warp w => w.blockId
  | .seq b => b

end Sys2Proof

namespace Sys2Proof.Machine

abbrev Out := Host.Outcome State Fault Refusal

/-! ### Blocks, warps and sequencers -/

def State.block? (s : State) (b : BlockId) : Option Block := s.blocks.find? (fun x => x.id = b)

def State.setBlock (s : State) (b : BlockId) (f : Block → Block) : State :=
  { s with blocks := s.blocks.map (fun x => if x.id = b then f x else x) }

/-- A resident warp with its block. -/
def State.warp? (s : State) (w : WarpId) : Option (Block × Warp) :=
  match s.block? w.blockId with
  | some b => (b.warps[w.warp]?).map (fun x => (b, x))
  | none => none

def State.setWarp (s : State) (w : WarpId) (f : Warp → Warp) : State :=
  s.setBlock w.blockId (fun b => { b with warps := b.warps.modify w.warp f })

def State.seq? (s : State) (b : BlockId) : Option (Block × Seq) :=
  match s.block? b with
  | some blk => blk.seq.map (fun q => (blk, q))
  | none => none

def State.setSeq (s : State) (b : BlockId) (f : Seq → Seq) : State :=
  s.setBlock b (fun x => { x with seq := x.seq.map f })

/-- The window of an agent. -/
def State.win? (s : State) (a : Agent) : Option Win :=
  match a with
  | .warp w => (s.warp? w).map (fun p => p.2.win)
  | .seq b => (s.seq? b).map (fun p => p.2.win)

def State.setWin (s : State) (a : Agent) (f : Win → Win) : State :=
  match a with
  | .warp w => s.setWarp w (fun x => { x with win := f x.win })
  | .seq b => s.setSeq b (fun x => { x with win := f x.win })

/-- The number of a block's warps that an id names. -/
def Block.warpIds (b : Block) : List WarpId := (List.range b.warps.length).map (fun i => ⟨b.id.grid, b.id.block, i⟩)

/-- Every resident warp's id. -/
def State.warpIds (s : State) : List WarpId := s.blocks.flatMap Block.warpIds

/-! ### Grids, cores, dies, queues -/

def State.grid? (s : State) (g : BitVec 32) : Option Grid := s.grids.find? (fun x => x.id = g)

def State.setGrid (s : State) (g : BitVec 32) (f : Grid → Grid) : State :=
  { s with grids := s.grids.map (fun x => if x.id = g then f x else x) }

def State.core (s : State) (c : Nat) : Core := (s.cores[c]?).getD (Core.reset c)
def State.setCore (s : State) (c : Nat) (f : Core → Core) : State := { s with cores := s.cores.modify c f }

def State.die (s : State) (d : Nat) : Die := (s.dies[d]?).getD {}
def State.setDie (s : State) (d : Nat) (f : Die → Die) : State := { s with dies := s.dies.modify d f }

/-- The die of a core (R1). -/
def dieOfCore (c : Nat) : Nat := c / 48

/-- Core-clock cycles of a die. -/
def State.clkOf (s : State) (d : Nat) : Nat := (s.clks[d]?).getD 0

def State.queue (s : State) (q : Nat) : Queue := (s.queues[q]?).getD {}
def State.setQueue (s : State) (q : Nat) (f : Queue → Queue) : State := { s with queues := s.queues.modify q f }
def State.qctx (s : State) (q : Nat) : QueueCtx := (s.qctxs[q]?).getD {}
def State.setQctx (s : State) (q : Nat) (f : QueueCtx → QueueCtx) : State := { s with qctxs := s.qctxs.modify q f }

/-- The queue of a grid (R347). -/
def gridQueue (g : BitVec 32) : Nat := (g.extractLsb' 26 6).toNat

/-- Raises an interrupt vector. -/
def State.irq (s : State) (v : Nat) : State := { s with irqs := s.irqs ++ [v] }

/-- Counts an event of R264; the counters wrap. -/
def State.countPm (s : State) (c idx n : Nat) : State :=
  s.setCore c (fun k => { k with pm := tset 0 idx (tget 0 k.pm idx + BitVec.ofNat 64 n) k.pm })

/-! ### The launch record of a grid (R343) -/

/-- Bits `[lo, lo+n)` of a 128-byte record from byte `off`. -/
def recField (r : VReg) (off lo n : Nat) : Nat := field (r.toNat >>> (8 * off)) lo n

def recBit (r : VReg) (off lo : Nat) : Bool := recField r off lo 1 == 1

namespace Rec

def prio (r : VReg) : Nat := recField r 0 1 2
def coop (r : VReg) : Bool := recBit r 0 3
def chk (r : VReg) : Bool := recBit r 0 4
def ptrap (r : VReg) : Bool := recBit r 0 5
def rbk (r : VReg) : Bool := recBit r 0 6
def mstr (r : VReg) : Bool := recBit r 0 7
/-- Cluster size. -/
def clus (r : VReg) : Nat := recField r 0 8 3 + 1
def nvar (r : VReg) : Nat := recField r 0 11 3
def ndep (r : VReg) : Nat := recField r 0 14 2
def diemask (r : VReg) : Nat := recField r 0 16 4
def rkr (r : VReg) : Bool := recBit r 0 20
def nthr (r : VReg) : Nat := recField r 4 0 11
def nbar (r : VReg) : Nat := recField r 4 11 5
/-- Declared V and S counts. -/
def nV (r : VReg) : Nat := 8 * recField r 4 16 6
def nS (r : VReg) : Nat := 32 * recField r 4 22 6
def nfifo (r : VReg) : Nat := recField r 4 28 4
def nacc (r : VReg) : Nat := recField r 8 0 7
def nbobj (r : VReg) : Nat := recField r 8 7 7
def nredd (r : VReg) : Nat := recField r 8 14 9
def trapv (r : VReg) : Bool := recBit r 8 23
/-- Declared scratchpad bytes SB. -/
def scrb (r : VReg) : Nat := recField r 0x0C 0 20
def seqmask (r : VReg) : BitVec 16 := BitVec.ofNat 16 (recField r 0x10 0 16)
def tofs (r : VReg) : Nat := recField r 0x10 16 16
/-- Time-out Tb. -/
def tb (r : VReg) : Nat := recField r 0x14 0 32
def entry (r : VReg) : DWord := BitVec.ofNat 64 (recField r 0x18 0 64)
def kconst (r : VReg) : DWord := BitVec.ofNat 64 (recField r 0x20 0 64)
def tsa (r : VReg) : DWord := BitVec.ofNat 64 (recField r 0x28 0 64)
def seed (r : VReg) : DWord := BitVec.ofNat 64 (recField r 0x30 0 64)
def gx (r : VReg) : Nat := recField r 0x38 0 31
def gy (r : VReg) : Nat := recField r 0x3C 0 16
def gz (r : VReg) : Nat := recField r 0x3C 16 16
def hint (r : VReg) : DWord := BitVec.ofNat 64 (recField r 0x40 0 64)
def hstr (r : VReg) : Nat := recField r 0x48 0 32
def sofs (r : VReg) : Word := BitVec.ofNat 32 (recField r 0x4C 0 32)
def dep (r : VReg) (i : Nat) : Word := BitVec.ofNat 32 (recField r (0x50 + 4 * i) 0 32)
def sizew (r : VReg) : DWord := BitVec.ofNat 64 (recField r 0x58 0 64)
def vcap (r : VReg) (v : Nat) : Nat := recField r (0x60 + 8 * v) 0 32
def vgx (r : VReg) (v : Nat) : Nat := recField r (0x64 + 8 * v) 0 31
/-- Warps of a block (R11). -/
def nwarps (r : VReg) : Nat := (nthr r + 31) / 32
/-- The PC `n` slots after `pc` (R78, R343). -/
def slotPc (pc : DWord) (n : Int) : DWord :=
  let t : Int := (slotIdx pc : Int) + n
  BitVec.ofInt 64 (128 * (t / 10) + 12 * (t % 10))
def handler (r : VReg) : DWord := slotPc (entry r) (tofs r)
def stream (r : VReg) : DWord := slotPc (entry r) (sofs r).toInt
def declared (r : VReg) : Declared := ⟨nV r, nS r, nacc r, if mstr r then 64 else 0⟩

end Rec

/-! ### Lanes (R13-R16, R100) -/

/-- Nesting counter of a lane. -/
def nestOf (n : BitVec 128) (l : Nat) : Nat := (n.extractLsb' (4 * l) 4).toNat

/-- The nesting counters whose lane `l` is `f l`. -/
def ofNest (f : Nat → Nat) : BitVec 128 := BitVec.ofNat 128 (packNat 4 f 32)

/-- `active(l)` for every lane (R14). -/
def Warp.active (w : Warp) : Mask := ofMask (fun l => !(bit w.retired l) && nestOf w.nest l == 0)

/-- `livemask` (R100). -/
def Warp.live (w : Warp) : Mask := w.active &&& ~~~w.helper

/-- A lane remains that is neither retired nor a helper (R17). -/
def Warp.realLeft (w : Warp) : Bool := (~~~w.retired &&& ~~~w.helper) != 0

/-- A warp that still runs. -/
def Warp.running (w : Warp) : Bool := !w.terminated && !w.stopped && !w.freed

end Sys2Proof.Machine
end

