-- ==== Sys2Proof/Machine/Memory.lean ====
section
/-! DEFINITION. Physical memory at its home slices (R335, R366), poison (R391), the undo log of a write (R394), the
dies' copies of lines homed elsewhere, and the stamped writes between dies (R296, R298-R300). -/

namespace Sys2Proof.Machine

/-! ### Bytes, sidecars and poison -/

/-- What an unlisted byte of physical memory reads as (log 3). -/
def memInit : Byte := 0x00
/-- What an unlisted sidecar slot reads as (log 3). -/
def sideInit : Byte := 0x7F

/-- One byte of physical memory. -/
def State.byte (s : State) (pa : Nat) : Byte := tget memInit s.mem pa

/-- The 128 data bytes of a line in a byte table. -/
def lineOf (mem : List Host.Cell) (line : Nat) : VReg := ofBytes128 (fun i => tget memInit mem (128 * line + i))
/-- The sidecar of a line. -/
def sideOf (side : List (Nat × Byte)) (line : Nat) : EReg := ofSlots (fun j => tget sideInit side (8 * line + j))

/-- A byte table with the masked bytes of one line written. -/
def putLine (mem : List Host.Cell) (line : Nat) (data : VReg) (mask : BitVec 128) : List Host.Cell :=
  (List.range 128).foldl (fun m i => if bit mask i then tset memInit (128 * line + i) (byteAt data i) m else m) mem

def putSide (side : List (Nat × Byte)) (line : Nat) (e : EReg) (mask : BitVec 8) : List (Nat × Byte) :=
  (List.range 8).foldl (fun m j => if bit mask j then tset sideInit (8 * line + j) (slot e j) m else m) side

/-- Memory's canonical form: addresses strictly rising, no entry equal to what an unlisted address reads as. -/
def Memory.wf (mem : List Host.Cell) : Bool := twf memInit mem

/-- `n` bytes of memory from `pa`, as one little-endian natural (R5). -/
def State.natAt (s : State) (pa n : Nat) : Nat := natLE ((List.range n).map (fun i => s.byte (pa + i)))

/-- Memory with bytes written as they stand, outside every rule on writes: the devices' own log entries. -/
def State.rawBytes (s : State) (pa : Nat) (bs : List Byte) : State :=
  { s with mem := (bs.foldl (fun (a : List Host.Cell × Nat) b => (tset memInit a.2 b a.1, a.2 + 1)) (s.mem, pa)).1 }

/-! ### Home slices (R335) -/

def homeIndex (line : Nat) : Nat :=
  ((line % 2 ^ 7) ^^^ (field line 7 7) ^^^ (field line 14 7) ^^^ (field line 21 7) ^^^ (field line 28 7) ^^^
    (field line 35 5)) % 128
def hashDie (line : Nat) : Nat := homeIndex line / 32
def homeSlice (line : Nat) : Nat := homeIndex line % 32

/-- The memory ranges of R366, and their tier codes. -/
def tierOf (pa : Nat) : Option Nat :=
  if pa < 0x009502F90000 then some 0
  else if 0x010000000000 ≤ pa ∧ pa < 0x01EE6B280000 then some 1
  else if 0x400000000000 ≤ pa ∧ pa < 0x800000000000 then some 2
  else none

/-- The die that is home to a line. A line of CXL-attached memory has none: its home is the host, which 4 stands for. -/
def homeDie (line : Nat) : Nat := if tierOf (128 * line) = some 2 then 4 else hashDie line

/-- HBM4E or LPDDR6, the memory that has home slices. -/
def homed (line : Nat) : Bool := tierOf (128 * line) == some 0 || tierOf (128 * line) == some 1

/-- Requests to the line fail: its home die has a die-level fault (R449). -/
def State.lost (s : State) (line : Nat) : Bool := (s.die (homeDie line)).dieflt && homed line

/-- A read of the line at its home is a read of a poisoned line (R391, R403, R449). -/
def State.poisoned (s : State) (line : Nat) : Bool := s.poison.contains line || s.lost line

/-- Its home die is parked, or on its way in or out: requests to the line are held (R442). -/
def State.parked? (s : State) (line : Nat) : Bool :=
  homed line && ((s.die (homeDie line)).pcur == 6 || ((s.die (homeDie line)).pbusy && (s.die (homeDie line)).ptgt == 6))

/-- The core clock of a die runs: in a P state, outside a transition between two of them (R441-R443, R449). -/
def Die.clocked (d : Die) : Bool :=
  !d.halt && !d.dieflt && decide (d.pcur.toNat ≤ 4) && !(d.pbusy && decide (d.ptgt.toNat ≤ 4))

/-- What a command of the host does: after a failed boot only the management page answers (R444). -/
def State.served (s t : State) : State := if s.hub.bootst = 4 then s else t

/-! ### Pages in motion (R383) -/

/-- The key address of a moving page, as a line number: its source on this device, else its destination. -/
def Move.keyLine (m : Move) : Nat :=
  match m.src, m.dst with
  | .mem a, _ => a / 128
  | _, .mem b => b / 128
  | _, _ => 0
def Move.lines (m : Move) : Nat := m.size / 128
def Move.inKey (m : Move) (line : Nat) : Bool := decide (m.keyLine ≤ line) && decide (line < m.keyLine + m.lines)

/-- Line `i` of a moving page is at the destination (R383, R384). -/
def Move.movedLine (m : Move) (i : Nat) : Bool :=
  decide (i / 512 < m.chunk) || (i / 512 == m.chunk && bit m.moved (i % 512))

/-- The current location of line `j`, where it is not the key address. -/
def Move.away (m : Move) (j : Nat) : Option Loc :=
  match m.src, m.dst with
  | .mem _, .mem b => if m.movedLine j then some (.mem (b + 128 * j)) else none
  | .mem _, .peer p b => if m.movedLine j then some (.peer p (b + 128 * j)) else none
  | .peer p a, _ => if m.movedLine j then none else some (.peer p (a + 128 * j))
  | _, _ => none

/-- The current location of a line whose page moves, where it is not at its own address: misses at the motion home and
write-backs from it go there (R383). -/
def State.awayLoc (s : State) (line : Nat) : Option Loc :=
  s.castle.moves.findSome? (fun m => if m.inKey line then m.away (line - m.keyLine) else none)

def Die.l2? (d : Die) (line : Nat) : Option L2Line := d.l2.find? (fun l => l.line = line)

/-- The home slice holds the bytes of a line (R334). -/
def State.l2Holds (s : State) (line : Nat) (need : BitVec 128) (side : Bool) : Bool :=
  match (s.die (homeDie line)).l2? line with
  | some l => need &&& ~~~l.held == 0 && (!side || l.side == 0xFF)
  | none => false

/-- A line as the memory at its own address holds it. -/
def State.plainRead (s : State) (line : Nat) : VReg × EReg × Bool :=
  if s.poisoned line then (0, eInit, true) else (lineOf s.mem line, sideOf s.side line, false)

/-- The bytes and sidecar slots of a line that its motion home holds newer than the line's current location. -/
def State.newer (s : State) (line : Nat) : BitVec 128 × BitVec 8 :=
  (s.castle.moves.findSome? (fun m => if m.inKey line then (m.wb.find? (fun p => p.1 == line - m.keyLine)).map Prod.snd else none)).getD
    (0, 0)

/-- A line under the bytes that its motion home holds newer. -/
def State.underNewer (s : State) (line : Nat) (r : VReg × EReg × Bool) : VReg × EReg × Bool :=
  let n := s.newer line
  if n = (BitVec.allOnes 128, 0xFF) then s.plainRead line
  else if r.2.2 then r
  else (merge (byteBits n.1) r.1 (lineOf s.mem line), merge (slotBits n.2) r.2.1 (sideOf s.side line), false)

/-- A line as its home returns it: data, sidecar, and whether it is poisoned (R391). What the slice does not hold of a
line that is at another place of the device is read there. -/
def State.homeRead (s : State) (line : Nat) : VReg × EReg × Bool :=
  if s.castle.moves.isEmpty then s.plainRead line
  else match s.awayLoc line with
    | some (.mem b) =>
      if s.l2Holds line (BitVec.allOnes 128) true then s.plainRead line else s.underNewer line (s.plainRead (b / 128))
    | _ => s.plainRead line

/-- The line lies at a peer and its motion home does not hold it whole: a reader there waits for a fill. -/
def State.atPeer (s : State) (line : Nat) : Bool :=
  match s.awayLoc line with
  | some (.peer _ _) => !(s.l2Holds line (BitVec.allOnes 128) true) && s.newer line != (BitVec.allOnes 128, 0xFF)
  | _ => false

/-- `n` bytes from `pa` as their home returns them, as one little-endian natural (R391). -/
def State.readNat (s : State) (pa n : Nat) : Nat :=
  let k := (pa % 128 + n + 127) / 128
  if s.castle.moves.isEmpty && (List.range k).all (fun i => !(s.poisoned (pa / 128 + i))) then s.natAt pa n
  else field (natLE ((List.range k).flatMap (fun i => bytesLE 128 (s.homeRead (pa / 128 + i)).1.toNat))) (8 * (pa % 128)) (8 * n)

/-! ### Castle locks (R384, R385) -/

/-- The clock that a move's locks are timed by. -/
def State.moveClk (s : State) (m : Move) : Nat := s.clkOf (hashDie m.keyLine)

/-- LMAX (R385). -/
def Move.lmax (m : Move) : Nat :=
  let near : Loc → Bool := fun l => match l with
    | .mem pa => tierOf pa == some 0 || tierOf pa == some 1
    | _ => false
  if near m.src && near m.dst then 4096 else 12288

/-- CMAX (R385). -/
def cmax : Nat := 16384

/-- The copy lock that a move holds at `clk`: its line, while LMAX has not passed. -/
def Move.copyLock (m : Move) (clk : Nat) : Option Nat :=
  match m.lock with
  | some (i, t) => if clk < t + m.lmax then some i else none
  | none => none

/-- A move holds every lock of its page at `clk`: CMAX has not passed. -/
def Move.holdsAll (m : Move) (clk : Nat) : Bool :=
  match m.allLocked with
  | some t => decide (clk < t + cmax)
  | none => false

/-- A copy lock lies on the line. -/
def State.copyLocked (s : State) (line : Nat) : Bool :=
  s.castle.moves.any (fun m => m.inKey line && m.copyLock (s.moveClk m) == some (line - m.keyLine))

/-- A line of a moving page whose lock is held: the copy lock, or every line at a completion. -/
def State.locked (s : State) (line : Nat) : Bool :=
  s.castle.moves.any (fun m => m.inKey line &&
    (m.holdsAll (s.moveClk m) || m.copyLock (s.moveClk m) == some (line - m.keyLine)))

/-- A line of a peer that a move copies from: its lock is held. -/
def State.peerLocked (s : State) (dev line : Nat) : Bool :=
  s.castle.moves.any (fun m =>
    match m.src with
    | .peer p a => p == dev && decide (a / 128 ≤ line) && decide (line < (a + m.size) / 128) &&
        (m.holdsAll (s.moveClk m) || m.copyLock (s.moveClk m) == some (line - a / 128))
    | _ => false)

/-- An access to the line waits: a Castle lock is on it (R385), its home die is parked (R442), or its current location is
a peer, from which it is still to come (R318, R386). -/
def State.lineBusy (s : State) (line : Nat) : Bool := s.locked line || s.parked? line || s.atPeer line

/-- An access to some of `n` bytes from `pa` waits. -/
def State.rangeBusy (s : State) (pa n : Nat) : Bool :=
  (List.range ((pa % 128 + n + 127) / 128)).any (fun i => s.lineBusy (pa / 128 + i))

/-- Poisons a line (R387, R448). -/
def State.addPoison (s : State) (line : Nat) : State :=
  if s.poison.contains line then s else { s with poison := insertNat line s.poison }

/-! ### What a write of a line ends (R373, R383, R387) -/

/-- Removes every TLB entry, on every core, whose leaf lies in a line (R373). -/
def State.tlbDrop (s : State) (line : Nat) : State :=
  { s with cores := s.cores.map (fun c =>
      if c.tlb.any (fun e => e.la == line) then { c with tlb := c.tlb.filter (fun e => e.la != line) } else c) }

/-- Marks moves whose leaf entry a write touches (R387). -/
def State.leafMark (s : State) (line : Nat) (mask : BitVec 128) : State :=
  if s.castle.moves.isEmpty then s
  else { s with castle := { s.castle with moves := s.castle.moves.map (fun m =>
      if m.ptea / 128 = line ∧ (List.range 8).any (fun i => bit mask (m.ptea % 128 + i)) then { m with leafHit := true }
      else m) } }

/-- The motion home holds bytes of a line newer than its current location; they are written back there (R383, R386). -/
def Move.renew (m : Move) (j : Nat) (mask : BitVec 128) (side : BitVec 8) : Move :=
  let old := ((m.wb.find? (fun p => p.1 == j)).map Prod.snd).getD (0, 0)
  { m with wb := (j, old.1 ||| mask, old.2 ||| side) :: m.wb.filter (fun p => p.1 != j) }

/-- Bytes of a line whose current location is not its key address are newer at its motion home. -/
def State.noteMoved (s : State) (line : Nat) (mask : BitVec 128) (side : BitVec 8) : State :=
  if s.castle.moves.isEmpty then s
  else { s with castle := { s.castle with moves := s.castle.moves.map (fun m =>
      if m.inKey line && (m.away (line - m.keyLine)).isSome then m.renew (line - m.keyLine) mask side else m) } }

/-- What a write of a line's bytes ends: TLB entries from it, moves whose leaf entry it touches. -/
def State.wrote (s : State) (line : Nat) (mask : BitVec 128) (side : BitVec 8) : State :=
  ((s.tlbDrop line).leafMark line mask).noteMoved line mask side

/-! ### The undo log (R394) -/

/-- The grid of a write logs its writes: RBK set and RBST logging. -/
def State.logging (s : State) (g : BitVec 32) : Bool :=
  match s.grid? g with
  | some gr => Rec.rbk gr.record && (s.qctx (gridQueue g)).rbst == 1
  | none => false

/-- The log of a grid already holds a line. -/
def State.logged (s : State) (q : QueueCtx) (g : BitVec 32) (line : Nat) : Bool :=
  (List.range q.ulused.toNat).any (fun n =>
    s.natAt (q.ulbase.toNat + 160 * n) 8 % 2 ^ 47 == 128 * line && s.natAt (q.ulbase.toNat + 160 * n + 8) 4 == g.toNat)

/-- A log entry is written at `pa`, outside every rule on writes but what a write ends. -/
def State.logEntry (s : State) (pa : Nat) (bs : List Byte) : State :=
  (List.range 3).foldl (fun s i =>
    let line := pa / 128 + i
    let mask := BitVec.ofNat 128 (packNat 1 (fun j => b2n ( decide (pa ≤ 128 * line + j) && decide (128 * line + j < pa + bs.length))) 128)
    if mask = 0 then s else s.wrote line mask 0) (s.rawBytes pa bs)

/-- The pre-image of a line of HBM4E or LPDDR6, written before the grid's first write to it. Logging stops once the log
is full. A line that was poisoned then is remembered (R396). -/
def State.logPre (s : State) (grid : Option (BitVec 32)) (line : Nat) : State :=
  match grid with
  | none => s
  | some g =>
    if !s.logging g || (tierOf (128 * line) != some 0 && tierOf (128 * line) != some 1) then s
    else
      let qn := gridQueue g
      let q := s.qctx qn
      if s.logged q g line then s
      else
        let at_ := q.ulbase.toNat + 160 * q.ulused.toNat
        let r := s.homeRead line
        let bs := bytesLE 8 (128 * line) ++ bytesLE 8 g.toNat ++ bytesLE 128 r.1.toNat ++ bytesLE 8 r.2.1.toNat ++ bytesLE 8 0
        (s.logEntry at_ bs).setQctx qn (fun q => { q with
          ulused := q.ulused + 1,
          rbst := if q.ulsize.toNat ≤ q.ulused.toNat + 1 then 2 else q.rbst,
          ulpois := if r.2.2 then line :: q.ulpois else q.ulpois })

/-! ### Writes at the home slice -/

/-- Bytes for one line: data and sidecar with what they cover, and the cache policy of the access (R334). -/
structure Put where
  data : VReg
  mask : BitVec 128
  side : EReg := 0
  sideMask : BitVec 8 := 0
  cp : Nat := 0
deriving DecidableEq, Repr

/-- A write of a line's bytes into the tables of memory: data, sidecar and poison (R391). A write clears poison when it
covers the line as one unit, which only a write that carries sidecar bytes is (R287). -/
def State.applyPut (s : State) (line : Nat) (p : Put) : State :=
  let full := p.mask == BitVec.allOnes 128 && p.sideMask != 0
  if s.poison.contains line && full then
    { s with mem := putLine s.mem line p.data p.mask,
             side := putSide (putSide s.side line eInit 0xFF) line p.side p.sideMask,
             poison := s.poison.filter (fun l => l != line) }
  else { s with mem := putLine s.mem line p.data p.mask, side := putSide s.side line p.side p.sideMask }

/-! ### L2 slices (R330, R334, R335) -/

def Die.copy? (d : Die) (line : Nat) : Option DieCopy := d.copies.find? (fun c => c.line = line)
/-- The line that leaves a full set of 16 ways for a new one: least recently used first, kept lines last (R330;
log 33). -/
def State.l2Victim (s : State) (d line : Nat) : Option Nat :=
  if (s.die d).l2.length < 16 then none
  else
    let slice := (s.die d).l2.filter (fun l => homeSlice l.line == homeSlice line)
    if slice.length < 16 then none
    else
      let ways := slice.filter (fun l => Config.l2Set l.line % 2048 == Config.l2Set line % 2048)
      if ways.length < 16 then none
      else (((ways.filter (fun l => !l.keep)).getLast?).or ways.getLast?).map (fun l => l.line)

/-- A fetch reads its home again, once the home has applied the writes that `v` counts. -/
def Fetch.again (f : Fetch) (v : List (BitVec 48)) : Fetch := { f with got := none, want := v }

/-- A die gives up a line of its L2, its copy of a line homed elsewhere with it; a fetch of the line under way reads its
home again, after the die's own writes. -/
def State.l2Drop (s : State) (d line : Nat) : State :=
  let s1 := s.setDie d (fun x => { x with l2 := x.l2.filter (fun l => l.line ≠ line),
                                          copies := x.copies.filter (fun c => c.line ≠ line) })
  { s1 with fetches := s1.fetches.map (fun f => if f.die = d ∧ f.line = line then f.again (s1.die d).vclk else f) }

/-- A line takes bytes in a die's L2: merged into it, or allocated under a cache policy (R330, R334). -/
def State.l2Put (s : State) (d line : Nat) (held : BitVec 128) (side : BitVec 8) (cp : Nat) : State :=
  match (s.die d).l2? line with
  | some l => s.setDie d (fun x => { x with l2 :=
      { l with held := l.held ||| held, side := l.side ||| side } :: x.l2.filter (fun l => l.line ≠ line) })
  | none =>
    let s1 := match s.l2Victim d line with
      | some v => s.l2Drop d v
      | none => s
    let l : L2Line := { line := line, held := held, side := side, keep := cp == 2 }
    s1.setDie d (fun x => { x with l2 := if cp = 1 then x.l2 ++ [l] else l :: x.l2 })

/-- A hit in the L2 makes the line the most recently used. -/
def State.l2Touch (s : State) (d line : Nat) : State :=
  if ((s.die d).l2? line).isSome then s.l2Put d line 0 0 0 else s

/-- A line of the die's own L2 is dirty until it is written back. -/
def State.l2Dirty (s : State) (d line : Nat) : State :=
  s.setDie d (fun x => { x with l2 := x.l2.map (fun l => if l.line = line then { l with dirty := true } else l) })

/-- A write of any agent, applied at the line's home: the undo log first (R394), then the bytes, then what a write of
them ends. The home slice allocates the line without a fetch (R334). On a faulted die it fails (R403, R449). -/
def State.homeWrite (s : State) (grid : Option (BitVec 32)) (line : Nat) (p : Put) : State :=
  if s.lost line then
    match grid with
    | some g => s.setGrid g (fun x => { x with pois := true })
    | none => s
  else ((((s.logPre grid line).applyPut line p).wrote line p.mask p.sideMask).l2Put (homeDie line) line p.mask p.sideMask
    p.cp).l2Dirty (homeDie line) line

/-! ### Points of coherence and stamps (R296, R298-R300) -/

/-- A die's copy with bytes written into it; allocated if absent (R296). -/
def putCopy (cs : List DieCopy) (line : Nat) (p : Put) : List DieCopy :=
  match cs.find? (fun c => c.line = line) with
  | some _ => cs.map (fun c =>
      if c.line = line then
        { c with data := merge (byteBits p.mask) c.data p.data, have_ := c.have_ ||| p.mask,
                 side := merge (slotBits p.sideMask) c.side p.side, sideHave := c.sideHave ||| p.sideMask }
      else c)
  | none => { line := line, data := p.data &&& byteBits p.mask, have_ := p.mask, side := p.side &&& slotBits p.sideMask,
              sideHave := p.sideMask } :: cs

/-- The line returned by a fetch, merged under the bytes the die has written itself (R300). -/
def installCopy (cs : List DieCopy) (line : Nat) (data : VReg) (side : EReg) : List DieCopy :=
  match cs.find? (fun c => c.line = line) with
  | some _ => cs.map (fun c =>
      if c.line = line then
        { c with data := merge (byteBits c.have_) data c.data, have_ := BitVec.allOnes 128,
                 side := merge (slotBits c.sideHave) side c.side, sideHave := 0xFF }
      else c)
  | none => { line := line, data := data, have_ := BitVec.allOnes 128, side := side, sideHave := 0xFF } :: cs

/-- Die `e` holds a copy of a line, or has a fetch of it under way. -/
def State.holds? (s : State) (e line : Nat) : Bool :=
  ((s.die e).copy? line).isSome || s.fetches.any (fun f => f.die == e && f.line == line)

/-- A write into a die's copy of a line, allocated if absent (R296, R335). -/
def State.copyPut (s : State) (d line : Nat) (p : Put) : State :=
  (s.setDie d (fun x => { x with copies := putCopy x.copies line p })).l2Put d line p.mask p.sideMask p.cp

def stampAt (t : List (BitVec 48)) (k : Nat) : BitVec 48 := (t[k]?).getD 0

/-- Every count of `v` has reached the stamp (R300). -/
def reached (v t : List (BitVec 48)) : Bool := (List.range 4).all (fun k => cntLe (stampAt t k) (stampAt v k))

/-- The writes that host memory has applied, count by count: those of a die up to the first one still on its way. -/
def State.hostClk (s : State) : List (BitVec 48) :=
  (List.range 4).map (fun k => match s.msgs.find? (fun m => m.src == k && m.dst == 4) with
    | some m => stampAt m.stamp k - 1
    | none => stampAt (s.die k).vclk k)

/-- The clock of a line's home: a die's, or what host memory has applied. -/
def State.clockOf (s : State) (h : Nat) : List (BitVec 48) := if h < 4 then (s.die h).vclk else s.hostClk

/-- A clock counts a message. -/
def Msg.counted (m : Msg) (v : List (BitVec 48)) : Bool := cntLe (stampAt m.stamp m.src) (stampAt v m.src)

/-- A fetch after its die has applied message `m`: a line that has been read and does not count the write merges its
data, or is read again where only the notice has come; one that has not been read waits for the write at the home. -/
def Fetch.heard (f : Fetch) (m : Msg) (v : List (BitVec 48)) : Fetch :=
  if f.die = m.dst ∧ f.line = m.line then
    match f.got, m.put with
    | none, _ => { f with want := v }
    | some g, some (data, mask, side, sm) =>
      if m.counted g.2.2 then f
      else { f with got := some (merge (byteBits mask) g.1 data, merge (slotBits sm) g.2.1 side, g.2.2) }
    | some g, none => if m.counted g.2.2 then f else f.again v
  else f

/-- The bytes of a line that die `d` has written and that the home has not applied yet. -/
def State.unapplied (s : State) (d line : Nat) : BitVec 128 × BitVec 8 :=
  s.msgs.foldl (fun a m =>
    match m.put with
    | some (_, mask, _, sm) =>
      if m.src = d ∧ m.line = line ∧ m.dst = homeDie line then (a.1 ||| mask, a.2 ||| sm) else a
    | none => a) (0, 0)

/-- A notice reaches a die that has taken a copy of the line since it was sent: the copy lacks the write, so it keeps only
the die's own bytes that are on their way (R294, R302; DEDUCED, log 100). -/
def State.staleCopy (s : State) (e line : Nat) : State :=
  if ((s.die e).copy? line).isNone then s
  else
    let m := s.unapplied e line
    if m.1 = 0 ∧ m.2 = 0 then s.l2Drop e line
    else s.setDie e (fun x => { x with copies := x.copies.map (fun c => if c.line = line then
      { c with have_ := c.have_ &&& m.1, sideHave := c.sideHave &&& m.2 } else c) })

/-- Die `e` applies message `m` (R299), or `none` while its stamp does not allow it. -/
def State.applyMsg (s : State) (m : Msg) : Option State :=
  let v := s.clockOf m.dst
  if stampAt v m.src = stampAt m.stamp m.src - 1 ∧
      (List.range 4).all (fun k => k == m.src || cntLe (stampAt m.stamp k) (stampAt v k)) = true then
    let s1 := s.setDie m.dst (fun x => { x with vclk := x.vclk.set m.src (stampAt m.stamp m.src) })
    let s2 := { s1 with fetches := s1.fetches.map (fun f => f.heard m (s1.die m.dst).vclk) }
    match m.put with
    | none => some (if homeDie m.line = m.dst then s2 else s2.staleCopy m.dst m.line)
    | some (data, mask, side, sm) =>
      let p : Put := ⟨data, mask, side, sm, m.cp⟩
      if homeDie m.line = m.dst then some (s2.homeWrite m.grid m.line p)
      else if ((s2.die m.dst).copy? m.line).isSome then some (s2.copyPut m.dst m.line p)
      else some s2
  else none

/-- The first message to a die that it can apply, and the messages without it. -/
def State.firstMsg (s : State) (e : Nat) : List Msg → Option (State × List Msg)
  | [] => none
  | m :: ms =>
    match (if m.dst = e then s.applyMsg m else none) with
    | some s1 => some (s1, ms)
    | none => (s.firstMsg e ms).map (fun r => (r.1, m :: r.2))

/-- A die that already holds 2^16 unapplied writes applies one before another is sent to it (R298). -/
def State.makeRoom (s : State) (e : Nat) : State :=
  if (s.msgs.filter (fun m => m.dst == e)).length < 65536 then s
  else match s.firstMsg e s.msgs with
    | some (s1, ms) => { s1 with msgs := ms }
    | none => s

/-- Stamps a write of die `d` and sends it to every other die, with its data to the home and to the dies that hold a
copy (R298). A line of CXL-attached memory has its home at the host, which takes the data too. -/
def State.sendStamped (s : State) (d : Nat) (grid : Option (BitVec 32)) (line : Nat) (p : Put) : State :=
  let s0 := ((List.range 4).filter (fun e => e != d)).foldl State.makeRoom s
  let s1 := s0.setDie d (fun x => { x with vclk := x.vclk.modify d (· + 1) })
  let t := (s1.die d).vclk
  { s1 with msgs := s1.msgs ++ ((List.range 5).filter (fun e => e != d && (e != 4 || homeDie line == 4))).map (fun e =>
      { src := d, dst := e, stamp := t, line := line, grid := grid, cp := p.cp,
        put := if e == homeDie line || s.holds? e line then some (p.data, p.mask, p.side, p.sideMask) else none }) }

/-- A write at die `d`'s point of coherence (R296, R298). -/
def State.pocWrite (s : State) (d : Nat) (grid : Option (BitVec 32)) (line : Nat) (p : Put) : State :=
  if homeDie line = d then
    let s1 := s.homeWrite grid line p
    if (List.range 4).any (fun e => e != d && s.holds? e line) then s1.sendStamped d grid line p else s1
  else (s.copyPut d line p).sendStamped d grid line p

/-- A write in host memory itself, by the host or a unit of the device: no die keeps a copy of the line. -/
def State.hostWrite (s : State) (grid : Option (BitVec 32)) (line : Nat) (p : Put) : State :=
  (List.range 4).foldl (fun s d => if s.holds? d line then s.l2Drop d line else s) (s.homeWrite grid line p)

/-- A `.sys` store of die `d` to CXL-attached memory, once host memory has applied what the die has: performed there
(R339). -/
def State.hostStore (s : State) (d : Nat) (grid : Option (BitVec 32)) (line : Nat) (p : Put) : State :=
  let s1 := s.pocWrite d grid line p
  { (s1.homeWrite grid line p) with msgs := s1.msgs.filter (fun m => !(m.dst == 4 && m.src == d)) }

/-- A write of a unit of the device, applied at the home as a write of the home die. -/
def State.devWrite (s : State) (grid : Option (BitVec 32)) (line : Nat) (p : Put) : State :=
  if homeDie line = 4 then s.hostWrite grid line p else s.pocWrite (homeDie line) grid line p

/-- The put of `bs` from byte `o` of a line; bytes beyond the line's end are dropped. -/
def putOf (o : Nat) (bs : List Byte) : Put :=
  let n := natLE bs
  let len := min bs.length (128 - o)
  { data := BitVec.ofNat 1024 (n <<< (8 * o)), mask := BitVec.ofNat 128 ((2 ^ len - 1) <<< o) }

/-- Bytes written by a unit of the device from `pa` on, line by line; `fuel` bounds the lines. -/
def devBytesGo (grid : Option (BitVec 32)) : Nat → State → Nat → List Byte → State
  | 0, s, _, _ => s
  | fuel + 1, s, pa, bs =>
    if bs.isEmpty then s
    else
      let o := pa % 128
      devBytesGo grid fuel (s.devWrite grid (pa / 128) (putOf o bs)) (pa + (128 - o)) (bs.drop (128 - o))

def State.devBytes (s : State) (grid : Option (BitVec 32)) (pa : Nat) (bs : List Byte) : State :=
  devBytesGo grid (bs.length / 128 + 2) s pa bs

/-- A whole line with its sidecar written by a unit of the device. -/
def State.devLine (s : State) (grid : Option (BitVec 32)) (line : Nat) (data : VReg) (side : EReg) : State :=
  s.devWrite grid line { data := data, mask := BitVec.allOnes 128, side := side, sideMask := 0xFF }

/-- Opens a fill of a line from memory into its home slice, for die `d` (R341); none while one is outstanding. -/
def State.openFill (s : State) (line d : Nat) (cp : Nat := 0) : State :=
  let h := hashDie line
  if (s.die h).fills.any (fun f => f.1 == line) then s
  else s.setDie h (fun x => { x with fills := x.fills ++ [(line, d, cp)] })

/-- Opens a fetch of a line homed elsewhere for die `d` (R300): the home is to have applied what the die has (R302). -/
def State.openFetch (s : State) (line d : Nat) (cp : Nat := 0) : State :=
  if s.fetches.any (fun f => f.die == d && f.line == line) then s
  else { s with fetches := s.fetches ++ [{ die := d, line := line, want := (s.die d).vclk, cp := cp }] }

/-- The line at die `d`'s point of coherence, when every byte of `need` can be read there: data, sidecar, poisoned. -/
def State.pocRead? (s : State) (d line : Nat) (need : BitVec 128) (side : Bool) : Option (VReg × EReg × Bool) :=
  if homeDie line = d then
    if s.l2Holds line need side || s.lost line then some (s.homeRead line) else none
  else match (s.die d).copy? line with
    | some c =>
      if need &&& ~~~c.have_ = 0 && (!side || c.sideHave == 0xFF) then
        if s.poison.contains line then some (0, eInit, true) else some (c.data, c.side, false)
      else if s.lost line then some (0, eInit, true) else none
    | none => if s.lost line then some (0, eInit, true) else none

/-- Fills the home slice of a line that it does not hold whole; a line of CXL-attached memory only from a peer. -/
def State.homeFill (s : State) (line d : Nat) (cp : Nat := 0) : State :=
  if (homeDie line == 4 && !(s.atPeer line)) || s.l2Holds line (BitVec.allOnes 128) true then s else s.openFill line d cp

/-- Sends for the lines of `n` bytes from `pa` that are still at a peer. -/
def State.rangeFill (s : State) (pa n : Nat) : State :=
  (List.range ((pa % 128 + n + 127) / 128)).foldl (fun s i =>
    if s.atPeer (pa / 128 + i) then s.homeFill (pa / 128 + i) 0 else s) s

/-- Sends for a line that die `d`'s point of coherence cannot supply. A fetch fills the home slice first where that
does not hold the line. -/
def State.requestLine (s : State) (d line : Nat) (cp : Nat := 0) : State :=
  let s1 := if homeDie line = d then s else s.openFetch line d cp
  s1.homeFill line d cp

end Sys2Proof.Machine
end

