-- ==== Sys2Proof/Machine/Xlat.lean ====
section
/-! DEFINITION. From a generic address to a place (R327, R366-R375, R379, R383): the scratchpad window, the heap, the
page walk, the TLB, and the pages in motion. -/

namespace Sys2Proof.Machine

/-- Access kinds (ACC of R277). -/
inductive Acc where
  | read | write | atomic | fetch
deriving DecidableEq, Repr

def Acc.code : Acc → Nat
  | .read => 0 | .write => 1 | .atomic => 2 | .fetch => 3

/-- The detail of a denied access (R374, R375). -/
def Acc.denial : Acc → Byte
  | .read => 0x06 | .write => 0x07 | .atomic => 0x07 | .fetch => 0x08

/-- First generic address of the scratchpad window (R327). -/
def windowBase : Nat := 0x01FFFFFFFF800000
def inWindow (g : Nat) : Bool := decide (windowBase ≤ g) && decide (g < 2 ^ 57)

def State.context (s : State) (c : Nat) : Context := (s.ctxs[c]?).getD {}

/-- Bytes of a page whose leaf lies at level `lv` (R370). -/
def pageSize (lv : Nat) : Nat := if lv = 2 then 2 ^ 30 else if lv = 3 then 2 ^ 21 else 2 ^ 16

/-- The index bits of a level: lowest bit and count (R370). -/
def levelBits (lv : Nat) : Nat × Nat :=
  match lv with
  | 0 => (48, 9) | 1 => (39, 9) | 2 => (30, 9) | 3 => (21, 9) | _ => (16, 5)

/-- Fields of a page-table entry (R370). -/
def pteBit (e : Nat) (i : Nat) : Bool := e / 2 ^ i % 2 == 1
def pteKind (e : Nat) : Nat := field e 5 2
def pteAddr (e : Nat) : Nat := field e 8 39 * 256
def ptePeer (e : Nat) : Nat := field e 47 10

/-- A malformed entry: reserved bits, LEAF against its level, a misaligned ADDR (R370, R371). -/
def pteBad (e lv : Nat) : Bool :=
  pteBit e 7 || field e 57 7 != 0 ||
  (if pteBit e 1 then
    decide (lv < 2) || pteKind e == 3 || (pteKind e != 1 && ptePeer e != 0) ||
      (if pteKind e == 2 then false else pteAddr e % pageSize lv != 0)
  else
    lv == 4 || field e 2 5 != 0 || ptePeer e != 0 || pteAddr e % (if lv == 3 then 256 else 4096) != 0)

def xfault (d : Byte) (g : DWord) : TrapInfo := { cause := .translation, detail := d, addr := g }

/-- A leaf that a walk found: the entry, where it lies, its level. -/
structure Leaf where
  pte : Nat
  ea : Nat
  lv : Nat
deriving DecidableEq, Repr

/-- The move in flight whose record lies at an address (R381). -/
def State.move? (s : State) (rec_ : Nat) : Option Move := s.castle.moves.find? (fun m => m.rec_ = rec_)

/-- The model's own mark of a walk that must wait: it reads a table line that is held (R442, R385). No fault of R371 has
this detail; whoever translates waits. -/
def heldWalk (g : DWord) : TrapInfo := xfault 0xFF g
def TrapInfo.held (t : TrapInfo) : Bool := t.cause == .translation && t.detail == 0xFF

/-- The walk from level `lv` with table `t` (R371). -/
def State.walkFrom (s : State) (g : DWord) : Nat → Nat → Nat → Except TrapInfo Leaf
  | 0, _, _ => .error (xfault 0x06 g)
  | fuel + 1, lv, t =>
    let ix := levelBits lv
    let ea := t + 8 * field g.toNat ix.1 ix.2
    if s.lineBusy (ea / 128) then .error (heldWalk g)
    else if s.poisoned (ea / 128) then .error (xfault 0x08 g)
    else
      let e := s.readNat ea 8
      if !pteBit e 0 then .error (xfault (BitVec.ofNat 8 lv) g)
      else if pteBad e lv then .error (xfault 0x06 g)
      else if pteBit e 1 then
        if (pteKind e == 0 || (pteKind e == 1 && ptePeer e == s.fab.fabid.toNat)) && (tierOf (pteAddr e)).isNone then
          .error (xfault 0x09 g)
        else if pteKind e == 2 && (s.move? (pteAddr e)).isNone then .error (xfault 0x06 g)
        else .ok ⟨e, ea, lv⟩
      else s.walkFrom g fuel (lv + 1) (pteAddr e)

def State.walk (s : State) (ctx : Nat) (g : DWord) : Except TrapInfo Leaf :=
  let r := (s.context ctx).ptroot.toNat
  if r = 0 then .error (xfault 0x0A g) else s.walkFrom g 5 0 r

/-- A page with a peer location (R214, R395). -/
def Move.withPeer (m : Move) : Bool :=
  match m.src, m.dst with
  | .mem _, .mem _ => false
  | _, _ => true

/-- A place `n` bytes on. -/
def Loc.plus (n : Nat) : Loc → Loc
  | .mem a => .mem (a + n)
  | .peer d a => .peer d (a + n)
  | .scratch b o => .scratch b (o + n)

/-- The place of a leaf's page: that of its entry, or the key address of a page in motion (R372, R379, R383). -/
def State.leafPage (s : State) (e : Nat) : Loc :=
  if pteKind e == 2 then .mem (((s.move? (pteAddr e)).map (fun m => 128 * m.keyLine)).getD 0)
  else if pteKind e == 1 && ptePeer e != s.fab.fabid.toNat then .peer (ptePeer e) (pteAddr e)
  else .mem (pteAddr e)

/-- The place that a leaf gives to an address. -/
def State.leafPlace (s : State) (e off : Nat) : Loc := (s.leafPage e).plus off

/-- The leaf permits an access. -/
def pteAllows (e : Nat) : Acc → Bool
  | .read => pteBit e 2
  | .write => pteBit e 3
  | .atomic => pteBit e 2 && pteBit e 3
  | .fetch => pteBit e 4

def Context.allows (c : Context) : Acc → Bool
  | .read => c.hrd
  | .write => c.hwr
  | .atomic => c.hrd && c.hwr
  | .fetch => c.hex

/-- The route of R369 ahead of the page tables. -/
inductive Route where
  | fault (t : TrapInfo)
  | window (off : Nat)
  | heap (pa : Nat)
  | tables
deriving DecidableEq, Repr

def State.route (s : State) (ctx : Nat) (g : DWord) (acc : Acc) : Route :=
  let c := s.context ctx
  if 2 ^ 57 ≤ g.toNat then .fault (xfault 0x05 g)
  else if inWindow g.toNat then .window (g.toNat - windowBase)
  else if !c.cvalid then .fault (xfault 0x07 g)
  else if c.hbase.toNat ≤ g.toNat ∧ g.toNat < c.hbase.toNat + c.hlim.toNat then
    if c.allows acc then .heap (g + c.hofs).toNat
    else .fault { cause := .permission, detail := acc.denial, addr := g }
  else .tables

/-- The TLB entry of a core that covers an address. -/
def Core.tlbHit (c : Core) (ctx g : Nat) : Option TlbEntry :=
  c.tlb.find? (fun e => e.ctx = ctx ∧ e.page ≤ g ∧ g < e.page + e.size)

/-- Two entries of one context map a common address. -/
def TlbEntry.meets (x e : TlbEntry) : Bool :=
  x.ctx == e.ctx && decide (x.page < e.page + e.size) && decide (e.page < x.page + x.size)

/-- The TLB with an entry as its most recently used; it replaces every entry for its addresses (R372, R374). -/
def tlbInstall (t : List TlbEntry) (e : TlbEntry) : List TlbEntry := (e :: t.filter (fun x => !(x.meets e))).take 128

def State.leafEntry (s : State) (ctx : Nat) (g : Nat) (l : Leaf) : TlbEntry :=
  let sz := pageSize l.lv
  { ctx := ctx, page := g / sz * sz, size := sz, pte := BitVec.ofNat 64 l.pte, at_ := s.leafPage l.pte, la := l.ea / 128 }

/-- The page-table route: the core's TLB, or a walk on a miss, with one re-walk before a denial (R371-R374). -/
def State.tableXlat (s : State) (core ctx : Nat) (g : DWord) (acc : Acc) : State × Except TrapInfo Loc :=
  let deny : TrapInfo := { cause := .permission, detail := acc.denial, addr := g }
  let fresh (s : State) (rewalk : Bool) : State × Except TrapInfo Loc :=
    match s.walk ctx g with
    | .error t => (s, .error t)
    | .ok l =>
      let s1 := s.setCore core (fun c => { c with tlb := tlbInstall c.tlb (s.leafEntry ctx g.toNat l) })
      if pteAllows l.pte acc then
        ((if rewalk then s1.countPm core 0x07 1 else s1), .ok (s.leafPlace l.pte (g.toNat % pageSize l.lv)))
      else (s1, .error deny)
  match (s.core core).tlbHit ctx g.toNat with
  | some e =>
    let s1 := s.setCore core (fun c => { c with tlb := tlbInstall c.tlb e })
    if pteAllows e.pte.toNat acc then (s1, .ok (e.at_.plus (g.toNat - e.page)))
    else fresh s1 true
  | none =>
    -- A fresh entry that denies is itself re-walked once (R374); the walk gives the same entry.
    fresh s false

/-- The place of a generic address for an access by a core in a context; `blk` is the block whose scratchpad the
window names, with its declared bytes, and `n` the bytes accessed (R192, R327, R369). -/
def State.xlat (s : State) (core ctx : Nat) (blk : BlockId) (sb : Nat) (g : DWord) (n : Nat) (acc : Acc) :
    State × Except TrapInfo Loc :=
  match s.route ctx g acc with
  | .fault t => (s, .error t)
  | .window off =>
    if off + n ≤ sb then (s, .ok (.scratch blk off))
    else (s, .error { cause := .permission, detail := 0x01, addr := g })
  | .heap pa => (s, .ok (.mem pa))
  | .tables => s.tableXlat core ctx g acc

/-- As `xlat`, for a unit of the device that has no TLB and no scratchpad window: the address's leaf at each use. -/
def State.unitXlat (s : State) (ctx : Nat) (g : DWord) (acc : Acc) : Except TrapInfo Loc :=
  match s.route ctx g acc with
  | .fault t => .error t
  | .window _ => .error { cause := .permission, detail := 0x01, addr := g }
  | .heap pa => .ok (.mem pa)
  | .tables =>
    match s.walk ctx g with
    | .error t => .error t
    | .ok l =>
      if pteAllows l.pte acc then .ok (s.leafPlace l.pte (g.toNat % pageSize l.lv))
      else .error { cause := .permission, detail := acc.denial, addr := g }

/-- The place of an address under R369 and R371 alone: a leaf that forbids the read is no fault of these rules. -/
def State.unitPlace (s : State) (ctx : Nat) (g : DWord) : Except TrapInfo Loc :=
  match s.route ctx g .read with
  | .fault t => .error t
  | .window _ => .error { cause := .permission, detail := 0x01, addr := g }
  | .heap pa => .ok (.mem pa)
  | .tables =>
    match s.walk ctx g with
    | .error t => .error t
    | .ok l => .ok (s.leafPlace l.pte (g.toNat % pageSize l.lv))

/-- The context of a grid (R367). -/
def State.ctxOf (s : State) (g : BitVec 32) : Nat :=
  match s.grid? g with
  | some gr => gr.ctx
  | none => 0

end Sys2Proof.Machine
end

