-- ==== Sys2Proof/Machine/Cache.lean ====
section
/-! DEFINITION. The L1 of a core (R296, R297, R301, R315-R317, R324, R330, R331, R333) and what plain loads, stores and
atomics do in it and at the die's point of coherence. -/

namespace Sys2Proof.Machine

/-- The 32 bytes of sector `i` of a line. -/
def sectorMask (i : Nat) : BitVec 128 := (0xFFFFFFFF : BitVec 128) <<< (32 * i)

def sectorsOf (m : BitVec 128) : List Nat := (List.range 4).filter (fun i => m &&& sectorMask i != 0)

/-- Bytes of an L1 line that can be read. -/
def L1Line.readable (l : L1Line) : BitVec 128 :=
  (List.range 4).foldl (fun m i => if bit l.valid i then m ||| sectorMask i else m) l.dirty

def Core.l1? (c : Core) (line : Nat) : Option L1Line := c.l1.find? (fun l => l.line = line)

/-- The banks that are ways of the L1 (R324, R330). -/
def Core.ways (c : Core) : List Nat :=
  (List.range 16).filter (fun b => (c.modes[b]?) == some .cache &&
    (match c.leaving with
     | some l => l.bank != b
     | none => true))

/-- A line in a bank that is leaving CACHE mode. -/
def Core.inLeaving (c : Core) (l : L1Line) : Bool :=
  match c.leaving with
  | some v => v.bank == l.bank
  | none => false

/-- The line gives hits: it does not lie in a leaving bank. -/
def Core.hitLine (c : Core) (line : Nat) : Option L1Line :=
  match c.l1? line with
  | some l => if c.inLeaving l then none else some l
  | none => none

/-- An access of the core to this line must wait for a leaving bank's write-back (R324). -/
def Core.waitsLeaving (c : Core) (line : Nat) : Bool :=
  match c.l1? line with
  | some l => c.inLeaving l && l.dirty != 0
  | none => false

def setL1 (c : Core) (line : Nat) (f : L1Line → L1Line) : Core :=
  { c with l1 := c.l1.map (fun l => if l.line = line then f l else l) }

/-- Makes a line the most recently used. -/
def touchL1 (c : Core) (line : Nat) : Core :=
  { c with l1 := c.l1.filter (fun l => l.line = line) ++ c.l1.filter (fun l => l.line ≠ line) }

/-! ### Write-backs (R315-R317) -/

def L1Line.sect (l : L1Line) (i : Nat) : Option SectInfo := (l.info.find? (fun p => p.1 = i)).map Prod.snd

/-- A release of the warp orders the sector: it has stored to it, read it or received it (R292). -/
def SectInfo.ordered (i : SectInfo) (w : WarpId) : Bool := i.warp == w || i.readers.contains w

/-- Dirty bytes of a sector. -/
def L1Line.dirtyIn (l : L1Line) (i : Nat) : BitVec 128 := l.dirty &&& sectorMask i

def lowestByte (m : BitVec 128) : Nat := ((List.range 128).find? (fun i => bit m i)).getD 0

/-- The fault that the write-back of a sector meets: its page against its current entry (R315, R316). -/
def State.wbFault (s : State) (l : L1Line) (i : Nat) : Option TrapInfo :=
  match l.sect i with
  | none => none
  | some inf =>
    let va := inf.va + BitVec.ofNat 64 (lowestByte (l.dirtyIn i) - 32 * i)
    match s.unitXlat (s.ctxOf inf.warp.grid) va .write with
    | .ok _ => none
    | .error t => some { t with addr := va }

/-- A line after the bytes of one sector have left it. -/
def L1Line.cleaned (l : L1Line) (i : Nat) : L1Line :=
  { l with dirty := l.dirty &&& ~~~sectorMask i, sideDirty := 0, info := l.info.filter (fun p => p.1 ≠ i) }

/-- The grid whose warp stored last to a sector. -/
def L1Line.gridOf (l : L1Line) (i : Nat) : Option (BitVec 32) := (l.sect i).map (fun x => x.warp.grid)

/-- The check of a sector's write-back waits: the walk of its page reads a line that is held (R442). -/
def State.wbWaits (s : State) (l : L1Line) (i : Nat) : Bool := (s.wbFault l i).any TrapInfo.held

/-- Writes dirty sectors of a line back to the die's point of coherence as one write. The sidecar that `STMX` left goes
with every dirty sector whose page allows it: the line leaves as one unit (R83, R287). -/
def State.wbSects (s : State) (c line : Nat) (is : List Nat) : State :=
  match (s.core c).l1? line with
  | none => s
  | some l =>
    let all := if l.sideDirty = 0 then is else (List.range 4).filter (fun i => is.contains i || (s.wbFault l i).isNone)
    let js := all.filter (fun i => l.dirtyIn i != 0)
    match js with
    | [] => s
    | j :: _ =>
      let mask := js.foldl (fun m i => m ||| l.dirtyIn i) 0
      let g := l.gridOf j
      -- A sector of another grid counts as a write of that grid (R394).
      let others := (js.map l.gridOf).foldl (fun a x => if x = g ∨ a.contains x = true then a else a ++ [x]) []
      let s1 := others.foldl (fun s x => s.pocWrite (dieOfCore c) x line ⟨0, 0, 0, 0, 0⟩) s
      (s1.pocWrite (dieOfCore c) g line ⟨l.data, mask, l.side, l.sideDirty, 0⟩).setCore c (fun k =>
        setL1 k line (fun l => js.foldl L1Line.cleaned l))

/-- Marks a sector whose eviction write-back faulted (R317). -/
def State.pinSector (s : State) (c line i : Nat) : State :=
  s.setCore c (fun k => setL1 k line (fun l =>
    { l with info := l.info.map (fun p => if p.1 = i then (p.1, { p.2 with pinned := true }) else p) }))

def L1Line.pinned (l : L1Line) (i : Nat) : Bool := ((l.sect i).map (fun x => x.pinned)).getD false

/-- Eviction write-back of what a line holds dirty: a sector that faults is pinned, and a pinned one stays for a release
or the host (R317). Nothing is written while a Castle lock holds the line (R385). -/
def State.wbLine (s : State) (c line : Nat) : State :=
  match (s.core c).l1? line with
  | none => s
  | some l => if s.locked line then s else
    let is := (List.range 4).filter (fun i => l.dirtyIn i != 0 && !(l.pinned i) && !(s.wbWaits l i))
    let bad := is.filter (fun i => (s.wbFault l i).isSome)
    bad.foldl (fun s i => s.pinSector c line i) (s.wbSects c line (is.filter (fun i => !(bad.contains i))))

/-- Evicts a line: writes it back and drops it, unless a sector stays pinned. It stays while a Castle lock holds it
(R385). -/
def State.evictL1 (s : State) (c line : Nat) : State :=
  let s1 := s.wbLine c line
  if ((s1.core c).l1? line).any (fun l => l.dirty != 0) then s1
  else s1.setCore c (fun k => { k with l1 := k.l1.filter (fun l => l.line ≠ line) })

/-- The order in which lines of a set are chosen to leave: least recently used first, kept lines last (R330). -/
def Core.victims (c : Core) (line : Nat) : List Nat :=
  let same := (c.l1.filter (fun l => l.line % 256 == line % 256 && !c.inLeaving l)).reverse
  ((same.filter (fun l => !l.keep)) ++ (same.filter (fun l => l.keep))).map (fun l => l.line)

/-- A free way for a line, evicting as R330 chooses. -/
def State.l1Room (s : State) (c line : Nat) : State × Option Nat :=
  let free (k : Core) : Option Nat :=
    k.ways.find? (fun b => !(k.l1.any (fun l => l.line % 256 == line % 256 && l.bank == b)))
  match free (s.core c) with
  | some b => (s, some b)
  | none =>
    (s.core c).victims line |>.foldl (fun a v =>
      match a.2 with
      | some _ => a
      | none => let s1 := a.1.evictL1 c v; (s1, free (s1.core c))) (s, none)

/-- Inserts a line with a cache policy: CP 1 least recently used, CP 2 kept (R330). The clean copy that a leaving bank may
still hold gives no hit any more (R324). -/
def insertL1 (c : Core) (l : L1Line) (cp : Nat) : Core :=
  let rest := c.l1.filter (fun x => x.line ≠ l.line)
  { c with l1 := if cp = 1 then rest ++ [l] else { l with keep := cp == 2 } :: rest }

def emptyL1 (line bank : Nat) : L1Line :=
  { line := line, bank := bank, data := 0, valid := 0, dirty := 0, side := 0, sideValid := false, sideDirty := 0,
    keep := false, info := [] }

/-! ### Loads (R331) -/

/-- What a load asks of one line. -/
structure LineReq where
  line : Nat
  need : BitVec 128
  side : Bool
deriving DecidableEq, Repr

/-- A hit: every byte needed is valid or dirty. -/
def L1Line.hit (l : L1Line) (r : LineReq) : Bool :=
  r.need &&& ~~~l.readable == 0 && (!r.side || l.sideValid || l.sideDirty == 0xFF)

/-- The bytes of the sectors a request needs. -/
def wholeSectors (m : BitVec 128) : BitVec 128 := (sectorsOf m).foldl (fun x i => x ||| sectorMask i) 0

/-- The bytes a request takes from the point of coherence: the missing sectors; all of them where the sidecar goes with
them, as data and sidecar are read as one unit (R287). -/
def Core.missing (c : Core) (r : LineReq) (scp : Nat) : BitVec 128 :=
  if scp = 0 then
    match c.hitLine r.line with
    | some l => if l.hit r then 0 else if r.side then wholeSectors r.need else wholeSectors (r.need &&& ~~~l.readable)
    | none => wholeSectors r.need
  else r.need

/-- The request can be served now. -/
def State.lineReady (s : State) (c scp : Nat) (r : LineReq) : Bool :=
  let k := s.core c
  !k.waitsLeaving r.line &&
  ((decide (scp = 0) && (match k.hitLine r.line with
      | some l => l.hit r
      | none => false)) ||
   (s.pocRead? (dieOfCore c) r.line (k.missing r scp) r.side).isSome)

/-- A warp has read a line: a release of it orders the dirty sectors among those it read (R292). -/
def State.noteReader (s : State) (c : Nat) (w : Option WarpId) (r : LineReq) : State :=
  match w with
  | none => s
  | some w => s.setCore c (fun k => setL1 k r.line (fun l =>
      { l with info := l.info.map (fun p =>
          if (sectorsOf r.need).contains p.1 && !p.2.ordered w then
            (p.1, { p.2 with readers := p.2.readers ++ [w] }) else p) }))

/-- A line under the core's own bytes of it: its dirty ones, and at `.blk`, for a read without the sidecar, the valid
ones too. -/
def State.underOwn (s : State) (c scp : Nat) (r : LineReq) (data : VReg) (side : EReg) : VReg × EReg :=
  match (s.core c).hitLine r.line with
  | some l => (merge (byteBits (if scp = 0 && !r.side then l.readable else l.dirty)) data l.data,
      merge (slotBits l.sideDirty) side l.side)
  | none => (data, side)

/-- A load's line, data and sidecar, with the L1 as the load leaves it; `true` when the data came from a poisoned
line. -/
def State.loadLine (s : State) (c scp cp : Nat) (w : Option WarpId) (r : LineReq) : State × VReg × EReg × Bool :=
  let k := s.core c
  let note (s : State) : State := s.noteReader c w r
  match (if scp = 0 then (k.hitLine r.line).filter (fun l => l.hit r) else none) with
  | some l => (note (s.setCore c (fun k => touchL1 k r.line)), l.data, l.side, false)
  | none =>
    match s.pocRead? (dieOfCore c) r.line (k.missing r scp) r.side with
    | none => (s, 0, 0, false)
    | some (data, side, poi) =>
      let own := k.hitLine r.line
      let d := s.underOwn c scp r data side
      if scp ≠ 0 || cp = 3 || k.ways.isEmpty || poi then (note s, d.1, d.2, poi)
      else
        let secs := sectorsOf (k.missing r scp)
        let fill (l : L1Line) : L1Line :=
          let m := secs.foldl (fun x i => x ||| sectorMask i) 0 &&& ~~~(if r.side then l.dirty else l.readable)
          { l with data := merge (byteBits m) l.data data,
                   valid := secs.foldl (fun v i => v ||| ((1 : BitVec 4) <<< i)) l.valid,
                   side := if r.side then merge (slotBits l.sideDirty) side l.side else l.side,
                   sideValid := r.side || (l.sideValid && m == 0) }
        match own with
        | some _ => (note (s.setCore c (fun k => touchL1 (setL1 k r.line fill) r.line)), d.1, d.2, poi)
        | none =>
          let p := s.l1Room c r.line
          match p.2 with
          | some b => (p.1.setCore c (fun k => insertL1 k (fill (emptyL1 r.line b)) cp), d.1, d.2, poi)
          | none => (p.1, d.1, d.2, poi)

/-- An open miss entry of a line: its fill has not landed. -/
def Core.openMiss (k : Core) (line : Nat) : Option MissEntry := k.miss.find? (fun m => m.line == line && m.fill.isNone)

def Core.mapMiss (k : Core) (line : Nat) (f : MissEntry → MissEntry) : Core :=
  { k with miss := k.miss.map (fun m => if m.line = line ∧ m.fill.isNone then f m else m) }

/-- A load that the entry serves is still outstanding. -/
def State.serving (s : State) (m : MissEntry) : Bool :=
  m.serves.any (fun p => match s.win? (.warp p.1) with
    | some wn => wn.ops.any (fun o => o.num == p.2 && !o.done)
    | none => false)

/-- The miss entry of a load's line request (R333): one at most 64 clk old takes it, an older one leaves it to a request
of its own, and without one an entry opens. `true`: a request goes to the L2. -/
def State.missEntry (s : State) (c : Nat) (w : WarpId) (num line : Nat) : State × Bool :=
  let clk := s.clkOf (dieOfCore c)
  match ((s.core c).openMiss line).filter s.serving with
  | some m =>
    if clk ≤ m.clk + 64 then
      ((s.countPm c 0x04 1).setCore c (fun k => k.mapMiss line (fun m => { m with serves := m.serves ++ [(w, num)] })), false)
    else (s, true)
  | none => (s.setCore c (fun k => { k with miss := k.miss.filter (fun m => !(m.line == line && m.fill.isNone)) ++
      [{ line := line, clk := clk, serves := [(w, num)] }] }), true)

/-- A load's request for a line leaves: the counters of R264, the miss entry, the fill or fetch. -/
def State.sendLoad (s : State) (c scp cp : Nat) (w : WarpId) (num : Nat) (r : LineReq) : State :=
  let k := s.core c
  let miss := sectorsOf (k.missing r scp)
  let hits := (sectorsOf r.need).length - miss.length
  if decide (scp = 0) && miss.isEmpty then s.countPm c 0x02 hits
  else
    let s1 := if scp = 0 then (s.countPm c 0x02 hits).countPm c 0x03 miss.length else s
    let p := s1.missEntry c w num r.line
    if !p.2 then p.1
    else if (p.1.pocRead? (dieOfCore c) r.line (k.missing r scp) r.side).isSome then p.1.l2Touch (dieOfCore c) r.line
    else p.1.requestLine (dieOfCore c) r.line cp

/-- The fill that a miss entry holds for an operation. -/
def Core.fillFor (k : Core) (w : WarpId) (num line : Nat) : Option (VReg × EReg × Bool) :=
  (k.miss.find? (fun m => m.line == line && m.fill.isSome && m.serves.contains (w, num))).bind (fun m => m.fill)

/-- An operation needs no miss entry any more. -/
def State.dropServe (s : State) (c : Nat) (w : WarpId) (num : Nat) : State :=
  if (s.core c).miss.any (fun m => m.serves.contains (w, num)) then
    s.setCore c (fun k => { k with miss := (k.miss.map (fun m =>
      { m with serves := m.serves.filter (fun p => p ≠ (w, num)) })).filter (fun m => !m.serves.isEmpty) })
  else s

/-- The fill of a line's open entry lands: it closes, and keeps the line for those of the loads it serves that `keep`
names (R333). -/
def State.fillEntry (s : State) (c line : Nat) (keep : WarpId × Nat → Bool) (f : VReg × EReg × Bool) : State :=
  s.setCore c (fun k => { k with miss :=
    ((k.mapMiss line (fun m => { m with fill := some f, serves := m.serves.filter keep })).miss).filter (fun m =>
      m.fill.isNone || !m.serves.isEmpty) })

/-! ### Stores (R331) -/

/-- The record of a sector after a store of warp `w`: the bytes of earlier stores stay ordered as they were. -/
def SectInfo.restore (old : Option SectInfo) (pc : DWord) (w : WarpId) (va : DWord) : SectInfo :=
  match old with
  | none => { pc := pc, warp := w, va := va }
  | some o =>
    { pc := pc, warp := w, va := va, passed := o.passed,
      readers := if o.warp = w ∨ o.readers.contains o.warp = true then o.readers else o.readers ++ [o.warp] }

/-- The sectors of a store's bytes take its record (R315). -/
def stampSects (l : L1Line) (mask : BitVec 128) (pc : DWord) (w : WarpId) (va : DWord) : L1Line :=
  { l with info := l.info.filter (fun p => !(sectorsOf mask).contains p.1) ++
      (sectorsOf mask).map (fun i => (i, SectInfo.restore (l.sect i) pc w (va + BitVec.ofNat 64 (32 * i)))) }

/-- A warp's store of one line: into the L1 at `.blk`, through it otherwise. `va` is the generic address of the
line's first byte. -/
def State.storeLine (s : State) (c scp cp : Nat) (pc : DWord) (w : WarpId) (va : DWord) (line : Nat) (p : Put) : State :=
  let k := s.core c
  let dirtyIn (l : L1Line) : L1Line :=
    stampSects { l with data := merge (byteBits p.mask) l.data p.data, dirty := l.dirty ||| p.mask,
                        side := merge (slotBits p.sideMask) l.side p.side, sideDirty := l.sideDirty ||| p.sideMask }
      p.mask pc w va
  let through (s : State) : State :=
    let s1 := s.setCore c (fun k => setL1 k line (fun l =>
      let m := p.mask &&& l.readable
      let sm := p.sideMask &&& (if l.sideValid then 0xFF else l.sideDirty)
      { l with data := merge (byteBits m) l.data p.data, side := merge (slotBits sm) l.side p.side }))
    let p := { p with cp := cp }
    if scp = 4 && homeDie line = 4 then s1.hostStore (dieOfCore c) (some w.grid) line p
    else s1.pocWrite (dieOfCore c) (some w.grid) line p
  if scp ≠ 0 || k.ways.isEmpty then through s
  else match k.hitLine line with
    | some _ => s.setCore c (fun k => touchL1 (setL1 k line dirtyIn) line)
    | none =>
      if cp = 3 then through s
      else
        let q := s.l1Room c line
        match q.2 with
        | some b => q.1.setCore c (fun k => insertL1 k (dirtyIn (emptyL1 line b)) cp)
        | none => through q.1

/-- An atomic's line: dirty bytes written back first, then the line leaves the core's L1 (R331). -/
def State.atomicPrep (s : State) (c line : Nat) : State := s.evictL1 c line

/-! ### Acquire and release (R297, R301, R315) -/

/-- The clean lines of a core's L1 are invalidated; dirty bytes stay. -/
def cleanL1 (c : Core) : Core :=
  { c with l1 := (c.l1.filter (fun l => l.dirty ≠ 0)).map (fun l => { l with valid := 0, sideValid := false }) }

/-- Self-invalidation: a die's copies keep only bytes of its own that are on their way; a line on its way to the die is
read again at its home (R301). -/
def State.dropCopies (s : State) (d : Nat) : State :=
  let own := ((s.die d).copies.filterMap (fun c =>
    let m := s.unapplied d c.line
    if m.1 = 0 ∧ m.2 = 0 then none else some { c with have_ := c.have_ &&& m.1, sideHave := c.sideHave &&& m.2 }))
  let s1 := s.setDie d (fun x => { x with
    copies := own, l2 := x.l2.filter (fun l => homeDie l.line == d || own.any (fun c => c.line == l.line)) })
  { s1 with fetches := s1.fetches.map (fun f => if f.die = d then f.again (s1.die d).vclk else f) }

/-- What an acquire does before the accesses it orders (R297, R301). -/
def State.acquire (s : State) (c scp : Nat) : State :=
  if scp = 0 then s
  else
    let s1 := s.setCore c cleanL1
    if scp ≤ 2 then s1 else s1.dropCopies (dieOfCore c)

/-- Changes the records of a core's dirty sectors. -/
def Core.mapSects (k : Core) (f : SectInfo → SectInfo) : Core :=
  { k with l1 := k.l1.map (fun l => { l with info := l.info.map (fun p => (p.1, f p.2)) }) }

/-- A release at `.blk` passes what it orders on to its block (R292); nothing is written back (R315). -/
def State.passOn (s : State) (c : Nat) (w : WarpId) : State :=
  s.setCore c (fun k => k.mapSects (fun i =>
    if i.ordered w && !i.passed.contains w.blockId then { i with passed := i.passed ++ [w.blockId] } else i))

/-- An acquire of a warp receives what releases of its block have passed on (R292, DEDUCED, log 71). -/
def State.receive (s : State) (c : Nat) (w : WarpId) : State :=
  s.setCore c (fun k => k.mapSects (fun i =>
    if i.passed.contains w.blockId && !i.ordered w then { i with readers := i.readers ++ [w] } else i))

/-- An acquire of a warp. -/
def State.warpAcquire (s : State) (c : Nat) (w : WarpId) (scp : Nat) : State := (s.receive c w).acquire c scp

/-- The dirty sectors of a core that a release of a warp orders: its own stores and those it has read (R315). -/
def State.releaseSects (s : State) (c : Nat) (w : WarpId) : List (L1Line × Nat) :=
  let ls := sortNats ((s.core c).l1.map (fun l => l.line))
  ls.flatMap (fun n => match (s.core c).l1? n with
    | none => []
    | some l => ((List.range 4).filter (fun i => l.dirtyIn i != 0 && (match l.sect i with
        | some inf => inf.ordered w
        | none => false))).map (fun i => (l, i)))

/-- The first fault that a release's write-back meets, in ascending address: line, sector, store's PC, fault. -/
def State.releaseFault (s : State) (c : Nat) (w : WarpId) : Option (Nat × Nat × DWord × TrapInfo) :=
  (s.releaseSects c w).findSome? (fun p => match s.wbFault p.1 p.2 with
    | some t => some (p.1.line, p.2, ((p.1.sect p.2).map (fun i => i.pc)).getD 0, t)
    | none => none)

/-- Writes back every sector that a release orders and whose page allows it, line by line; the others stay dirty and
pinned. -/
def State.releaseWb (s : State) (c : Nat) (w : WarpId) : State :=
  let ps := (s.releaseSects c w).map (fun p => (p.1.line, p.2, (s.wbFault p.1 p.2).isSome))
  let s1 := ps.foldl (fun s p => if p.2.2 then s.pinSector c p.1 p.2.1 else s) s
  let lines := ps.foldl (fun a p => if a.contains p.1 then a else a ++ [p.1]) []
  lines.foldl (fun s n => s.wbSects c n ((ps.filter (fun p => p.1 == n && !p.2.2)).map (fun p => p.2.1))) s1

/-- A release waits for a Castle lock on a line that it would write back (R385), or for the walk of its page (R442). -/
def State.releaseLocked (s : State) (c : Nat) (w : WarpId) : Bool :=
  (s.releaseSects c w).any (fun p => s.locked p.1.line || s.wbWaits p.1 p.2)

/-- Discards the dirty bytes of a sector, which is not valid any more (R317). -/
def State.dropSector (s : State) (c line i : Nat) : State :=
  s.setCore c (fun k => setL1 k line (fun l =>
    let l1 := l.cleaned i
    { l1 with valid := l1.valid &&& ~~~((1 : BitVec 4) <<< i), sideDirty := if l1.dirty = 0 then 0 else l.sideDirty,
              sideValid := l.sideValid && l.sideDirty == 0 }))

end Sys2Proof.Machine
end

