-- ==== Sys2Proof/Machine/Peer.lean ====
section
/-! DEFINITION. Requests to UALink peers as they leave and end (R401-R403, R409, R413, R414), and what a read of a
poisoned line and a request that ends in error do to a grid (R391, R396, R403). -/

namespace Sys2Proof.Machine

/-! ### Grids -/

/-- Every warp and stream of a grid stops at once (R363, R396). -/
def State.stopGrid (s : State) (g : BitVec 32) : State :=
  { s with blocks := s.blocks.map (fun b => if b.id.grid = g then
      { b with warps := b.warps.map (fun x => if x.terminated || x.freed then x else
                 { x with stopped := true, pend := [], wait := none, susp := none, redd := [], spills := [] }),
               seq := b.seq.map (fun q => { q with stopped := true, wait := none }) } else b),
           staged := s.staged.filter (fun p => p.grid != g) }

/-- POIS of the grid's completion record. -/
def State.setPois (s : State) (g : BitVec 32) : State := s.setGrid g (fun x => { x with pois := true })

/-- A read of `n` poisoned lines without the trap: POIS and POISRD (R391). -/
def State.notePoison (s : State) (g : BitVec 32) (n : Nat) : State :=
  if n = 0 then s
  else
    let s1 := s.setPois g
    { s1 with fq := { s1.fq with poisrd := BitVec.ofNat 32 (min (s1.fq.poisrd.toNat + n) 0xFFFFFFFF) } }

/-- A read of a poisoned line starts recovery of the grid (R396). -/
def State.recovers (s : State) (g : BitVec 32) : Bool :=
  match s.grid? g with
  | some gr =>
    let q := s.qctx (gridQueue g)
    Rec.rbk gr.record && q.rbst == 1 && !q.reln
  | none => false

def State.startRecovery (s : State) (g : BitVec 32) : State :=
  (s.stopGrid g).setGrid g (fun x => { x with recover := true })

/-! ### Keys (R413, R414) -/

/-- One counter value used by a sender: the slot after it, and whether the flit or segment was sent. A holder without a
key is not encrypted. -/
def KeySlot.use (k : KeySlot) (now : Nat) : KeySlot × Bool :=
  match k.next with
  | some n => ({ k with cur := some n, prev := k.cur, next := none, sel := !k.sel, ctr := 1, kx := none, lapsed := false }, true)
  | none =>
    if k.cur.isNone then (k, true)
    else if k.ctr < 2 ^ 32 - 2 then ({ k with ctr := k.ctr + 1 }, true)
    else if k.ctr = 2 ^ 32 - 2 then ({ k with ctr := 2 ^ 32 - 1, kx := some now }, true)
    else (k, false)

/-- The slot has just entered KEY_EXHAUSTED. -/
def KeySlot.exhausts (k k' : KeySlot) : Bool := k.kx.isNone && k'.kx.isSome

/-! ### Requests (R401, R402) -/

/-- Station of a request for a line of a peer. -/
def State.stationOf (s : State) (line dev : Nat) : Nat :=
  let k := (line % 16) ^^^ (dev % 16)
  field (if k < 8 then s.fab.stmap0 else s.fab.stmap1).toNat (4 * (k % 8)) 4

def State.setFab (s : State) (f : Fabric → Fabric) : State := { s with fab := f s.fab }

/-- A saturating counter after one more event. -/
def satInc (x : Word) : Word := if x = 0xFFFFFFFF then x else x + 1

/-- The fabric interrupt of R414, when a slot has just been exhausted. -/
def State.kxIrq (s : State) (k k' : KeySlot) : State := if k.exhausts k' then s.irq 96 else s

/-- An error answer (R403). -/
def peerError : PeerStatus × VReg × EReg := (.error, 0, eInit)

/-- The device-defined extension of a request of a die (R407). -/
def State.extOf (s : State) (die : Nat) : BitVec 20 :=
  BitVec.ofNat 20 (((s.fab.inc[die]?).getD 0).toNat + 65536 * (die % 4))

/-- The key of a fence on the lines of a peer that R335 homes on one die (R409). -/
def fenceKey (dev line : Nat) : Option Nat := if homed line then some (4 * dev + hashDie line) else none

/-- The line that a peer request names. -/
def peerLine : PeerOp → Nat
  | .read l _ _ | .write l _ _ _ _ _ | .writeLong l _ _ _ _ _ | .poison l => l
  | .readLong h _ => h / 2
  | .atomic a _ _ _ _ => a / 128
  | _ => 0

/-- The fence that a request for memory falls under (R409). -/
def opFence (dev : Nat) (op : PeerOp) : Option Nat :=
  match op with
  | .read .. | .readLong .. | .write .. | .writeLong .. | .poison .. | .atomic .. => fenceKey dev (peerLine op)
  | _ => none
def PeerOut.fence (o : PeerOut) : Option Nat := opFence o.dev o.op

/-- A request leaves, is held by its station's exhausted key, or ends at once with error: fenced (R409), or after KTO
(R414). Its station is the one that the map names as it leaves (R401); `put` gives it its place among the requests. -/
def State.sendWith (put : State → PeerOut → State) (s : State) (o : PeerOut) (line : Nat) : State :=
  let o := { o with station := s.stationOf line o.dev, ext := s.extOf o.die, heldK := false }
  if s.fab.fences.any (fun p => some p.1 == o.fence) then put s { o with answer := some peerError }
  else
    let k := (s.fab.stations[o.station]?).getD {}
    if k.lapsed && k.next.isNone then
      put (s.setFab (fun f => { f with kxerr := satInc f.kxerr })) { o with answer := some peerError }
    else
      let u := k.use s.now
      let s1 := s.setFab (fun f => { f with stations := f.stations.set o.station u.1 })
      (put s1 { o with left := if u.2 then some s.now else none, heldK := !u.2 }).kxIrq k u.1

def State.outAdd (s : State) (o : PeerOut) : State := s.setFab (fun f => { f with out := f.out ++ [o] })
def State.setOut (s : State) (id : Nat) (f : PeerOut → PeerOut) : State :=
  s.setFab (fun x => { x with out := x.out.map (fun o => if o.id = id then f o else o) })

/-- A new request leaves. -/
def State.sendOut (s : State) (o : PeerOut) (line : Nat) : State := s.sendWith State.outAdd o line

/-- The Castle engine, and fills of the motion homes of its moves. -/
def PeerOwner.isCastle : PeerOwner → Bool
  | .castle _ | .fill _ => true
  | _ => false

/-- A request for memory waits at a Castle lock on its line. -/
def State.peerHeld (s : State) (owner : PeerOwner) (dev : Nat) (op : PeerOp) : Bool :=
  match op with
  | .read .. | .write .. | .poison .. | .atomic .. => !owner.isCastle && s.peerLocked dev (peerLine op)
  | _ => false

/-- A request of an agent, as it is made. -/
def State.newOut (s : State) (owner : PeerOwner) (die dev line : Nat) (op : PeerOp) : PeerOut :=
  { id := s.fab.nextReq, dev := dev, station := s.stationOf line dev, die := die, owner := owner, op := op,
    line := line }

def State.countReq (s : State) : State := s.setFab (fun f => { f with nextReq := f.nextReq + 1 })

/-- A request of an agent to a peer; none leaves while a Castle lock holds its line. -/
def State.peerSend (s : State) (owner : PeerOwner) (die dev line : Nat) (op : PeerOp) : State :=
  if s.peerHeld owner dev op then s
  else s.countReq.sendOut (s.newOut owner die dev line op) line

/-- A request of the Rook service or of a plan, which waits in the device while a Castle lock holds its line (R385). -/
def State.peerPost (s : State) (owner : PeerOwner) (die dev line : Nat) (op : PeerOp) : State :=
  if s.peerHeld owner dev op then s.countReq.outAdd (s.newOut owner die dev line op)
  else s.peerSend owner die dev line op

/-- A request that has not left leaves, in its place among the others. -/
def State.resendOut (s : State) (o : PeerOut) : State :=
  s.sendWith (fun s x => s.setOut x.id (fun _ => x)) o o.line

/-- The requests that waited at a Castle lock leave. -/
def State.sendUnlocked (s : State) : State :=
  (s.fab.out.filter (fun o => o.left.isNone && o.answer.isNone && !o.heldK && o.window.isNone && o.drops == 0 &&
    !(s.peerHeld o.owner o.dev o.op))).foldl State.resendOut s

def PeerOut.heldAt (st : Nat) (o : PeerOut) : Bool := o.station == st && o.heldK && o.answer.isNone

/-- The requests that a station holds leave, in order; those that the map gives another station go there. -/
def State.releaseHeld (s : State) (st : Nat) : State := (s.fab.out.filter (PeerOut.heldAt st)).foldl State.resendOut s

/-- The map is written: every held request is held by, or leaves through, the station it now names (R401, R414). -/
def State.remapHeld (s : State) : State := (s.fab.out.filter (fun o => o.heldK && o.answer.isNone)).foldl State.resendOut s

/-- An answer leaves through its station, whose key it uses as any flit does (R413); an exhausted station holds it. -/
def State.reply (s : State) (r : PeerReply) : State :=
  let k := (s.fab.stations[r.station]?).getD {}
  let u := k.use s.now
  (s.setFab (fun f => { f with
    stations := f.stations.set r.station u.1,
    replies := if u.2 then f.replies ++ [r] else f.replies,
    heldReplies := if u.2 then f.heldReplies else f.heldReplies ++ [r] })).kxIrq k u.1

/-- The answers that a station holds leave. -/
def State.releaseReplies (s : State) (st : Nat) : State :=
  (s.fab.heldReplies.filter (fun r => r.station == st)).foldl State.reply
    (s.setFab (fun f => { f with heldReplies := f.heldReplies.filter (fun r => r.station != st) }))

/-- The requests of an owner. -/
def State.outOf (s : State) (w : PeerOwner) : List PeerOut := s.fab.out.filter (fun o => o.owner == w)

/-- An owner has taken the answers of its requests. -/
def State.dropOut (s : State) (w : PeerOwner) : State :=
  s.setFab (fun f => { f with out := f.out.filter (fun o => o.owner != w) })

def PeerOut.failed (o : PeerOut) : Bool :=
  match o.answer with
  | some (.ok, _, _) => false
  | _ => true

end Sys2Proof.Machine
end

