-- ==== Sys2Proof/Machine/Ops.lean ====
section
/-! DEFINITION. The operations that every instruction shares: scratchpads, the fault queue, taking a trap (R269, R270,
R275) and a stream trap (R233), suspension (R276), and the issue of a word: the checks of R90, the waits, and what
issue leaves (R27-R33). -/

namespace Sys2Proof.Machine

/-! ### Scratchpads (R325, R326) -/

def scratchInit : Byte := 0x00

/-- Where line `n` of a scratchpad lies: the bank of its grant slot, and the row there. A block's table keeps row after
row, the granted banks side by side, so that line `n` stands at place `n`. -/
def Block.bankRow (b : Block) (n : Nat) : Option Nat × Nat := (b.banks[n % b.banks.length]?, n / b.banks.length)
/-- The line at a row of a grant slot. -/
def Block.lineAt (b : Block) (slot row : Nat) : Nat := row * b.banks.length + slot

/-- One byte of a block's scratchpad. -/
def Block.sbyte (b : Block) (o : Nat) : Byte := tget scratchInit b.scratch o
def Block.sline (b : Block) (n : Nat) : VReg := ofBytes128 (fun i => b.sbyte (128 * n + i))
def Block.sside (b : Block) (n : Nat) : EReg := ofSlots (fun j => tget sideInit b.scratchSide (8 * n + j))
/-- `n` scratchpad bytes from `o`, little-endian. -/
def Block.snat (b : Block) (o n : Nat) : Nat := natLE ((List.range n).map (fun i => b.sbyte (o + i)))

/-- Scratchpad bytes from `o` on have been written again: no agent reads them as an engine found them (R257). -/
def Block.rewritten (b : Block) (o n : Nat) : Block :=
  if b.unseen.isEmpty then b
  else { b with unseen := b.unseen.map (fun u => { u with mask := u.mask &&& ~~~(BitVec.ofNat 128
      (packNat 1 (fun j => b2n (decide (o ≤ 128 * u.line + j) && decide (128 * u.line + j < o + n))) 128)) }) }

/-- Scratchpad bytes written from `o` on. -/
def Block.sput (b : Block) (o : Nat) (bs : List Byte) : Block :=
  { b.rewritten o bs.length with
    scratch := (bs.foldl (fun (a : List Host.Cell × Nat) x => (tset scratchInit a.2 x a.1, a.2 + 1)) (b.scratch, o)).1 }

/-- A scratchpad line's bytes, as a put leaves them. -/
def Block.putRaw (b : Block) (n : Nat) (p : Put) : Block :=
  { b with scratch := putLine b.scratch n p.data p.mask, scratchSide := putSide b.scratchSide n p.side p.sideMask }

/-- A scratchpad line's bytes written; they are written again in every line that an engine found otherwise. -/
def Block.sputLine (b : Block) (n : Nat) (p : Put) : Block :=
  let k := b.putRaw n p
  if k.unseen.isEmpty then k
  else { k with unseen := k.unseen.map (fun u => if u.line = n then
      { u with mask := u.mask &&& ~~~p.mask, sideMask := u.sideMask &&& ~~~p.sideMask } else u) }

/-- The scratchpad as the stream reads it at counter `c` of free values: each line that an engine has written and no warp
has made visible to it may still read as it was (R257). -/
def Block.seqView (b : Block) (c : Nat) : Block :=
  ((b.unseen.zip (List.range b.unseen.length)).reverse.filter (fun u => Config.freeBool c (4096 + u.2))).foldl
    (fun k u => k.putRaw u.1.line { data := u.1.data, mask := u.1.mask, side := u.1.side, sideMask := u.1.sideMask }) b

/-! ### A grid's first instruction, and the fault queue (R277) -/

/-- `TSTART` of a grid: device time at the issue of its first instruction (R356). -/
def State.started (s : State) (g : BitVec 32) : State :=
  s.setGrid g (fun x => if x.tstart.isNone then { x with tstart := some s.gtime } else x)

def State.report (s : State) (r : FaultRec) : State := { s with fq := { s.fq with pending := s.fq.pending ++ [r] } }

/-- A record that names a warp. -/
def warpRec (kind : Byte) (b : Block) (w : WarpId) (t : TrapInfo) (pc : DWord) (acc : Nat) (wt : Waiter) : FaultRec :=
  { kind := kind, cause := t.cause.code, detail := t.detail, grid := w.grid, block := w.block, warp := w.warp,
    core := b.core, engine := 0, pc := pc, addr := t.addr, acc := acc, waiter := wt }

/-- A warp that stops without entering a handler (R275): kind 5, or 6 from its handler. Its earlier results are written, as
at any stop (R43). -/
def State.stopWarp (s : State) (w : WarpId) (t : TrapInfo) (pc : DWord) : State :=
  match s.warp? w with
  | none => s
  | some (b, x) =>
    (s.report (warpRec (if x.inTrap then 6 else 5) b w t pc 0 .nobody)).setWarp w (fun x =>
      { x.flush with stopped := true, pend := [], wait := none })

/-! ### Taking a trap (R269, R270) -/

/-- Where a warp's trap frame lies (R269). -/
def frameAddr (r : VReg) (w : WarpId) : DWord :=
  Rec.tsa r + BitVec.ofNat 64 (512 * (w.block * Rec.nwarps r + w.warp))

/-- What is written from 0x080 of the frame on for FLAG (R270). -/
structure Diag where
  dmask : Word := 0
  dseq : Bool := false
  darr : Nat := 0
  dexp : Nat := 0
  dbytes : Nat := 0
  dpc : List DWord := []
  dspc : DWord := 0
deriving DecidableEq, Repr

def padTo (n : Nat) (bs : List Byte) : List Byte := bs ++ List.replicate (n - bs.length) 0

/-- The bytes of a frame that a trap writes (R270): its first line, and for FLAG all 512. -/
def frameBytes (tcause : Word) (done : Bool) (tpc taddr : DWord) (nest : BitVec 128) (live : Mask) (fpc : DWord)
    (diag : Option Diag) : List Byte :=
  let head := bytesLE 4 tcause.toNat ++ bytesLE 4 (b2n done + 2 * b2n diag.isSome) ++ bytesLE 8 tpc.toNat ++
    bytesLE 8 taddr.toNat ++ bytesLE 16 nest.toNat ++ bytesLE 4 live.toNat ++ bytesLE 4 0 ++ bytesLE 8 fpc.toNat
  match diag with
  | none => padTo 128 head
  | some d =>
    padTo 512 (padTo 0x80 head ++ bytesLE 4 d.dmask.toNat ++ bytesLE 4 (b2n d.dseq) ++
      bytesLE 4 (d.darr % 65536 + d.dexp % 65536 * 65536) ++ bytesLE 4 d.dbytes ++
      padTo 256 (d.dpc.flatMap (fun p => bytesLE 8 p.toNat)) ++ bytesLE 8 d.dspc.toNat)

/-- The places of the four lines of a frame, or the first fault they meet: the frame is 512 bytes, whatever part of it the
cause gives a value (R269, R270). DEDUCED (log 92). A frame in the scratchpad window that lies over the bytes of barrier
objects overwrites them (DESIGN CHOICE, log 101: R228 refuses stores, atomics and `CMPST` there, and no rule names a frame). -/
def State.frameLocs (s : State) (b : Block) (g : Grid) (a : DWord) : State × Except TrapInfo (List (DWord × Option Loc)) :=
  (List.range 4).foldl (fun (p : State × Except TrapInfo (List (DWord × Option Loc))) i =>
    match p.2 with
    | .error t => (p.1, .error t)
    | .ok ls =>
      let va := a + BitVec.ofNat 64 (128 * i)
      match p.1.xlat b.core g.ctx b.id (Rec.scrb g.record) va 128 .write with
      | (s, .ok l) => (s, .ok (ls ++ [(va, some l)]))
      | (s, .error t) => (s, if t.held then .ok (ls ++ [(va, none)]) else .error t)) (s, .ok [])

/-- A warp's own line can be written in this step: it lies in a scratchpad, or in memory outside every Castle lock (R385)
and outside what a leaving bank still holds (R324). -/
def State.lineNow (s : State) (b : Block) : Option Loc → Bool
  | some (.mem pa) => !(s.locked (pa / 128)) && !((s.core b.core).waitsLeaving (pa / 128))
  | some (.scratch _ _) => true
  | some (.peer _ _) | none => false

/-- Writes a warp's own line: through to the point of coherence, or into a scratchpad. -/
def State.warpLine (s : State) (b : Block) (w : WarpId) (pc va : DWord) (l : Option Loc) (p : Put) : State :=
  match l with
  | some (.mem pa) => s.storeLine b.core 2 0 pc w va (pa / 128) p
  | some (.scratch blk o) => s.setBlock blk (fun x => x.sputLine (o / 128) p)
  | some (.peer _ _) | none => s

/-- The put of a line of a trap frame. -/
def framePut (x : VReg) : Put := { data := x, mask := BitVec.allOnes 128 }

/-- Writes the lines of a frame that can be written in this step. -/
def State.frameWrite (s : State) (b : Block) (w : WarpId) (pc : DWord) (ls : List (DWord × Option Loc × VReg)) : State :=
  (ls.filter (fun p => s.lineNow b p.2.1)).foldl (fun s p => s.warpLine b w pc p.1 p.2.1 (framePut p.2.2)) s

/-- The lines of a frame with their bytes. -/
def frameLines (fr : List Byte) (ls : List (DWord × Option Loc)) : List (DWord × Option Loc × VReg) :=
  ((ls.take (fr.length / 128)).zip (List.range 4)).map (fun p =>
    (p.1.1, p.1.2, BitVec.ofNat 1024 (natLE ((fr.drop (128 * p.2)).take 128))))

/-- `%trapcause` of a trap (R24). -/
def causeWord (t : TrapInfo) : Word := BitVec.ofNat 32 (t.cause.code.toNat + 256 * t.detail.toNat)

/-- A warp takes a trap at `tpc` (R269): the window completes and empties, the frame is written, the trap registers take
its values, every lane that has not retired becomes active, and the warp continues in its handler. A warp without a
handler or already in it stops instead (R275), and so does one whose frame cannot be written. A frame line that must wait
(at a peer, R402; under a Castle lock, R385; in a bank that leaves, R324; on a walk that waits, R442) is written before the handler's first word is
fetched. A POISON of a load that a handler issued, which returns only after `RTE`, is an ordinary trap (DESIGN CHOICE, log
102: R274 calls it a double trap and R275 ties that to INTRAP = 1). -/
def State.takeTrap (s : State) (w : WarpId) (t : TrapInfo) (tpc : DWord) (done : Bool := false) (fpc : DWord := 0)
    (diag : Option Diag := none) : State :=
  match s.warp? w, s.grid? w.grid with
  | some (b, x), some g =>
    if !Rec.trapv g.record || x.inTrap then s.stopWarp w t tpc
    else
      match s.frameLocs b g (frameAddr g.record w) with
      | (s1, .error _) => s1.stopWarp w t tpc
      | (s1, .ok all) =>
        let fr := frameBytes (causeWord t) done tpc t.addr x.nest x.live fpc diag
        let ls := frameLines fr all
        let away := ls.filter (fun p => !(s1.lineNow b p.2.1))
        (s1.frameWrite b w tpc ls).setWarp w (fun x =>
          let y := x.flush
          { y with
            frame := away, ibuf := if away.isEmpty then y.ibuf else none,
            pc := Rec.handler g.record, inTrap := true, trapcause := causeWord t, trappc := tpc, trapaddr := t.addr,
            nest := ofNest (fun l => if bit y.retired l then nestOf y.nest l else 0),
            wait := none, pend := y.pend.filter (fun p => p.info.cause == .poison) })
  | _, _ => s

/-- A warp is suspended on a fault and its record goes to the queue (R276, R316). -/
def State.suspend (s : State) (w : WarpId) (x : Susp) : State :=
  match s.warp? w with
  | none => s
  | some (b, _) =>
    (s.report { kind := 1, cause := x.cause.code, detail := x.detail, grid := w.grid, block := w.block, warp := w.warp,
                core := b.core, engine := 0, pc := x.recPc, addr := x.addr, acc := x.acc, waiter := .warp w }).setWarp w
      (fun y => { y with susp := some x })

/-! ### Stream traps (R233) -/

/-- The sequencer stops at a trap and a kind-2 record goes to the queue. -/
def State.streamTrap (s : State) (b : BlockId) (t : TrapInfo) (pc : DWord) (acc : Nat := 0) : State :=
  match s.seq? b with
  | none => s
  | some (blk, _) =>
    (s.report { kind := 2, cause := t.cause.code, detail := t.detail, grid := b.grid, block := b.block, warp := 0,
                core := blk.core, engine := 1, pc := pc, addr := t.addr, acc := acc, waiter := .nobody }).setSeq b
      (fun q => { q with stopped := true, wait := none })

/-! ### The issue of a warp's word -/

/-- What an instruction sees when it issues. -/
structure Ctx where
  s : State
  id : WarpId
  blk : Block
  w : Warp
  g : Grid
  clk : Nat
deriving DecidableEq, Repr

def Ctx.pc (c : Ctx) : DWord := c.w.pc
def Ctx.die (c : Ctx) : Nat := dieOfCore c.blk.core
def Ctx.sb (c : Ctx) : Nat := Rec.scrb c.g.record
def Ctx.chk (c : Ctx) : Bool := bit c.w.mode 0

/-- A register read at issue (R29, R33). -/
def Ctx.reg (c : Ctx) (r : RegId) : BitVec 1024 := c.w.win.read c.w.base c.s.freeCtr r
def Ctx.sreg (c : Ctx) (n : Nat) : Word := (c.reg (.s n)).setWidth 32
def Ctx.sreg64 (c : Ctx) (n : Nat) : DWord := join64 (c.sreg (n + 1)) (c.sreg n)
def Ctx.vreg (c : Ctx) (n : Nat) : VReg := c.reg (.v n)
def Ctx.ereg (c : Ctx) (n : Nat) : EReg := (c.reg (.e n)).setWidth 64
def Ctx.kreg (c : Ctx) (n : Nat) : Mask := (c.reg (.k n)).setWidth 32
/-- A word of the constant set (R72). -/
def Ctx.konst (c : Ctx) (n : Nat) : Word := tget 0 c.g.konst n

/-- `guard(l)` (R68). -/
def Ctx.guard (c : Ctx) (g : Guard) : Mask :=
  if g.idx = 7 then BitVec.allOnes 32
  else if g.neg then ~~~(c.kreg g.idx.toNat) else c.kreg g.idx.toNat

def Ctx.active (c : Ctx) : Mask := c.w.active
def Ctx.live (c : Ctx) : Mask := c.w.live
/-- `regwrite(l)` and `memeffect(l)` (R14). -/
def Ctx.regwrite (c : Ctx) (g : Guard) : Mask := c.active &&& c.guard g
def Ctx.memeffect (c : Ctx) (g : Guard) : Mask := c.regwrite g &&& ~~~c.w.helper
def Ctx.anyActive (c : Ctx) : Bool := c.active != 0
def Ctx.anylive (c : Ctx) : Bool := c.live != 0

/-- What an instruction leaves when it issues: the state with its effects, its fixed-latency results, the PC when it is
not the next slot, and the clk that a serialised instruction holds the next one to (R146, R170). -/
structure Done where
  s : State
  out : List Result := []
  pc : Option DWord := none
  notBefore : Nat := 0
deriving DecidableEq, Repr

/-- The outcome of an instruction's body: not issued yet, leaving nothing or a request that it waits for; a trap taken at
it, `done` where the instruction is complete; a suspension at it; a wait abandoned for FLAG (R227); issued. -/
inductive Body where
  | pass
  | hold (s : State)
  | trap (s : State) (t : TrapInfo) (done : Bool)
  | susp (s : State) (x : Susp)
  | flag (s : State) (t : TrapInfo) (diag : Diag)
  | go (d : Done)
deriving DecidableEq, Repr

/-- A trap before the instruction has changed any state. -/
def Ctx.trap (c : Ctx) (cause : Cause) (detail : Byte := 0) (addr : DWord := 0) : Body :=
  .trap c.s { cause := cause, detail := detail, addr := addr } false

/-- The wait-path codes of WPATH (R79). -/
def pathOfCode (p : Nat) : Path :=
  match p with
  | 1 => .g | 2 => .w | 3 => .s | 4 => .c | 5 => .m | 6 => .a | _ => .f

/-- A wait holds: that of `WAITC` while its counter is too high (R212), one at a barrier until it is ended (R223,
R225, R229). -/
def waitHolds (wn : Win) : Option Wait → Bool
  | some (.path p n) => decide (n < wn.count p)
  | some _ => true
  | none => false

/-- A `WAITC` wait that no longer holds is over. -/
def endPathWait : Option Wait → Option Wait
  | some (.path _ _) => none
  | o => o

/-- The trap of rows 1 and 2 of R274 that the warp takes at this boundary: a completed instruction's own first, then the
earliest asynchronous one. In a handler only a POISON that the handler's own load raised is taken; another POISON stays
pending. -/
def Warp.due (x : Warp) : Option PendTrap :=
  match x.pend.find? (fun p => p.row1) with
  | some p => some p
  | none => x.pend.find? (fun p => !x.inTrap || p.fromTrap)

/-- The warp may issue in this clk (R27, R112, R212): it runs, is not suspended, held or asleep, no completion or
asynchronous trap is due first (R274), and `WAITC` lets it. -/
def Warp.canIssue (x : Warp) (clk : Nat) : Bool :=
  x.running && !x.held && x.susp.isNone && x.sleep == 0 && decide (x.win.notBefore ≤ clk) && x.due.isNone &&
  !(waitHolds x.win x.wait)

/-- A grid's blocks are being stopped; a grid with FIFO banks runs its placed blocks to their end (R279). -/
def State.stopping (s : State) (g : BitVec 32) : Bool :=
  match s.front.job, s.grid? g with
  | some j, some gr => j.grid == g && Rec.nfifo gr.record == 0
  | _, _ => false

/-- A POISON waits to be taken, which no stop may lose (R274, log 79). -/
def Warp.poisonDue (x : Warp) : Bool := x.pend.any (fun p => p.info.cause == .poison)

/-- A warp that is being stopped issues no further instruction: it is at a quiet point, has issued 64 since the command,
or a retraining is active (R43, R364). -/
def State.stopDue (s : State) (w : WarpId) (x : Warp) : Bool :=
  s.stopping w.grid && !x.poisonDue && (x.quiet || decide (64 ≤ x.sinceCmd) || s.front.rstate == 2)

/-- The wait hint and the full counter let the word issue (R32, R80). -/
def issueGate (wn : Win) (sh : Shape) : Bool :=
  (sh.h.wpath == 0 || decide (wn.count (pathOfCode sh.h.wpath.toNat) ≤ sh.h.wth.toNat)) &&
  (match sh.path with
   | some p => decide (wn.count p < 63)
   | none => true)

/-- Row 8 of R90, in checked mode: the detail of the first operand with an uncovered or pending register, in the order D, A,
B, C, then the lane guard; of `SFROMV`, whose A is checked by the one lane slot that it reads (R125), in the order B, then A
(DESIGN CHOICE, log 84: R90 lists the details and gives no order among them). -/
def coverage (wn : Win) (sh : Shape) : Option Byte :=
  let bad (sp : SlotSpec) (o : Opnd) : Bool :=
    (slotReads sp o).any wn.badRead || (slotWrites sp o).any wn.badWrite
  if bad sh.ds sh.d then some 0x01
  else if bad sh.as sh.a then some 0x02
  else if bad sh.bs sh.b then some 0x03
  else if bad sh.cs sh.c then some 0x04
  else if sh.guard == .lanes && sh.g.idx != 7 && wn.badRead (.k sh.g.idx.toNat) then some 0x07
  else none

/-- The warp after a word of shape `sh` that issued at `clk` with PC `pc`: its results in the window, its own stall
count, hint and next PC (R27, R80). -/
def Warp.issue (x : Warp) (sh : Shape) (clk : Nat) (pc : DWord) (d : Done) : Warp :=
  { x with
    win := ((x.win.push (sh.lat.getD 0) sh.h.wo d.out).advance sh.h.st.toNat clk).noEarlier d.notBefore,
    pc := d.pc.getD (nextPc pc),
    yieldClk := if sh.h.yld then some (clk + 1) else none,
    sinceCmd := x.sinceCmd + 1 }

/-- An instruction has issued: it counts on its core, and the grid has started (R264, R356). -/
def State.counted (s : State) (core : Nat) (g : BitVec 32) : State := (s.countPm core 0x00 1).started g

/-- The result of a body, on the warp that issued it. -/
def State.finish (s0 : State) (c : Ctx) (sh : Shape) : Body → State
  | .pass => s0
  | .hold s => s
  | .trap s t done => (if done then s.counted c.blk.core c.id.grid else s).takeTrap c.id t c.pc done
  | .susp s x => s.suspend c.id x
  | .flag s t diag => (s.counted c.blk.core c.id.grid).takeTrap c.id t (nextPc c.pc) false 0 (some diag)
  | .go d =>
    let s1 := d.s.setWarp c.id (fun x => (x.issue sh c.clk c.pc d).settle)
    { (s1.counted c.blk.core c.id.grid) with freeCtr := d.s.freeCtr + 1 }

/-- A warp issues a word (R27, R90): the checks of the word itself, the waits, then the checks that read registers, which
read them at issue: row 7 for register and stack targets (R82) by `row7`, and row 8; then the body. -/
def runWarp (sh : Shape) (row7 : Ctx → Option TrapInfo) (body : Ctx → Body) (id : WarpId) (s : State) : State :=
  match s.warp? id, s.grid? id.grid with
  | some (b, x), some g =>
    let clk := s.clkOf (dieOfCore b.core)
    if !x.canIssue clk || s.stopDue id x then s
    else
      let c : Ctx := ⟨s.setWarp id (fun x => { x with wait := endPathWait x.wait }), id, b, x, g, clk⟩
      match sh.check false (Rec.declared g.record) x.pc with
      | some t => s.takeTrap id t x.pc
      | none =>
        if !issueGate x.win sh then s
        else match row7 c with
          | some t => s.takeTrap id t x.pc
          | none => match (if c.chk then coverage x.win sh else none) with
            | some d => s.takeTrap id { cause := .undersizedStall, detail := d } x.pc
            | none => s.finish c sh (body c)
  | _, _ => s

/-! ### The issue of a sequencer's word (R231, R233) -/

/-- What a matrix-stream instruction sees when it issues. -/
structure SCtx where
  s : State
  id : BlockId
  blk : Block
  q : Seq
  g : Grid
  clk : Nat
deriving DecidableEq, Repr

def SCtx.pc (c : SCtx) : DWord := c.q.pc
def SCtx.mreg (c : SCtx) (n : Nat) : DWord := (c.q.win.read (mBase c.blk.m) c.s.freeCtr (.m n)).setWidth 64
def SCtx.konst (c : SCtx) (n : Nat) : Word := tget 0 c.g.konst n

structure SDone where
  s : State
  out : List Result := []
  pc : Option DWord := none
deriving DecidableEq, Repr

inductive SBody where
  | pass
  | hold (s : State)
  | trap (s : State) (t : TrapInfo) (acc : Nat)
  | go (d : SDone)
deriving DecidableEq, Repr

def SCtx.trap (c : SCtx) (cause : Cause) (detail : Byte := 0) (addr : DWord := 0) (acc : Nat := 0) : SBody :=
  .trap c.s { cause := cause, detail := detail, addr := addr } acc

/-- The sequencer may issue in this clk. -/
def Seq.canIssue (q : Seq) (clk : Nat) : Bool :=
  !q.stopped && !q.ended && !q.ending && !q.held && q.run.isNone && decide (q.win.notBefore ≤ clk) && !(waitHolds q.win q.wait)

def State.sfinish (s0 : State) (c : SCtx) (sh : Shape) : SBody → State
  | .pass => s0
  | .hold s => s
  | .trap s t acc => s.streamTrap c.id t c.pc acc
  | .go d =>
    let s1 := d.s.setBlock c.id (fun b =>
      match b.seq with
      | none => b
      | some q =>
        let wn := (q.win.push (sh.lat.getD 0) sh.h.wo d.out).advance sh.h.st.toNat c.clk
        let r := settleM b.m wn
        { b with m := r.1, seq := some { q with
            win := r.2, pc := d.pc.getD (nextPc c.pc) } })
    { (s1.counted c.blk.core c.id.grid) with freeCtr := d.s.freeCtr + 1 }

def runSeq (sh : Shape) (body : SCtx → SBody) (id : BlockId) (s : State) : State :=
  match s.seq? id, s.grid? id.grid with
  | some (b, q), some g =>
    let clk := s.clkOf (dieOfCore b.core)
    if !q.canIssue clk then s
    else
      let c : SCtx := ⟨s.setSeq id (fun q => { q with wait := endPathWait q.wait }), id, b, q, g, clk⟩
      match sh.check true (Rec.declared g.record) q.pc with
      | some t => s.streamTrap id t q.pc
      | none =>
        if !issueGate q.win sh then s
        else match (if q.chk then coverage q.win sh else none) with
          | some d => s.streamTrap id { cause := .undersizedStall, detail := d } q.pc
          | none => s.sfinish c sh (body c)
  | _, _ => s

/-! ### Issue by whichever agent holds the turn -/

/-- A word with a meaning in a warp stream; in a matrix stream its shape is refused (R85). -/
def issueW (sh : Shape) (body : Ctx → Body) (s : State) (row7 : Ctx → Option TrapInfo := fun _ => none) : Out :=
  match s.cur with
  | some (.warp w) => .next (runWarp sh row7 body w s)
  | some (.seq b) => .next (runSeq sh (fun _ => .pass) b s)
  | none => .refused .noIssuer

/-- A word with a meaning in a matrix stream. -/
def issueS (sh : Shape) (body : SCtx → SBody) (s : State) : Out :=
  match s.cur with
  | some (.warp w) => .next (runWarp sh (fun _ => none) (fun _ => .pass) w s)
  | some (.seq b) => .next (runSeq sh body b s)
  | none => .refused .noIssuer

end Sys2Proof.Machine
end

