-- ==== Sys2Proof/Machine/Agenda.lean ====
section
/-! DEFINITION. The quadrant of a warp (R11), the fetched word of a warp or stream (R81, R83), a due trap (R274), and the passing of core clk and of ns (R6, R112, R227, R263, R442). -/

namespace Sys2Proof.Machine

/-- The word at a PC in a fetched code block (R67, R81). -/
def fetched (ibuf : Option (Nat × VReg)) (pc : DWord) : Option IWord :=
  match ibuf with
  | some (n, d) => if n = pc.toNat / 128 then some (d.extractLsb' (8 * (pc.toNat % 128)) 96) else none
  | none => none

/-- The quadrant of a warp (R11). -/
def quadOf (b : Block) (w : Nat) : Nat := (b.q0 + w) % 4

/-- A trap of R274 rows 1 and 2 is due at the boundary the warp has reached; a wait that holds comes first. -/
def Warp.trapDue (x : Warp) (clk : Nat) : Bool :=
  x.running && !x.held && x.susp.isNone && x.sleep == 0 && decide (x.win.notBefore ≤ clk) && !(waitHolds x.win x.wait) &&
  x.due.isSome

/-! ### Time -/

/-- A warp after one clk of its core: a sleep runs down to the clk in which `SLEEP_EXPIRE` ends it (R112). -/
def Warp.tick (x : Warp) : Warp := { x with sleep := if x.sleep ≤ 1 then x.sleep else x.sleep - 1 }

/-- One barrier's time-out runs down (R227). -/
def NBar.tick (b : NBar) : NBar := { b with torem := b.torem - 1 }
def CBar.tick (b : CBar) : CBar := { b with torem := b.torem - 1 }

/-- The left time of a wait for a barrier object (R229). -/
def Wait.tick : Wait → Wait
  | .object o p l => .object o p (l - 1)
  | w => w

/-- One clk of a die's core clock: counted only while it runs (R442). -/
def State.tickDie (s : State) (d : Nat) : State :=
  if !(s.die d).clocked then s
  else
    { s with
      clks := s.clks.modify d (· + 1),
      blocks := s.blocks.map (fun b => if dieOfCore b.core = d then
        { b with bars := if b.frozen then b.bars else b.bars.map NBar.tick,
                 warps := b.warps.map (fun x => { x.tick with wait := if x.held then x.wait else x.wait.map Wait.tick }) } else b),
      grids := s.grids.map (fun g => { g with
        cbars := g.cbars.map (fun p => if s.blocks.any (fun b => b.id.grid == g.id && !b.frozen && dieOfCore b.core == d &&
            b.id.block / Rec.clus g.record == p.1) then (p.1, p.2.tick) else p),
        dbars := (g.dbars.zip (List.range 4)).map (fun p => if s.blocks.any (fun b => b.id.grid == g.id &&
            !b.frozen && dieOfCore b.core == d && b.portion == p.2) then p.1.tick else p.1) }) }

/-- `n` ns pass (R263); a device time that TSET has loaded is read from the first of them on (R440). -/
def State.tickNs (s : State) (n : Nat) : State :=
  match s.hub.tnext with
  | some v => if n = 0 then s else
      { s with now := s.now + n, gtime := v + BitVec.ofNat 64 (n - 1), hub := { s.hub with tnext := none } }
  | none => { s with now := s.now + n, gtime := s.gtime + BitVec.ofNat 64 n }

end Sys2Proof.Machine
end

