-- ==== Sys2Proof/Machine/Probe.lean ====
section
/-! DEFINITION. A resident block whose warp and stream fetch a given word next. -/

namespace Sys2Proof.Machine

/-! ### A word placed where the next step fetches -/

/-- The code block that holds a word in slot 0. -/
def fetchBlock (w : IWord) : VReg := w.setWidth 1024

/-- The launch record of the block that `withFetchWord` places: 32 threads, the largest register counts, a matrix
stream, 32 KiB of scratchpad. -/
def probeRecord : VReg :=
  let w (off x : Nat) : Nat := x <<< (8 * off)
  BitVec.ofNat 1024 (w 0 (1 + 2 ^ 7) + w 4 (32 + 16 * 2 ^ 11 + 32 * 2 ^ 16 + 32 * 2 ^ 22) + w 8 (64 + 4 * 2 ^ 7 + 4 * 2 ^ 14) +
    w 0x0C 32768 + w 0x14 1000000 + w 0x38 1 + w 0x3C (1 + 2 ^ 16))

def probeWarp (code : VReg) : Warp :=
  { pc := 0, retired := 0, helper := 0, ibuf := some (0, code) }

def probeBlock (code : VReg) : Block :=
  { id := ⟨0, 0⟩, core := 0, q0 := 0, portion := 0, warps := [probeWarp code],
    bars := List.replicate 16 { exp := 1 }, banks := [0], seq := some { pc := 0, ibuf := some (0, code) } }

def probeGrid : Grid := { id := 0, record := probeRecord, gx := 1, nextBlock := 1 }

/-- A group-A word is placed for the block's matrix stream, any other for its warp (R85). -/
def probeTurn (w : IWord) : Turn := if opOfWord w / 64 = 10 then .seq ⟨0, 0⟩ else .quadrant 0 0

/-- `s` with a one-block grid resident on core 0 whose code block holds the word in slot 0, and that agent's turn
next. -/
def State.placeWord (s : State) (x : IWord) : State :=
  { s with agenda := probeTurn x :: s.agenda, blocks := [probeBlock (fetchBlock x)], grids := [probeGrid] }

end Sys2Proof.Machine
end

