-- ==== Sys2Proof/Machine/Operands.lean ====
section
/-! DEFINITION. Operand values (R69-R72, R87, R115, R128-R130) and the results an instruction writes under R14: S, V, K
and E destinations. Values are naturals of the type's width. -/

namespace Sys2Proof.Machine

/-- The register number or index of an operand. -/
def opndNum : Opnd → Nat
  | .s n => n.toNat | .v n => n.toNat | .e n => n.toNat | .a n => n.toNat | .m n => n.toNat | .k n => n.toNat
  | .sp n => n.toNat | .imm i => i.toNat | .kc n => n.toNat | .none => 0 | .rsv r => r.toNat

/-- The same value in both halves of a lane. -/
def both (x : Nat) : Nat := x + x * 65536

/-- An inline immediate extended to a type (R87). -/
def immNat (t : Ty) (i : BitVec 7) : Nat :=
  match t with
  | .f32 => (fofInt fp32 .rne i.toInt).bits
  | .f16 => (fofInt fp16 .rne i.toInt).bits
  | .bf16 => (fofInt bf16 .rne i.toInt).bits
  | .f16x2 => both (fofInt fp16 .rne i.toInt).bits
  | .bf16x2 => both (fofInt bf16 .rne i.toInt).bits
  | t => if tyWide t then (i.signExtend 64).toNat else (i.signExtend 32).toNat

/-- An X immediate extended to a type (R87). -/
def xImmNat (t : Ty) (x : Word) : Nat :=
  let cv (f : FFmt) : Nat := (fconv f .rne (fdecode fp32 x.toNat)).bits
  match t with
  | .s64 => (x.signExtend 64).toNat
  | .f16 => cv fp16
  | .bf16 => cv bf16
  | .f16x2 => both (cv fp16)
  | .bf16x2 => both (cv bf16)
  | _ => x.toNat

/-- A uniform source at a type (R71, R72, R113). -/
def Ctx.uniN (c : Ctx) (t : Ty) : Opnd → Nat
  | .s n => if tyWide t then (c.sreg64 n.toNat).toNat else (c.sreg n.toNat).toNat
  | .imm i => immNat t i
  | .kc n => if tyWide t then (join64 (c.konst (n.toNat + 1)) (c.konst n.toNat)).toNat else (c.konst n.toNat).toNat
  | _ => 0

/-- A 32-bit uniform value: counts, offsets, lane numbers, conditions. -/
def Ctx.uni32 (c : Ctx) (o : Opnd) : Nat := c.uniN .n32 o

/-- A 64-bit address or base from an S pair or a constant pair. -/
def Ctx.uni64 (c : Ctx) (o : Opnd) : DWord := BitVec.ofNat 64 (c.uniN .n64 o)

/-- A source of a vector operation by lane (R71, R128); width-64 lanes are V pairs (R49). -/
def Ctx.vecN (c : Ctx) (t : Ty) (o : Opnd) : Nat → Nat :=
  match o with
  | .v n =>
    let lo := c.vreg n.toNat
    if tyWide t then
      let hi := c.vreg (n.toNat + 1)
      fun l => (join64 (lane hi l) (lane lo l)).toNat
    else fun l => (lane lo l).toNat
  | o => let x := c.uniN t o; fun _ => x

/-- A K register, or a uniform value taken as a mask of lanes. -/
def Ctx.maskOf (c : Ctx) : Opnd → Mask
  | .k n => c.kreg n.toNat
  | o => BitVec.ofNat 32 (c.uni32 o)

/-! ### `%fpst` (R25, R47, R145, R146) -/

/-- A change of `%fpst` that sticky bits make; it is part of every value that a reader may still see. -/
def Warp.stick (x : Warp) (f : Word → Word) : Warp :=
  { x with fpst := f x.fpst,
           specs := x.specs.map (fun r => if r.spec = .fpst then { r with old := (f (r.old.setWidth 32)).setWidth 128 } else r) }

/-- The issue of an instruction of latency `lat` that sets flags `fl` and whose results met or produced the NaN scales
of `nan` (R145, R146, R164, R170). `fp` and `ns` say which of the two serialisation rules it is under; the traps it
raises come in the order of R274, which discards them in a handler. -/
def Ctx.doneSticky (c : Ctx) (lat : Nat) (fp : Bool) (fl : Flags) (ns : Bool) (nan : BitVec 8) (out : List Result) : Body :=
  let fpst := c.w.fpst
  let en := fpEnabled fpst fl
  let t1 : List PendTrap := if nan = 0 ∨ nste fpst = false ∨ c.w.inTrap = true then [] else
    [{ row1 := true, info := { cause := .nanScale, detail := nan }, tpc := c.pc, fpc := 0 }]
  let t2 : List PendTrap := if en = 0 ∨ c.w.inTrap = true then [] else
    [{ row1 := true, info := { cause := .fpException, detail := en.setWidth 8 }, tpc := c.pc, fpc := 0 }]
  .go { s := c.s.setWarp c.id (fun x =>
          let y := x.stick (fun p => if nan = 0 then fpstOr p fl else fpstNss (fpstOr p fl))
          { y with fpClk := max y.fpClk (c.clk + lat), pend := y.pend ++ t1 ++ t2 }),
        out := out,
        notBefore := if (fp && fpst.extractLsb' 8 5 != 0) || (ns && nste fpst) then c.clk + lat else 0 }

/-- As `doneSticky`, for an instruction under R146 only. -/
def Ctx.doneFp (c : Ctx) (lat : Nat) (fl : Flags) (out : List Result) : Body := c.doneSticky lat true fl false 0 out

/-! ### Destinations -/

/-- An S result, written once when some lane is active (R14). -/
def outS (anyActive : Bool) (n : Nat) (wide : Bool) (x : Nat) : List Result :=
  if !anyActive then []
  else
    let r (n x : Nat) : Result := ⟨.s n, (RegId.s n).bits, BitVec.ofNat 1024 (x % 2 ^ 32)⟩
    if wide then [r n x, r (n + 1) (x / 2 ^ 32)] else [r n x]

/-- A V result in the lanes of `m`. -/
def outV (m : Mask) (n : Nat) (wide : Bool) (f : Nat → Nat) : List Result :=
  let r (n : Nat) (g : Nat → Nat) : Result :=
    ⟨.v n, laneBits m, ofLanes (fun l => if bit m l then BitVec.ofNat 32 (g l) else 0)⟩
  if wide then [r n f, r (n + 1) (fun l => f l / 2 ^ 32)] else [r n f]

/-- A V result given as a register value. -/
def outVreg (m : Mask) (n : Nat) (x : VReg) : List Result := [⟨.v n, laneBits m, x⟩]

/-- A K result in the lanes of `m`. -/
def outK (m : Mask) (n : Nat) (x : Mask) : List Result := [⟨.k n, m.setWidth 1024, x.setWidth 1024⟩]

/-- An E result in the slots of `m`. -/
def outE (m : BitVec 8) (n : Nat) (x : EReg) : List Result := [⟨.e n, (slotBits m).setWidth 1024, x.setWidth 1024⟩]

/-- The common end of a body: results, and nothing else. -/
def Ctx.done (c : Ctx) (out : List Result) : Body := .go { s := c.s, out := out }

/-- A change of the issuing warp beside its results. -/
def Ctx.doneWith (c : Ctx) (f : Warp → Warp) (out : List Result := []) : Body := .go { s := c.s.setWarp c.id f, out := out }

/-- A transfer of control. -/
def Ctx.jump (c : Ctx) (pc : DWord) : Body := .go { s := c.s, pc := some pc }

end Sys2Proof.Machine
end

