-- ==== Sys2Proof/Machine/Land.lean ====
section
/-! DEFINITION. Variable-latency operations of an agent: queueing at issue (R32, R33), finding them, landing their
results in the registers, and the fall of the path counters in issue order. -/

namespace Sys2Proof.Machine

/-- Queues an operation of the warp on its path. -/
def Ctx.queue (c : Ctx) (s : State) (o : Op) : State :=
  s.setWarp c.id (fun x => { x with win := { x.win with ops := x.win.ops ++
    [{ o with num := c.w.win.num, pc := c.pc, clk := c.clk, inTrap := c.w.inTrap }] } })

/-- Queues an operation of the stream on its path. -/
def SCtx.queue (c : SCtx) (s : State) (o : Op) : State :=
  s.setSeq c.id (fun q => { q with win := { q.win with ops := q.win.ops ++
    [{ o with num := c.q.win.num, pc := c.pc, clk := c.clk }] } })

/-- The operation at place `i` of an agent's list, if it has not been performed. -/
def State.op? (s : State) (a : Agent) (i : Nat) : Option Op :=
  match s.win? a with
  | some wn => (wn.ops[i]?).filter (fun o => !o.done)
  | none => none

/-- Changes the operation with a number. -/
def Win.mapOp (wn : Win) (num : Nat) (f : Op → Op) : Win :=
  { wn with ops := wn.ops.map (fun o => if o.num = num then f o else o) }

/-- An operation has been performed and writes nothing: its counter falls in issue order. -/
def State.opDone (s : State) (a : Agent) (num : Nat) : State :=
  s.setWin a (fun wn => (wn.mapOp num (fun o => { o with done := true })).retire)

/-- The counter of an operation whose data came back early falls (R33). -/
def State.endEarly (s : State) (a : Agent) (num : Nat) : State :=
  s.setWin a (fun wn => (wn.mapOp num (fun o => if o.done then { o with early := false } else o)).retire)

/-- An agent's registers as one function. -/
def State.regBase (s : State) (a : Agent) (r : RegId) : BitVec 1024 :=
  match a with
  | .warp w => ((s.warp? w).map (fun p => p.2.base r)).getD 0
  | .seq b => ((s.block? b).map (fun k => mBase k.m r)).getD 0

def State.setReg (s : State) (a : Agent) (r : RegId) (x : BitVec 1024) : State :=
  match a with
  | .warp w => s.setWarp w (fun y => y.setBase r x)
  | .seq b => s.setBlock b (fun k => { k with m := mSetBase k.m r x })

/-- One register of a landing: the value written under the operation's mask, with what R33 leaves to a later write. Of
two operations that are outstanding together on a register, the one that lands last leaves either value in each slot. -/
def State.landReg (s : State) (a : Agent) (o : Op) (r : RegId) (mask val : BitVec 1024) : State :=
  let m := o.landMask s.freeCtr r mask
  let base := s.regBase a r
  (s.setReg a r (merge m base val)).setWin a (fun wn =>
    ((wn.clearBits r m).mapOp o.num (fun x => { x with
      old := x.old ++ [(r, base)],
      oldFly := x.oldFly ++ wn.fly.filter (fun f => f.reg == r && decide (f.num < o.num)) })).clobberBut
      (fun q => q.done || q.num == o.num) [⟨r, m, val⟩])

/-- An operation's results land: `val` gives each destination register's value. -/
def State.land (s : State) (a : Agent) (o : Op) (val : RegId → BitVec 1024) : State :=
  let s1 := o.dst.foldl (fun s p => s.landReg a o p.1 p.2 (val p.1)) s
  { (s1.opDone a o.num) with freeCtr := s.freeCtr + 1 }

/-- An operation that its turn has not performed is not early. -/
def Win.lateAgain (wn : Win) (num : Nat) : Win := wn.mapOp num (fun o => if o.done then o else { o with early := false })

/-- The data of an operation come back before its counter falls (R33): it is performed by `f`, and stays counted. -/
def State.early (s : State) (a : Agent) (o : Op) (f : State → Op → State) : State :=
  (f (s.setWin a (fun wn => wn.mapOp o.num (fun o => { o with early := true }))) { o with early := true }).setWin a
    (fun wn => wn.lateAgain o.num)

/-- A pending trap of row 2 of R274 on a warp, at the boundary after operation `o` completed; outside a handler only. A warp
that a save has stopped goes on and takes it (log 79). -/
def State.pendAsync (s : State) (w : WarpId) (o : Op) (cause : Cause) (detail : Byte) : State :=
  s.setWarp w (fun x => if x.inTrap then x else
    { x with
      held := false,
      pend := x.pend ++ [{ row1 := false, info := { cause := cause, detail := detail, addr := o.pc }, tpc := 0, fpc := o.pc }] })

end Sys2Proof.Machine
end

