-- ==== Sys2Proof/Machine/Redd.lean ====
section
/-! DEFINITION. The arithmetic of atomics (R204, R205), an atomic at its home (R206, R312), and the deterministic
reduction: combining, spilling, draining, staging and merging (R207-R210, R313). -/

namespace Sys2Proof.Machine

/-! ### Arithmetic (R204, R205) -/

/-- Each half of a packed bf16 pair added on its own. -/
def addBf16x2 (x y : Nat) : Nat :=
  let h (i : Nat) : Nat := (fadd bf16 .rne (fdecode bf16 (field x (16 * i) 16)) (fdecode bf16 (field y (16 * i) 16))).bits
  h 0 + h 1 * 65536

/-- The new value of an atomic operation on `old` with operand `b`. -/
def atomOp (sub : Nat) (t : Ty) (old b : Nat) : Nat :=
  let w := tyW t
  match sub with
  | 0 => match t with
    | .f32 => (fadd fp32 .rne (fdecode fp32 old) (fdecode fp32 b)).bits
    | .bf16x2 => addBf16x2 old b
    | _ => (old + b) % 2 ^ w
  | 1 => if t = .f32 then (fminmax fp32 false old b).bits else iop .min t false old b 0
  | 2 => if t = .f32 then (fminmax fp32 true old b).bits else iop .max t false old b 0
  | 3 => (old &&& b) % 2 ^ w
  | 4 => (old ||| b) % 2 ^ w
  | 5 => (old ^^^ b) % 2 ^ w
  | 6 => b % 2 ^ w
  | 7 => if b ≤ old then 0 else old + 1
  | _ => if old = 0 ∨ b < old then b else old - 1

/-- Bytes of an atomic's datum (R204). -/
def tyBytes (t : Ty) : Nat := if tyWide t then 8 else 4

/-! ### An atomic at its home (R206, R312) -/

/-- The `n`-byte value at `pa` as the home reads it (R391). -/
def State.homeNat (s : State) (pa n : Nat) : Nat := field (s.homeRead (pa / 128)).1.toNat (8 * (pa % 128)) (8 * n)

/-- A write that an operation of die `d` makes at the home: die `d` holds no older copy of the line afterwards, and the
write's message to it is one of its own (R312). -/
def State.homeOpWrite (s : State) (d : Nat) (grid : Option (BitVec 32)) (pa : Nat) (bs : List Byte) : State :=
  let line := pa / 128
  let s1 := s.devWrite grid line (putOf (pa % 128) bs)
  if homeDie line = d then s1
  else
    let t := s1.clockOf (homeDie line)
    { s1.l2Drop d line with msgs := s1.msgs.map (fun m =>
        if m.src = homeDie line ∧ m.dst = d ∧ m.stamp = t then { m with own := true } else m) }

/-- One atomic operation at the home of its address. -/
def State.homeAtom (s : State) (d : Nat) (grid : BitVec 32) (pa : Nat) (t : Ty) (f : Nat → Nat) : State :=
  s.homeOpWrite d (some grid) pa (bytesLE (tyBytes t) (f (s.homeNat pa (tyBytes t))))

/-! ### REDD (R208, R209) -/

/-- A contribution spills: the grid's sticky and count, and the core's counter. -/
def State.reddNote (s : State) (g : BitVec 32) (core : Nat) : State :=
  (s.setGrid g (fun g => { g with spill := true, nspill := min (g.nspill + 1) 0xFFFFFFFF })).countPm core 0x08 1

/-- A spill met by a drain: the contribution goes to its home as a `RED` (R208, R313). -/
def State.reddSpill (s : State) (w : WarpId) (core : Nat) (e : ReddEntry) : State :=
  (s.reddNote w.grid core).setWarp w (fun x => { x with spills := x.spills ++ [e] })

/-- The entries that the block's warps hold in a warp's quadrant. -/
def reddHeld (b : Block) (w : Nat) : Nat :=
  ((b.warps.zip (List.range b.warps.length)).map (fun p =>
    if (b.q0 + p.2) % 4 = (b.q0 + w) % 4 then p.1.redd.length else 0)).foldl (· + ·) 0

/-- One lane of a `REDD`: combined into the warp's entry or entered; `true` when it spills. -/
def State.reddLane (s : State) (w : WarpId) (pa : Nat) (t : Ty) (op val : Nat) : State × Bool :=
  match s.warp? w, s.grid? w.grid with
  | some (b, x), some g =>
    if x.redd.any (fun e => e.pa == pa && e.ty == t && e.op == op) then
      (s.setWarp w (fun x => { x with redd := x.redd.map (fun e =>
        if e.pa = pa ∧ e.ty = t ∧ e.op = op then { e with val := BitVec.ofNat 64 (atomOp op t e.val.toNat val) } else e) }), false)
    else if reddHeld b w.warp < Rec.nredd g.record then
      (s.setWarp w (fun x => { x with redd := x.redd ++ [{ pa := pa, ty := t, op := op, val := BitVec.ofNat 64 val }] }), false)
    else (s.reddNote w.grid b.core, true)
  | _, _ => (s, false)

/-- Staging partials that a home slice holds. -/
def State.stagedAt (s : State) (die slice : Nat) : Nat :=
  (s.staged.filter (fun e => homeDie (e.pa / 128) == die && homeSlice (e.pa / 128) == slice)).length

/-- One entry reaches its home slice. -/
def State.stage (s : State) (w : WarpId) (core q : Nat) (e : ReddEntry) : State :=
  let same (p : Staged) : Bool :=
    p.grid == w.grid && p.pa == e.pa && p.ty == e.ty && p.op == e.op && p.core == core && p.quadrant == q &&
      p.block == w.block && p.warp == w.warp
  let s1 := s.atomicPrep core (e.pa / 128)
  if s1.staged.any same then
    { s1 with staged := s1.staged.map (fun p =>
        if same p then { p with val := BitVec.ofNat 64 (atomOp e.op e.ty p.val.toNat e.val.toNat) } else p) }
  else if s1.stagedAt (homeDie (e.pa / 128)) (homeSlice (e.pa / 128)) < 4096 then
    { s1 with staged := s1.staged ++ [{ grid := w.grid, pa := e.pa, ty := e.ty, op := e.op, die := dieOfCore core,
                                        core := core, quadrant := q, block := w.block, warp := w.warp, val := e.val }] }
  else s1.reddSpill w core e

/-- Drains every entry of a warp to the home slices, in allocation order. -/
def State.reddDrain (s : State) (w : WarpId) : State :=
  match s.warp? w with
  | none => s
  | some (b, x) =>
    (x.redd.foldl (fun s e => s.stage w b.core ((b.q0 + w.warp) % 4) e) s).setWarp w (fun x => { x with redd := [] })

/-! ### The merge at kernel end (R208) -/

/-- The merge order of two partials: (die, core, quadrant, block, warp). -/
def Staged.before (a b : Staged) : Bool :=
  decide (a.die < b.die) || (a.die == b.die && (decide (a.core < b.core) || (a.core == b.core &&
    (decide (a.quadrant < b.quadrant) || (a.quadrant == b.quadrant && (decide (a.block < b.block) ||
      (a.block == b.block && decide (a.warp < b.warp))))))))

/-- A partial put after every one that it does not come before. -/
def insertStaged (x : Staged) : List Staged → List Staged
  | [] => [x]
  | y :: ys => if x.before y then x :: y :: ys else y :: insertStaged x ys

def Staged.mine (p : Staged) (g : BitVec 32) (sl : Nat) : Bool := p.grid == g && homeIndex (p.pa / 128) == sl

/-- A grid's partials at one slice. -/
def State.mergeOf (s : State) (g : BitVec 32) (sl : Nat) : List Staged := s.staged.filter (fun p => p.mine g sl)

/-- Staged partials that have left the staging table are merged into memory in the order of R208. A poisoned line that the
merge reads for a grid counts once (R391), or starts the grid's recovery, which discards its partials (R396; DEDUCED,
log 105). -/
def State.mergePartials (s : State) (ps : List Staged) : State :=
  let bad := dedup ((ps.filter (fun p => s.poison.contains (p.pa / 128) && !(s.lost (p.pa / 128)))).map (fun p => (p.grid, p.pa / 128)))
  let s1 := bad.foldl (fun s q => if s.recovers q.1 then s.startRecovery q.1 else s.notePoison q.1 1) s
  ((ps.foldl (fun l p => insertStaged p l) []).filter (fun p => !(bad.any (fun q => q.1 == p.grid) && s.recovers p.grid))).foldl
    (fun s p => s.homeAtom (homeDie (p.pa / 128)) p.grid p.pa p.ty (fun o => atomOp p.op p.ty o p.val.toNat)) s1

/-- A grid's partials at one slice are merged into memory. -/
def State.reddMergeSlice (s : State) (g : BitVec 32) (sl : Nat) : State :=
  { s with staged := s.staged.filter (fun p => !(p.mine g sl)) }.mergePartials (s.mergeOf g sl)

end Sys2Proof.Machine
end

