-- ==== Sys2Proof/Machine/Order.lean ====
section
/-! DEFINITION. What holds an instruction at issue until earlier accesses are performed: fences, annotated releases and
`.xp` arrivals (R226, R291, R306, R470), with the write-back of what they order (R297, R301, R315, R316). -/

namespace Sys2Proof.Machine

/-- An operation of a group-6 or group-7 instruction (class LSU). -/
def OpKind.isLsu : OpKind → Bool
  | .load .. | .loadS .. | .loadMx .. | .store .. | .storeCnt .. | .atom .. | .redd .. | .rflush => true
  | _ => false

/-- An operation of class MMA of the matrix stream (R256). -/
def OpKind.isMma : OpKind → Bool
  | .alds .. | .asts .. | .mlds .. | .astq .. => true
  | _ => false

/-- A load, or an atomic, which reads. -/
def OpKind.reads : OpKind → Bool
  | .load .. | .loadS .. | .loadMx .. | .atom .. => true
  | _ => false

def Loc.isScratch : Loc → Bool
  | .scratch _ _ => true
  | _ => false

/-- An operation that accesses a scratchpad. -/
def OpKind.scratch : OpKind → Bool
  | .load ps _ _ | .loadMx ps _ _ _ => ps.any (fun p => p.loc.isScratch)
  | .loadS p _ _ => p.loc.isScratch
  | .store ls | .storeCnt ls _ _ => ls.any (fun p => p.loc.isScratch)
  | .atom ps _ _ _ _ => ps.any (fun p => p.piece.loc.isScratch)
  | _ => false

/-- Every operation of a kind has been performed. -/
def Win.performed (wn : Win) (p : OpKind → Bool) : Bool := wn.ops.all (fun o => o.done || !(p o.kind))

/-- The suspension of a releasing warp on a sector that cannot be written back (R316). -/
def releaseSusp (core : Nat) (f : Nat × Nat × DWord × TrapInfo) : Susp :=
  { cause := f.2.2.2.cause, detail := f.2.2.2.detail, addr := f.2.2.2.addr, acc := 1, recPc := f.2.2.1,
    release := some (core, f.1, f.2.1) }

/-- No data of a cross-die write that die `d` sent is still to be applied (R470); with `all`, none of any write that its
clock counts: the observed writes too (R304, R306). -/
def State.settled (s : State) (d : Nat) (all : Bool) : Bool :=
  !(s.msgs.any (fun m => m.put.isSome && (m.src == d || all && m.counted (s.die d).vclk)))

/-- A write that an atomic of the die made at another home is not counted by the die yet: a stamp of the die's would be
lower than the write's (R301, R312). -/
def State.ownUnheard (s : State) (d : Nat) : Bool := s.msgs.any (fun m => m.own && m.dst == d)

/-- Every host-cached line of device memory is recalled (R304). -/
def State.recall (s : State) (scp : Nat) : State := if scp = 4 then { s with hostCache := [] } else s

/-- The warp's drained contributions have reached their homes. -/
def State.noSpills (s : State) (w : WarpId) : Bool :=
  match s.warp? w with
  | some (_, x) => x.spills.isEmpty
  | none => true

/-- A warp has waited for a phase of an object: it has observed the engine writes that the object counts (R257). -/
def Block.seeObj (b : Block) (w o : Nat) : Block :=
  if b.unseen.isEmpty then b
  else { b with unseen := b.unseen.map (fun u => if u.obj = o ∧ !u.seen.contains w then { u with seen := u.seen ++ [w] } else u) }

/-- What a warp has observed is ordered before what the stream does next (R257, R306). -/
def Block.showStream (b : Block) (w : Nat) : Block :=
  if b.unseen.isEmpty then b else { b with unseen := b.unseen.filter (fun u => !u.seen.contains w) }

/-- The body `k` runs once what a release at a scope orders is performed there: earlier LSU accesses, then the write-back
of the dirty L1 sectors, whose first fault suspends the warp (R315, R316), the drain of the REDD entries (R208), and at
`.dev` and `.sys` the arrival of the writes at the other dies. At `.blk` it is passed on and nothing is written back,
unless `fx` says that a `FENCEX` asks for it, which orders observed writes as well (R306). -/
def Ctx.release (c : Ctx) (scp : Nat) (fx : Bool) (k : State → Body) : Body :=
  if !(c.w.win.performed OpKind.isLsu) then .pass
  else if scp = 0 && !fx then k (c.s.passOn c.blk.core c.id)
  else if c.s.releaseLocked c.blk.core c.id then .pass
  else
    let s0 := if 3 ≤ scp then c.s.reddDrain c.id else c.s
    if 3 ≤ scp && !(s0.noSpills c.id) then .hold s0
    else match s0.releaseFault c.blk.core c.id with
      | some f => .susp (s0.releaseWb c.blk.core c.id) (releaseSusp c.blk.core f)
      | none =>
        let s1 := s0.releaseWb c.blk.core c.id
        if 3 ≤ scp && (s1.ownUnheard c.die || !(s1.settled c.die (fx || scp == 4))) then .hold s1 else k (s1.recall scp)

end Sys2Proof.Machine
end

