-- ==== Sys2Proof/Machine/Access.lean ====
section
/-! DEFINITION. Addresses of a memory instruction and their checks before any lane performs (R188-R193, R207, R228,
R395), the lines an operation touches, and the order in which a warp's operations are performed (R290, R291, R310, R470). -/

namespace Sys2Proof.Machine

/-! ### Addresses and places -/

/-- The space an instruction's addresses name (R192). -/
inductive Space where
  | generic | own | cluster
deriving DecidableEq, Repr

/-- What an instruction does to each of its addresses. -/
structure Acs where
  space : Space
  acc : Acc
  align : Nat
  bytes : Nat
deriving DecidableEq, Repr

/-- Lane address of format M (R75). -/
def Ctx.mAddr (c : Ctx) (f : MForm) : Nat → DWord :=
  let base := c.vecN .n64 f.a
  let idx := c.vecN .n32 f.b
  fun l => BitVec.ofNat 64 (base l + idx l) + f.ofs.signExtend 64

/-- Lane address of the compact layout (R77). -/
def Ctx.cAddr (c : Ctx) (f : CForm) : Nat → DWord :=
  let base := c.vecN .n64 f.a
  fun l => BitVec.ofNat 64 (base l) + f.ofs.signExtend 64

/-- A place inside a page in motion with a peer location (R395). -/
def State.peerMoving (s : State) (pa : Nat) : Bool :=
  let within (m : Move) (l : Loc) : Bool := match l with
    | .mem a => decide (a ≤ pa) && decide (pa < a + m.size)
    | _ => false
  s.castle.moves.any (fun m => m.withPeer && (within m m.src || within m m.dst))

/-- A place that a grid with RBK may not write (R395). -/
def State.sideEffect (s : State) : Loc → Bool
  | .peer _ _ => true
  | .scratch _ _ => false
  | .mem pa => tierOf pa == some 2 || s.peerMoving pa

/-- A block of the issuing warp's cluster by rank (R10, R192). -/
def Ctx.rankBlock (c : Ctx) (r : Nat) : BlockId :=
  ⟨c.g.id, c.id.block / Rec.clus c.g.record * Rec.clus c.g.record + r⟩

/-- One address checked: alignment, translation, permission (R189, R191, R192, R228, R395). -/
def Ctx.place (c : Ctx) (s : State) (k : Acs) (va : DWord) : State × Except TrapInfo Loc :=
  let bad (x : Cause) (d : Byte) : Except TrapInfo Loc := .error { cause := x, detail := d, addr := va }
  if va.toNat % k.align ≠ 0 then (s, bad .misaligned 0)
  else
    let r : State × Except TrapInfo Loc := match k.space with
      | .generic => s.xlat c.blk.core c.g.ctx c.blk.id c.sb va k.bytes k.acc
      | .own =>
        (s, if va.toNat + k.bytes ≤ c.sb then .ok (.scratch c.blk.id va.toNat) else bad .permission 0x01)
      | .cluster =>
        let rank := field va.toNat 20 3
        let o := field va.toNat 0 20
        (s, if va.toNat < 2 ^ 23 ∧ rank < Rec.clus c.g.record ∧ o + k.bytes ≤ c.sb then .ok (.scratch (c.rankBlock rank) o)
          else bad .permission 0x02)
    match r with
    | (s1, .error t) => (s1, .error t)
    | (s1, .ok l) =>
      if k.acc = .read then (s1, .ok l)
      else match l with
        | .scratch _ o => (s1, if o < 16 * Rec.nbobj c.g.record then bad .permission 0x04 else .ok l)
        | _ => (s1, if Rec.rbk c.g.record && s1.sideEffect l then bad .permission 0x05 else .ok l)

/-- The places of a list of lanes with their addresses, up to the first that fails. -/
def Ctx.placeAll (c : Ctx) (s : State) (k : Acs) (ls : List (Nat × DWord)) : State × List Piece × Option TrapInfo :=
  ls.foldl (fun a p =>
    match a.2.2 with
    | some _ => a
    | none => match c.place a.1 k p.2 with
      | (s, .ok l) => (s, a.2.1 ++ [⟨p.1, p.2, l⟩], none)
      | (s, .error t) => (s, a.2.1, some t)) (s, [], none)

/-- A fault of an access: a translation fault suspends the warp (R276), any other is a trap at the instruction. A word whose
walk must wait does not issue. -/
def Ctx.memFault (c : Ctx) (s : State) (t : TrapInfo) (acc : Acc) : Body :=
  if t.held then .pass
  else if t.cause = .translation then
    .susp s { cause := t.cause, detail := t.detail, addr := t.addr, acc := acc.code, recPc := c.pc }
  else .trap s t false

/-! ### Lines -/

/-- The bytes an operation touches in one line: the generic address and place of its first byte, the bytes, and whether
the sidecar goes with them. -/
structure Ask where
  va : DWord
  loc : Loc
  mask : BitVec 128
  side : Bool
deriving DecidableEq, Repr

def Loc.base : Loc → Loc
  | .mem pa => .mem (pa / 128 * 128)
  | .scratch b o => .scratch b (o / 128 * 128)
  | .peer d pa => .peer d (pa / 128 * 128)

def Loc.off : Loc → Nat
  | .mem pa => pa % 128
  | .scratch _ o => o % 128
  | .peer _ pa => pa % 128

def spanMask (o n : Nat) : BitVec 128 := BitVec.ofNat 128 ((2 ^ n - 1) <<< o)

/-- The bytes of one lane's access; no aligned access crosses a line. -/
def Piece.ask (p : Piece) (n : Nat) : Ask :=
  { va := p.va - BitVec.ofNat 64 p.loc.off, loc := p.loc.base, mask := spanMask p.loc.off n, side := false }

/-- One entry per line, in order of first mention. -/
def gatherAsks (l : List Ask) : List Ask :=
  l.foldl (fun acc a =>
    if acc.any (fun b => b.loc == a.loc) then
      acc.map (fun b => if b.loc = a.loc then { b with mask := b.mask ||| a.mask, side := b.side || a.side } else b)
    else acc ++ [a]) []

/-- The order in which line requests leave: memory by ascending line, then peers by identifier and line (R332). -/
def Loc.rank : Loc → Nat
  | .scratch _ o => o
  | .mem pa => 2 ^ 50 + pa
  | .peer d pa => 2 ^ 50 * (2 + d) + pa

/-- A list put in the order of a number of each entry; equal ones keep their order. -/
def insertBy {α : Type} (f : α → Nat) (x : α) : List α → List α
  | [] => [x]
  | y :: ys => if f x < f y then x :: y :: ys else y :: insertBy f x ys
def orderBy {α : Type} (f : α → Nat) (l : List α) : List α := l.foldl (fun a x => insertBy f x a) []

/-- A store of a line; its bytes are the whole line where it writes the sidecar. -/
def LinePut.ask (p : LinePut) : Ask :=
  { va := p.va, loc := p.loc, mask := if p.sideMask = 0 then p.mask else BitVec.allOnes 128, side := p.sideMask != 0 }

/-- The lines an operation touches. An access with sidecars takes its line whole. -/
def OpKind.asks : OpKind → List Ask
  | .load ps n _ => gatherAsks (ps.map (fun p => p.ask n))
  | .loadS p n _ => [p.ask n]
  | .loadMx ls _ _ _ => ls.map (fun p => { p.ask 128 with side := true })
  | .store ls | .storeCnt ls _ _ | .astq ls _ =>
    ls.map LinePut.ask
  | .atom ps _ ty _ _ | .redd ps _ ty => gatherAsks (ps.map (fun p => p.piece.ask (if tyWide ty then 8 else 4)))
  | _ => []

/-- Two operations touch a common byte. -/
def asksMeet (a b : List Ask) : Bool := a.any (fun x => b.any (fun y => x.loc == y.loc && x.mask &&& y.mask != 0))

/-! ### Order within a warp -/

def Op.acquires (o : Op) : Bool := bit o.ord 0
def Op.releases (o : Op) : Bool := bit o.ord 1

/-- The scope an operation is performed at: accesses that reach a scratchpad alone narrow to `.clu` (R193). -/
def Op.scope (o : Op) : Nat :=
  let a := o.kind.asks
  if !a.isEmpty && a.all (fun x => match x.loc with
    | .scratch _ _ => true
    | _ => false) then min o.scp.toNat 1 else o.scp.toNat

/-- FIFO bank or barrier object that an operation names. -/
def OpKind.unit : OpKind → Option (Bool × Nat)
  | .fifoPop f _ _ | .fifoPush f _ => some (true, f)
  | .boinit o _ | .boarv o _ | .boexp o _ => some (false, o)
  | _ => none

/-- Operation `p`, earlier and not performed, holds back `o`: a common byte in one space (R290), an acquire before it, a
release after it (R291, R470), the same FIFO bank or object in issue order (R202, R229). -/
def Op.holds (p o : Op) : Bool :=
  (p.generic == o.generic && asksMeet p.kind.asks o.kind.asks) ||
  (p.acquires && p.kind.isLsu && o.kind.isLsu) ||
  (o.releases && p.kind.isLsu) ||
  (p.kind.unit.isSome && p.kind.unit == o.kind.unit)

/-- An operation may be performed now. -/
def Win.mayPerform (wn : Win) (o : Op) : Bool :=
  wn.ops.all (fun p => decide (o.num ≤ p.num) || p.done || !(p.holds o))

end Sys2Proof.Machine
end

