-- ==== Sys2Proof/Machine/LoadStore.lean ====
section
/-! DEFINITION. Group 6: loads, stores, line accesses with sidecars, compress and expand, FIFO banks and prefetch
(R188-R203), from issue to the operation on its path. -/

namespace Sys2Proof.Machine

/-! ### Queueing a memory operation -/

/-- The registers an operation has pending, with the bits that it writes: `n` V registers from `d` in the lanes of `m`
(R33). -/
def vPend (m : Mask) (d n : Nat) : List (RegId × BitVec 1024) :=
  (List.range n).map (fun i => (.v (d + i), laneBits m))

def sPend (d n : Nat) : List (RegId × BitVec 1024) := (List.range n).map (fun i => (.s (d + i), (RegId.s (d + i)).bits))

/-- An operation of format M. -/
def mOp (f : MForm) (p : Path) (k : OpKind) (generic : Bool) (dst : List (RegId × BitVec 1024) := []) : Op :=
  { num := 0, path := p, pc := 0, kind := k, ord := f.ord, scp := f.scp, cp := f.cp, generic := generic, dst := dst }

/-- The lines of memory that an operation touches, ascending. -/
def memAsks (a : List Ask) : List (Nat × Ask) :=
  let ls := a.filterMap (fun q => match q.loc with
    | .mem pa => some (pa / 128, q)
    | _ => none)
  (sortNats (ls.map Prod.fst)).filterMap (fun n => ls.find? (fun p => p.1 = n))

/-- An operation that reads is queued and its line requests leave, in ascending line (R332, R333). -/
def Ctx.queueLoad (c : Ctx) (s : State) (o : Op) : State :=
  (memAsks o.kind.asks).foldl (fun s p =>
    s.sendLoad c.blk.core o.scope o.cp.toNat c.id c.w.win.num ⟨p.1, p.2.mask, p.2.side⟩) (c.queue s o)

/-- A queued `.blk` store of the warp would leave a sector that its release cannot write back: its page is gone. -/
def State.queuedFault (s : State) (g : Grid) (wn : Win) : Bool :=
  wn.ops.any (fun o => !o.done && o.generic && o.scope == 0 && (match o.kind with
    | .store ls | .storeCnt ls _ _ => ls.any (fun p => match p.loc, s.unitXlat g.ctx p.va .write with
      | .mem _, .error t => !t.held
      | _, _ => false)
    | _ => false))

/-- An earlier release of the warp that is not performed yet meets a fault in its write-back. -/
def State.faultAhead (s : State) (core : Nat) (w : WarpId) (g : Grid) (wn : Win) : Bool :=
  wn.ops.any (fun o => !o.done && o.releases && decide (1 ≤ o.scope)) &&
    ((s.releaseFault core w).any (fun f => !f.2.2.2.held) || s.queuedFault g wn)

/-- An operation that writes is queued. A release at `.clu` or wider first meets the faults of its write-back (R315,
R316), those of the warp's earlier stores that are still to reach the L1 among them. No store follows a release that has
met a fault (R316, log 86). -/
def Ctx.queueStore (c : Ctx) (s : State) (o : Op) : Body :=
  if s.faultAhead c.blk.core c.id c.g c.w.win then .hold s
  else if o.releases && decide (1 ≤ o.scope) then
    match s.releaseFault c.blk.core c.id with
    | some f => if f.2.2.2.held then .hold s else .susp (s.releaseWb c.blk.core c.id) (releaseSusp c.blk.core f)
    | none => if s.queuedFault c.g c.w.win then .hold s else .go { s := c.queue s o }
  else .go { s := c.queue s o }

/-- As `queue`, for an instruction that goes on to fault (R200, R201): the next instruction has the next number. -/
def Ctx.queueThenFault (c : Ctx) (s : State) (o : Op) : State :=
  (c.queue s o).setWarp c.id (fun x => { x with win := { x.win with num := x.win.num + 1 } })

/-- The lanes with an effect on memory, with their addresses. -/
def Ctx.lanesAt (c : Ctx) (g : Guard) (ad : Nat → DWord) : List (Nat × DWord) :=
  (lanesOf (c.memeffect g)).map (fun l => (l, ad l))

/-! ### Loads (R188, R189, R195) -/

/-- A load into V registers. -/
def Ctx.loadV (c : Ctx) (f : MForm) (sp : Space) (p : Path) : Body :=
  let n := widBytes f.wid
  match c.placeAll c.s ⟨sp, .read, n, n⟩ (c.lanesAt f.g (c.mAddr f)) with
  | (s, _, some t) => c.memFault s t .read
  | (s, ps, none) =>
    .go { s := c.queueLoad s (mOp f p (.load ps n (opndNum f.d)) (sp == .generic)
                (vPend (c.regwrite f.g) (opndNum f.d) (widN f.wid))) }

def execLdg (f : MForm) (s : State) : Out := issueW (shLdg f) (fun c => c.loadV f .generic .g) s
def execLds (f : MForm) (s : State) : Out := issueW (shLds f) (fun c => c.loadV f .own .s) s
def execLdcl (f : MForm) (s : State) : Out := issueW (shLds f) (fun c => c.loadV f .cluster .s) s

def execSldg (f : MForm) (s : State) : Out :=
  issueW (shSldg f) (fun c =>
    let n := widBytes f.wid
    if !c.anylive then c.done []
    else match c.placeAll c.s ⟨.generic, .read, n, n⟩ [(0, c.mAddr f 0)] with
      | (s, p :: _, none) =>
        .go { s := c.queueLoad s (mOp f .g (.loadS p n (opndNum f.d)) true (sPend (opndNum f.d) (widN f.wid))) }
      | (s, _, t) => c.memFault s (t.getD { cause := .misaligned }) .read) s

/-! ### Stores (R189, R190, R195) -/

/-- `n` bytes of value `x` added to the lines of a store; a later lane prevails (R190). -/
def addBytes (ls : List LinePut) (p : Piece) (n x : Nat) : List LinePut :=
  let o := p.loc.off
  let m := spanMask o n
  let d : VReg := BitVec.ofNat 1024 ((x % 2 ^ (8 * n)) <<< (8 * o))
  if ls.any (fun l => l.loc == p.loc.base) then
    ls.map (fun l => if l.loc = p.loc.base then { l with data := merge (byteBits m) l.data d, mask := l.mask ||| m } else l)
  else ls ++ [{ va := p.va - BitVec.ofNat 64 o, loc := p.loc.base, data := d, mask := m, side := 0, sideMask := 0 }]

/-- The lines of a store of `n` bytes per piece, lanes ascending. -/
def linePuts (ps : List Piece) (n : Nat) (x : Nat → Nat) : List LinePut :=
  ps.foldl (fun ls p => addBytes ls p n (x p.lane)) []

/-- A lane's data from `k` V registers (R189). -/
def Ctx.vData (c : Ctx) (d k : Nat) : Nat → Nat :=
  let rs := (List.range k).map (fun i => c.vreg (d + i))
  fun l => natLE (rs.flatMap (fun r => bytesLE 4 (lane r l).toNat))

def Ctx.storeV (c : Ctx) (f : MForm) (sp : Space) (p : Path) : Body :=
  let n := widBytes f.wid
  match c.placeAll c.s ⟨sp, .write, n, n⟩ (c.lanesAt f.g (c.mAddr f)) with
  | (s, _, some t) => c.memFault s t .write
  | (s, ps, none) =>
    c.queueStore s (mOp f p (.store (linePuts ps n (c.vData (opndNum f.d) (widN f.wid)))) (sp == .generic))

def execStg (f : MForm) (s : State) : Out := issueW (shStg f) (fun c => c.storeV f .generic .w) s
def execSts (f : MForm) (s : State) : Out := issueW (shSts f) (fun c => c.storeV f .own .s) s
def execStcl (f : MForm) (s : State) : Out := issueW (shSts f) (fun c => c.storeV f .cluster .s) s

/-- The datum of `SSTG`. -/
def Ctx.sData (c : Ctx) (f : MForm) : Nat :=
  match f.wid.toNat with
  | 4 => natLE ((List.range 4).flatMap (fun i => bytesLE 4 (c.sreg (opndNum f.d + i)).toNat))
  | 3 => c.uniN .n64 f.d
  | _ => c.uniN .n32 f.d

def execSstg (f : MForm) (s : State) : Out :=
  issueW (shSstg f) (fun c =>
    let n := widBytes f.wid
    if !c.anylive then c.done []
    else match c.placeAll c.s ⟨.generic, .write, n, n⟩ [(0, c.mAddr f 0)] with
      | (s, _, some t) => c.memFault s t .write
      | (s, ps, none) => c.queueStore s (mOp f .w (.store (linePuts ps n (fun _ => c.sData f))) true)) s

/-! ### Lines with sidecars (R197-R199) -/

/-- The lines of a layout's unit, as lanes 0 to 2. -/
def unitLines (wid : BitVec 3) (a : DWord) : List (Nat × DWord) :=
  (List.range (if wid = 2 then 3 else 1)).map (fun i => (i, a + BitVec.ofNat 64 (128 * i)))

/-- The lines of an access, checked: the unit's alignment first, then each line. -/
def Ctx.placeUnit (c : Ctx) (wid : BitVec 3) (acc : Acc) (a : DWord) : State × List Piece × Option TrapInfo :=
  if a.toNat % (if wid = 2 then 384 else 128) ≠ 0 then (c.s, [], some { cause := .misaligned, addr := a })
  else c.placeAll c.s ⟨.generic, acc, 128, 128⟩ (unitLines wid a)

/-- The E slots that a line load writes: those of blocks with a written lane, and the unused ones when any is (R56). -/
def eSlots (wid : BitVec 3) (m : Mask) : BitVec 8 :=
  let per := if wid = 1 then 4 else 8
  let used := if wid = 1 then 8 else 4
  BitVec.ofNat 8 (packNat 1 (fun j =>
    b2n (if j < used then m.toNat >>> (per * j) % 2 ^ per != 0 else m != 0)) 8)

/-- R56, R57. The E slots follow the lanes that access memory: where the only lanes with an effect on registers are helper
lanes, they take 0 and the E slots keep their values (DESIGN CHOICE, log 83: nothing is read, and no rule names a value). -/
def execLdmx (f : MForm) (s : State) : Out :=
  issueW (shLdmx f) (fun c =>
    let m := c.regwrite f.g
    let me := c.memeffect f.g
    let d := opndNum f.d
    let regs := layN f.wid
    let go (s : State) (ps : List Piece) (es : BitVec 8) : Body :=
      .go { s := c.queueLoad s (mOp f .g (.loadMx ps f.wid.toNat d me) true
        (vPend m d regs ++ (List.range regs).map (fun i => (.e (d + i), (slotBits es).setWidth 1024)))) }
    if me = 0 then go c.s [] 0
    else match c.placeUnit f.wid .read (c.mAddr f 0) with
      | (s, _, some t) => c.memFault s t .read
      | (s, ps, none) => go s ps (eSlots f.wid m)) s

/-- Line and slot of the scale of block `b` of a triple (R58). -/
def tripleSlot (b : Nat) : Nat × Nat := if b < 6 then (0, b) else if b < 11 then (1, b - 6) else (2, b - 11)

/-- The lines that `STMX` writes in layouts 0 and 1: one line. -/
def stmxLine (wide8 : Bool) (p : Piece) (v : VReg) (e : EReg) (m : Mask) : List LinePut :=
  let used := eSlots (if wide8 then 1 else 0) m
  [{ va := p.va, loc := p.loc, data := v, mask := laneByteMask m,
     side := ofSlots (fun j => if wide8 || j < 4 then slot e j else 0x7F), sideMask := used }]

/-- The three bytes of lane `l` of register `q` stand at byte 3(32q + l) of a triple (R58, R199). -/
def stmxTriple (ps : List Piece) (v : Nat → VReg) (e : Nat → EReg) (m : Mask) : List LinePut :=
  let data := natLE ((List.range 4).flatMap (fun q => (List.range 32).flatMap (fun l => bytesLE 3 (lane (v q) l).toNat)))
  let mask := packNat 3 (fun i => if bit m (i % 32) then 7 else 0) 128
  let scale (b : Nat) : Byte := slot (e (b / 4)) (b % 4)
  let blk (b : Nat) : Bool := m.toNat >>> (8 * (b % 4)) % 256 != 0
  let lines := ps.map (fun p =>
    let owner (j : Nat) : Option Nat := (List.range 16).find? (fun b => tripleSlot b == (p.lane, j))
    ({ va := p.va, loc := p.loc,
       data := BitVec.ofNat 1024 (data >>> (1024 * p.lane)),
       mask := BitVec.ofNat 128 (mask >>> (128 * p.lane)),
       side := ofSlots (fun j => match owner j with
         | some b => scale b
         | none => 0x7F),
       sideMask := BitVec.ofNat 8 (packNat 1 (fun j => match owner j with
         | some b => b2n (blk b)
         | none => 1) 8) } : LinePut))
  lines.filter (fun l => l.mask ≠ 0)

def execStmx (f : MForm) (s : State) : Out :=
  issueW (shStmx f) (fun c =>
    let me := c.memeffect f.g
    let d := opndNum f.d
    if me = 0 then c.queueStore c.s (mOp f .w (.store []) true)
    else match c.placeUnit f.wid .write (c.mAddr f 0) with
      | (s, _, some t) => c.memFault s t .write
      | (s, ps, none) =>
        c.queueStore s (mOp f .w (.store
          (if f.wid = 2 then stmxTriple ps (fun q => c.vreg (d + q)) (fun q => c.ereg (d + q)) me
           else ps.flatMap (fun p => stmxLine (f.wid == 1) p (c.vreg d) (c.ereg d) me))) true)) s

/-! ### Compress and expand (R200, R201) -/

/-- Consecutive elements for a list of lanes from an address. -/
def elemsAt (n : Nat) (a : DWord) (ls : List Nat) : List (Nat × DWord) :=
  (ls.zip (List.range ls.length)).map (fun p => (p.1, a + BitVec.ofNat 64 (n * p.2)))

def execCmpst (f : MForm) (s : State) : Out :=
  issueW (shCmpst f) (fun c =>
    let n := widBytes f.wid
    let d := opndNum f.d
    let a := { f with b := .none }
    let b := c.vData (opndNum f.b) (widN f.wid)
    let op (ps : List Piece) : Op :=
      mOp f .w (.storeCnt (linePuts ps n b) d ps.length) true (if c.anyActive then sPend d 1 else [])
    match c.placeAll c.s ⟨.generic, .write, n, n⟩ (elemsAt n (c.mAddr a 0) (lanesOf (c.memeffect f.g))) with
    | (s, ps, none) => c.queueStore s (op ps)
    | (s, ps, some t) => c.memFault (c.queueThenFault s (op ps)) t .write) s

def execExpld (f : MForm) (s : State) : Out :=
  issueW (shExpld f) (fun c =>
    let n := widBytes f.wid
    let d := opndNum f.d
    let op (ps : List Piece) (m : Mask) : Op := mOp f .g (.load ps n d) true (vPend m d (widN f.wid))
    let m := c.regwrite f.g
    match c.placeAll c.s ⟨.generic, .read, n, n⟩ (elemsAt n (c.mAddr f 0) (lanesOf (c.memeffect f.g))) with
    | (s, ps, none) => .go { s := c.queueLoad s (op ps m) }
    | (s, ps, some t) =>
      let first := ((lanesOf (c.memeffect f.g))[ps.length]?).getD 32
      let m1 := m &&& BitVec.ofNat 32 (2 ^ first - 1)
      c.memFault (if m1 = 0 then s else c.queueThenFault s (op ps m1)) t .read) s

/-! ### FIFO banks (R202, R203) -/

/-- R202: with no live lane the instruction does nothing; otherwise the index is checked, and the operation queued. -/
def Ctx.fifo (c : Ctx) (f : MForm) (k : Nat → OpKind) (dst : List (RegId × BitVec 1024)) : Body :=
  let n := c.uni32 f.a % 8
  if !c.anylive then c.done []
  else if Rec.nfifo c.g.record ≤ n then c.trap .fifoMisuse 0x01
  else .go { s := c.queue c.s (mOp f .s (k n) false dst) }

def execFifopop (f : MForm) (s : State) : Out :=
  issueW (shFifopop f) (fun c =>
    c.fifo f (fun n => .fifoPop n (opndNum f.d) (c.memeffect f.g)) (vPend (c.regwrite f.g) (opndNum f.d) 1)) s

def execFifopush (f : MForm) (s : State) : Out :=
  issueW (shFifopush f) (fun c =>
    c.fifo f (fun n => .fifoPush n (c.vreg (opndNum f.d) &&& laneBits (c.memeffect f.g))) []) s

/-! ### Prefetch (R196) -/

/-- The line of memory that a prefetch of an address reaches; unmapped, forbidden, peer and in-motion addresses give
none. -/
def State.prefLine (s : State) (ctx : Nat) (g : DWord) : Option Nat :=
  match s.route ctx g .read with
  | .heap pa => some (pa / 128)
  | .tables => match s.walk ctx g with
    | .ok l =>
      if pteAllows l.pte .read && pteKind l.pte != 2 then
        match s.leafPlace l.pte (g.toNat % pageSize l.lv) with
        | .mem pa => some (pa / 128)
        | _ => none
      else none
    | .error _ => none
  | _ => none

/-- One line brought closer: into the L2, and into the L1 unless CP forbids it; a line on its way fills the L1 when it
comes (R196). -/
def State.prefetch (s : State) (core cp line : Nat) : State :=
  let r : LineReq := ⟨line, BitVec.allOnes 128, false⟩
  if s.lineReady core 0 r && !(s.locked line) then
    if cp = 3 then s.l2Touch (dieOfCore core) line else (s.loadLine core 0 cp none r).1
  else
    let s1 := s.requestLine (dieOfCore core) line cp
    if cp = 3 then s1
    else s1.setCore core (fun k => if k.prefs.any (fun p => p.1 == line) then k else { k with prefs := k.prefs ++ [(line, cp)] })

/-- A line has come to the points of coherence: the prefetches that waited for it fill their L1. -/
def State.landPrefs (s : State) (line : Nat) : State :=
  (List.range s.cores.length).foldl (fun s c =>
    match (s.core c).prefs.find? (fun p => p.1 == line) with
    | some p =>
      let r : LineReq := ⟨line, BitVec.allOnes 128, false⟩
      if s.lineReady c 0 r then
        ((s.loadLine c 0 p.2 none r).1).setCore c (fun k => { k with prefs := k.prefs.filter (fun p => p.1 != line) })
      else s
    | none => s) s

def execPref (f : MForm) (s : State) : Out :=
  issueW (shPref f) (fun c =>
    .go { s := (dedup ((c.lanesAt f.g (c.mAddr f)).filterMap (fun p => c.s.prefLine c.g.ctx p.2))).foldl
            (fun s n => s.prefetch c.blk.core f.cp.toNat n) c.s }) s

end Sys2Proof.Machine
end

