-- ==== Sys2Proof/Machine/Atomics.lean ====
section
/-! DEFINITION. Group 7 at issue: atomics (R204-R206), the deterministic reduction (R207-R210), fences (R211, R306,
R470) and the path counters (R212, R213). -/

namespace Sys2Proof.Machine

/-- An operation of the compact layout on path A. -/
def cOp (f : CForm) (k : OpKind) (dst : List (RegId × BitVec 1024) := []) : Op :=
  { num := 0, path := .a, pc := 0, kind := k, ord := f.ord, scp := f.scp, cp := f.cp, generic := true, dst := dst }

/-- The places of an atomic's lanes. -/
def Ctx.atomPlaces (c : Ctx) (f : CForm) : State × List Piece × Option TrapInfo :=
  let n := tyBytes (tyOfCode f.ty)
  c.placeAll c.s ⟨.generic, .atomic, n, n⟩ (c.lanesAt f.g (c.cAddr f))

/-- An atomic is queued with each lane's operand and compare value. -/
def Ctx.atomic (c : Ctx) (f : CForm) (cas : Bool) (val cmp : Nat → Nat) (dst : Option Nat) : Body :=
  let t := tyOfCode f.ty
  match c.atomPlaces f with
  | (s, _, some e) => c.memFault s e .atomic
  | (s, ps, none) =>
    c.queueStore s (cOp f
      (.atom (ps.map (fun p => ⟨p, BitVec.ofNat 64 (val p.lane), BitVec.ofNat 64 (cmp p.lane)⟩)) f.sub.toNat t cas dst)
      (match dst with
       | some d => vPend (c.regwrite f.g) d (if tyWide t then 2 else 1)
       | none => []))

def execAtom (f : CForm) (s : State) : Out :=
  issueW (shAtom f) (fun c =>
    c.atomic f false (c.vecN (tyOfCode f.ty) f.b) (fun _ => 0) (some (opndNum f.d))) s

def execAcas (f : CForm) (s : State) : Out :=
  issueW (shAcas f) (fun c =>
    let n := if tyWide (tyOfCode f.ty) then 2 else 1
    c.atomic f true (c.vData (opndNum f.b + n) n) (c.vData (opndNum f.b) n) (some (opndNum f.d))) s

def execRed (f : CForm) (s : State) : Out :=
  issueW (shRed f) (fun c => c.atomic f false (c.vecN (tyOfCode f.ty) f.b) (fun _ => 0) none) s

/-! ### REDD (R207-R210) -/

/-- A place that no `REDD` may name (R207). -/
def reddRefused : Loc → Bool
  | .mem pa => tierOf pa != some 0 && tierOf pa != some 1
  | _ => true

/-- Each lane is combined, entered or spilled, lanes ascending; the spilled ones. -/
def State.reddLanes (s : State) (w : WarpId) (t : Ty) (op : Nat) (ps : List AtomPiece) : State × List AtomPiece :=
  ps.foldl (fun a p =>
    match p.piece.loc with
    | .mem pa =>
      let r := a.1.reddLane w pa t op p.val.toNat
      (r.1, if r.2 then a.2 ++ [p] else a.2)
    | _ => a) (s, [])

/-- A kernel without entries is refused first; a forbidden place raises PERMISSION 0x03 at its lane (R207). -/
def execRedd (f : CForm) (s : State) : Out :=
  issueW (shRedd f) (fun c =>
    let t := tyOfCode f.ty
    let b := c.vecN t f.b
    if Rec.nredd c.g.record = 0 then c.trap .resource 0x04
    else match c.atomPlaces f with
      | (s, ps, e) =>
        match ps.find? (fun p => reddRefused p.loc), e with
        | some p, _ => .trap s { cause := .permission, detail := 0x03, addr := p.va } false
        | none, some e => c.memFault s (if e.cause = .permission ∧ (e.detail = 0x04 ∨ e.detail = 0x01) then { e with detail := 0x03 } else e) .atomic
        | none, none =>
          let r := s.reddLanes c.id t f.sub.toNat (ps.map (fun p => ⟨p, BitVec.ofNat 64 (b p.lane), 0⟩))
          .go { s := c.queue r.1 (cOp f (.redd r.2 f.sub.toNat t)) }) s

/-- R210: the entries drain; without any the instruction has no effect. -/
def execRflush (f : JForm) (s : State) : Out :=
  issueW (shRflush f) (fun c =>
    if c.w.redd.isEmpty then c.done []
    else .go { s := c.queue (c.s.reddDrain c.id) { num := 0, path := .a, pc := 0, kind := .rflush } }) s

/-! ### Fences (R211, R306, R470) -/

/-- R211, R470: `.acq` waits for earlier loads and atomic reads, `.rel` and `.ar` for every earlier LSU access. -/
def execFence (f : JForm) (s : State) : Out :=
  issueW (shFence f) (fun c =>
    let ord : BitVec 2 := f.x.extractLsb' 3 2
    let scp := (f.x.extractLsb' 5 3).toNat
    if ord = 1 then
      if c.w.win.performed OpKind.reads then .go { s := c.s.warpAcquire c.blk.core c.id scp } else .pass
    else c.release scp false (fun s => .go { s := if ord = 3 then s.warpAcquire c.blk.core c.id scp else s })) s

/-- R306: a warp's own accesses are of class LSU; the writes of the other classes that it has observed are those that its
die's clock counts. -/
def execFencex (f : JForm) (s : State) : Out :=
  issueW (shFencex f) (fun c =>
    let scp := (f.x.extractLsb' 8 3).toNat
    -- Copy writes that the warp has observed come before the stream's later accesses (R306).
    let shown (s : State) : State :=
      if bit f.x 1 && (bit f.x 2 || bit f.x 3) then s.setBlock c.blk.id (fun b => b.showStream c.id.warp) else s
    if bit f.x 0 then c.release scp true (fun s => .go { s := (shown s).warpAcquire c.blk.core c.id scp })
    else if 3 ≤ scp && !(c.s.settled c.die true) then .pass
    else .go { s := (shown (c.s.recall scp)).warpAcquire c.blk.core c.id scp }) s

/-! ### Path counters (R212, R213) -/

/-- R212: the warp's next instruction issues when the counter is at most the threshold. -/
def execWaitc (f : RForm) (s : State) : Out :=
  issueW (shWaitc f) (fun c =>
    c.doneWith (fun x => { x with wait := some (.path (pathOfCode f.sub.toNat) (c.uni32 f.a)) })) s

/-- PATHS (R39): the seven counters in 6-bit fields, G lowest. -/
def Win.paths (wn : Win) : Nat := packNat 6 (fun i => wn.count (pathOfCode (i + 1))) 7

def execRdcnt (f : RForm) (s : State) : Out :=
  issueW (shRdcnt f) (fun c =>
    if f.sub = 0 then c.done (outS c.anyActive (opndNum f.d) true c.w.win.paths)
    else c.done (outS c.anyActive (opndNum f.d) false (c.w.win.count (pathOfCode f.sub.toNat)))) s

end Sys2Proof.Machine
end

