-- ==== Sys2Proof/Machine/Barriers.lean ====
section
/-! DEFINITION. Numbered, cluster and die barriers (R42, R222-R227, R248, R249, R281, R295), barrier objects (R228,
R229), the end of a warp (R17, R224), and the group-9 instructions with their time-outs. -/

namespace Sys2Proof.Machine

/-! ### Phases (R223, R225) -/

/-- One party arrives; the first arrival of a phase starts the time-out (R227). `after`: earlier accesses of the party
that come before what a wait for the phase orders (R295). -/
def NBar.arrive (b : NBar) (tb : Nat) (who : Option Nat) (after : List (WarpId × Nat) := []) : NBar :=
  { b with
    arr := b.arr + 1, torem := if b.begun then b.torem else tb, begun := true, after := b.after ++ after,
    seqa := b.seqa || who.isNone,
    amask := match who with
      | some w => b.amask ||| ((1 : Mask) <<< w)
      | none => b.amask }

def NBar.full (b : NBar) : Bool := b.arr == b.exp && decide (1 ≤ b.arr)
def NBar.complete (b : NBar) : NBar :=
  { b with phase := !b.phase, arr := 0, amask := 0, seqa := false, fallen := false, torem := 0, begun := false, after := [],
           past := b.past ++ b.after }
/-- A party leaves (R224, R249); `arrived` says whether it had arrived in this phase. -/
def NBar.leave (b : NBar) (arrived : Bool) : NBar :=
  { b with exp := b.exp - 1, arr := if arrived then b.arr - 1 else b.arr }

def CBar.arrive (b : CBar) (tb : Nat) (after : List (WarpId × Nat) := []) : CBar :=
  { b with arr := b.arr + 1, torem := if b.begun then b.torem else tb, begun := true, after := b.after ++ after }
def CBar.full (b : CBar) : Bool := b.arr == b.exp && decide (1 ≤ b.arr)
def CBar.complete (b : CBar) : CBar :=
  { b with phase := !b.phase, arr := 0, fallen := false, torem := 0, begun := false, after := [], past := b.past ++ b.after }
def CBar.leave (b : CBar) (arrived : Bool) : CBar :=
  { b with exp := b.exp - 1, arr := if arrived then b.arr - 1 else b.arr }

/-- Scratchpad accesses of a warp below a number are not all performed. -/
def State.scratchOut (s : State) (p : WarpId × Nat) : Bool :=
  match s.win? (.warp p.1) with
  | some wn => wn.ops.any (fun o => decide (o.num < p.2) && !o.done && o.kind.scratch)
  | none => false

/-- An access of a warp comes after other warps' scratchpad accesses that are not performed yet (R295). -/
def State.syncHeld (s : State) (x : Warp) (num : Nat) : Bool :=
  x.sync.any (fun p => decide (p.2.2 ≤ num) && s.scratchOut (p.1, p.2.1))

/-- A warp whose wait returns: its later accesses come after the scratchpad accesses that the arrivals order (R295). -/
def State.ordered (s : State) (l : List (WarpId × Nat)) (x : Warp) : Warp :=
  { x with sync := x.sync.filter (fun p => s.scratchOut (p.1, p.2.1)) ++
      (l.filter s.scratchOut).map (fun p => (p.1, p.2, x.win.num)) }

/-! ### The end of a wait -/

/-- A warp whose wait is over continues at the successor of the waiting instruction. -/
def Warp.resume (x : Warp) : Warp := { x with wait := none, pc := nextPc x.pc }
def Seq.resume (q : Seq) : Seq := { q with wait := none, pc := nextPc q.pc }

/-- Ends the waits of the warps that `p` selects; each wait acts as an acquire at scope `scp`, which orders the scratchpad
accesses `l` too (R295). -/
def State.wake (s : State) (scp : Nat) (l : List (WarpId × Nat)) (p : Block → WarpId → Warp → Bool) : State :=
  (s.blocks.flatMap (fun b => ((b.warpIds.zip b.warps).filter (fun q => p b q.1 q.2)).map (fun q => (b.core, q.1)))).foldl
    (fun s q => (s.setWarp q.2 (fun x => s.ordered l x.resume)).warpAcquire q.1 q.2 scp) s

/-! ### Numbered barriers -/

def Block.bar (b : Block) (n : Nat) : NBar := (b.bars[n]?).getD {}
def State.setBar (s : State) (b : BlockId) (n : Nat) (f : NBar → NBar) : State :=
  s.setBlock b (fun x => { x with bars := x.bars.modify n f })

/-- A phase that completes keeps of the earlier phases what is still to be performed. -/
def State.trim (s : State) (l : List (WarpId × Nat)) : List (WarpId × Nat) := l.filter s.scratchOut

/-- Completes the phase of a numbered barrier when every party has arrived. -/
def State.closeBar (s : State) (b : BlockId) (n : Nat) : State :=
  match s.block? b with
  | none => s
  | some blk =>
    if !(blk.bar n).full then s
    else
      let ph := (blk.bar n).complete.phase
      let all := s.trim (blk.bar n).complete.past
      let past (o : Option Wait) : Bool := match o with
        | some (.numbered m p) => m == n && p != ph
        | _ => false
      ((s.setBar b n (fun k => { k.complete with past := all })).wake 0 all (fun x _ w => x.id == b && past w.wait)).setSeq b (fun q =>
        if past q.wait then q.resume else q)

/-! ### Cluster and die barriers -/

/-- The cluster index of a block (R10, R225). -/
def clusterOf (g : Grid) (b : Nat) : Nat := b / Rec.clus g.record
def Grid.cbar (g : Grid) (c : Nat) : CBar := tget {} g.cbars c
def Grid.dbar (g : Grid) (p : Nat) : CBar := (g.dbars[p]?).getD {}
def State.setCbar (s : State) (g : BitVec 32) (c : Nat) (f : CBar → CBar) : State :=
  s.setGrid g (fun x => { x with cbars := tset {} c (f (x.cbar c)) x.cbars })
def State.setDbar (s : State) (g : BitVec 32) (p : Nat) (f : CBar → CBar) : State :=
  s.setGrid g (fun x => { x with dbars := x.dbars.modify p f })

/-- Changes every warp of the grid's blocks that `p` selects. -/
def State.mapWarps (s : State) (p : Block → Bool) (f : Warp → Warp) : State :=
  { s with blocks := s.blocks.map (fun b => if p b then { b with warps := b.warps.map f } else b) }

def State.closeCbar (s : State) (gid : BitVec 32) (c : Nat) : State :=
  match s.grid? gid with
  | none => s
  | some g =>
    if !(g.cbar c).full then s
    else
      let ph := (g.cbar c).complete.phase
      let all := s.trim (g.cbar c).complete.past
      let mine (b : Block) : Bool := b.id.grid == gid && clusterOf g b.id.block == c
      ((s.setCbar gid c (fun k => { k.complete with past := all })).mapWarps mine (fun x => { x with cArr := false })).wake 1 all (fun b _ w =>
        mine b && (match w.wait with
          | some (.cluster p) => p != ph
          | _ => false))

def State.closeDbar (s : State) (gid : BitVec 32) (d : Nat) : State :=
  match s.grid? gid with
  | none => s
  | some g =>
    if !(g.dbar d).full then s
    else
      let ph := (g.dbar d).complete.phase
      let all := s.trim (g.dbar d).complete.past
      let mine (b : Block) : Bool := b.id.grid == gid && b.portion == d
      ((s.setDbar gid d (fun k => { k.complete with past := all })).mapWarps mine (fun x => { x with dArr := false })).wake 2 all (fun b _ w =>
        mine b && (match w.wait with
          | some (.die p) => p != ph
          | _ => false))

/-! ### The end of a warp (R17, R208, R224) -/

/-- A warp terminates: its results are written, its helper lanes retire, its REDD entries drain, and it leaves its
barriers. -/
def State.terminate (s : State) (w : WarpId) : State :=
  match s.warp? w, s.grid? w.grid with
  | some (b, x), some g =>
    let s1 := (s.setWarp w (fun x =>
      { x.flush with retired := x.retired ||| x.helper, terminated := true, wait := none, pend := [] })).reddDrain w
    let s2 := (List.range 16).foldl (fun s n =>
      if n < Rec.nbar g.record then
        (s.setBar b.id n (fun k =>
          let a := bit k.amask w.warp
          { k.leave a with amask := k.amask &&& ~~~((1 : Mask) <<< w.warp) })).closeBar b.id n
      else s) s1
    let c := clusterOf g w.block
    let s3 := (s2.setCbar w.grid c (fun k => k.leave x.cArr)).closeCbar w.grid c
    (s3.setDbar w.grid b.portion (fun k => k.leave x.dArr)).closeDbar w.grid b.portion
  | _, _ => s

/-! ### The diagnostic record (R270) -/

/-- The next instruction that a warp issues: a wait at a barrier or an object has issued already, and its PC stands
until it ends. -/
def Warp.nextIssue (x : Warp) : DWord :=
  match x.wait with
  | none | some (.path _ _) => x.pc
  | some (.numbered _ _) | some (.cluster _) | some (.die _) | some (.object _ _ _) => nextPc x.pc

/-- `DPC` of the warps of a block that `p` selects. -/
def dpcOf (b : Block) (p : Nat → Warp → Bool) : List DWord :=
  ((List.range b.warps.length).zip b.warps).map (fun q => if !q.2.terminated && p q.1 q.2 then q.2.nextIssue else 0)

def maskOfWarps (b : Block) (p : Nat → Warp → Bool) : Word :=
  ofMask (fun i => match b.warps[i]? with
    | some x => !x.terminated && p i x
    | none => false)

def diagNumbered (b : Block) (n : Nat) : Diag :=
  let k := b.bar n
  let late (i : Nat) (_ : Warp) : Bool := !(bit k.amask i)
  let ds := k.seqp && !k.seqa
  { dmask := maskOfWarps b late, dseq := ds, darr := k.arr, dexp := k.exp, dpc := dpcOf b late,
    dspc := if ds then (b.seq.map (fun q => q.pc)).getD 0 else 0 }

/-- The ranks of a cluster whose block has a warp that has not arrived. -/
def State.lateRanks (s : State) (g : Grid) (c : Nat) : Word :=
  ofMask (fun r => decide (r < Rec.clus g.record) && (match s.block? ⟨g.id, c * Rec.clus g.record + r⟩ with
    | some b => b.warps.any (fun x => !x.terminated && !x.cArr)
    | none => false))

def State.diagCluster (s : State) (b : Block) (g : Grid) : Diag :=
  let c := clusterOf g b.id.block
  { dmask := s.lateRanks g c, darr := (g.cbar c).arr, dexp := (g.cbar c).exp, dpc := dpcOf b (fun _ x => !x.cArr) }

def diagDie (b : Block) (g : Grid) : Diag :=
  { darr := (g.dbar b.portion).arr, dexp := (g.dbar b.portion).exp, dpc := dpcOf b (fun _ x => !x.dArr) }

/-! ### Barrier objects (R228, R229) -/

/-- A barrier object, as its 16 scratchpad bytes hold it. -/
structure BObj where
  bytes : Int
  expa : Nat
  arr : Nat
  phase : Bool
  err : Bool
  valid : Bool
  done : Nat
deriving DecidableEq, Repr

def BObj.ofBytes (lo st dn : Nat) : BObj :=
  { bytes := sval 32 lo, expa := field st 0 10, arr := field st 10 10, phase := field st 20 1 == 1,
    err := field st 21 1 == 1, valid := field st 22 1 == 1, done := dn }

def Block.obj (b : Block) (o : Nat) : BObj :=
  BObj.ofBytes (b.snat (16 * o) 4) (b.snat (16 * o + 4) 4) (b.snat (16 * o + 8) 4)

def BObj.toBytes (k : BObj) : List Byte :=
  bytesLE 4 (wrapW 32 k.bytes) ++
    bytesLE 4 (k.expa % 1024 + 1024 * (k.arr % 1024) + 2 ^ 20 * b2n k.phase + 2 ^ 21 * b2n k.err + 2 ^ 22 * b2n k.valid) ++
    bytesLE 4 k.done ++ bytesLE 4 0

/-- What follows each object operation: the balance saturates with ERR, and a full phase completes. -/
def BObj.close (k : BObj) : BObj :=
  let k1 := if k.bytes < -(2 ^ 31) then { k with err := true, bytes := -(2 ^ 31) }
    else if (2 ^ 31 : Int) ≤ k.bytes then { k with err := true, bytes := 2 ^ 31 - 1 } else k
  if k1.valid && k1.arr == k1.expa && k1.bytes == 0 then
    { k1 with phase := !k1.phase, arr := 0, done := (k1.done + 1) % 2 ^ 32 }
  else k1

/-- `BOWAIT` on an object need not wait. -/
def BObj.passes (k : BObj) (p : Bool) : Bool := k.phase != p || k.err || !k.valid

/-- One operation on an object, and the end of the waits that it ends. An object that is not initialised takes sums too, so
that its bytes need not read as zero afterwards (DESIGN CHOICE, log 104: the steps of R229 test no VALID). -/
def State.objOp (s : State) (b : BlockId) (o : Nat) (f : BObj → BObj) : State :=
  let s1 := s.setBlock b (fun x => x.sput (16 * o) (f (x.obj o)).toBytes)
  match s1.block? b with
  | none => s1
  | some blk =>
    let k := blk.obj o
    let ends (x : Block) (w : Warp) : Bool := x.id == b && (match w.wait with
      | some (.object m p _) => m == o && k.passes p
      | _ => false)
    let seen := ((blk.warpIds.zip blk.warps).filter (fun q => ends blk q.2)).map (fun q => q.1.warp)
    (s1.setBlock b (fun x => seen.foldl (fun x w => x.seeObj w o) x)).wake 1 [] (fun x _ w => ends x w)

def objInit (c : Nat) : BObj := { bytes := 0, expa := c, arr := 0, phase := false, err := false, valid := true, done := 0 }

/-- Bytes counted by an engine. -/
def State.objBytes (s : State) (b : BlockId) (o n : Nat) : State :=
  if o = 0xFF then s else s.objOp b o (fun k => { k with bytes := k.bytes - n }.close)

/-- ERR of an object that an engine's operation counts into (R220). -/
def State.objErr (s : State) (b : BlockId) (o : Nat) : State :=
  if o = 0xFF then s else s.objOp b o (fun k => { k with err := true })

def diagObject (b : Block) (o : Nat) : Diag :=
  let k := b.obj o
  { darr := k.arr, dexp := k.expa, dbytes := wrapW 32 k.bytes, dpc := dpcOf b (fun _ _ => true) }

/-! ### Waiting -/

/-- The trap FLAG of a wait (R227). -/
def flagInfo (kind : Nat) (parity : Bool) (addr : Nat) : TrapInfo :=
  { cause := .flag, detail := BitVec.ofNat 8 (b2n parity + 2 * kind), addr := BitVec.ofNat 64 addr }

/-- The block as a state holds it now. -/
def Ctx.blkIn (c : Ctx) (s : State) : Block := (s.block? c.blk.id).getD c.blk

/-- A wait that holds stays at its instruction; one on a phase whose flag has fallen is abandoned outside a handler: its
diagnostic record has the warp at the instruction after the wait. -/
def Ctx.wait (c : Ctx) (s : State) (passes fallen : Bool) (w : Wait) (t : TrapInfo) (diag : State → Block → Diag)
    (scp : Nat) (past : List (WarpId × Nat)) : Body :=
  let s1 := s.setWarp c.id (fun x => { x with wait := some w })
  if passes then .go { s := (s.setWarp c.id (s.ordered past)).warpAcquire c.blk.core c.id scp }
  else if fallen && !c.w.inTrap then .flag s t (diag s1 (c.blkIn s1))
  else .go { s := s1, pc := some c.pc }

def Ctx.gridIn (c : Ctx) (s : State) : Grid := (s.grid? c.g.id).getD c.g
def Ctx.tb (c : Ctx) : Nat := Rec.tb c.g.record
def Ctx.nbar (c : Ctx) : Nat := Rec.nbar c.g.record

/-- Waits on a numbered barrier with a parity. -/
def Ctx.waitBar (c : Ctx) (s : State) (n : Nat) (p : Bool) : Body :=
  let k := (c.blkIn s).bar n
  c.wait s (k.phase != p) k.fallen (.numbered n p) (flagInfo 0 p n) (fun _ b => diagNumbered b n) 0 k.past

def Ctx.waitCbar (c : Ctx) (s : State) (p : Bool) : Body :=
  let g := c.gridIn s
  let k := g.cbar (clusterOf g c.id.block)
  c.wait s (k.phase != p) k.fallen (.cluster p) (flagInfo 1 p 0) (fun s b => s.diagCluster b g) 1 k.past

def Ctx.waitDbar (c : Ctx) (s : State) (p : Bool) : Body :=
  let g := c.gridIn s
  let k := g.dbar c.blk.portion
  c.wait s (k.phase != p) k.fallen (.die p) (flagInfo 2 p 0) (fun _ b => diagDie b g) 2 k.past

/-- An arrival: held while the warp has arrived in this phase, and under `.xp` until its earlier accesses are performed
(R223, R226). -/
def Ctx.arrive (c : Ctx) (already xp : Bool) (scp : Nat) (k : State → Body) : Body :=
  if already then .pass
  else if xp then c.release scp true k else k c.s

/-- What an arrival orders (R295): the warp's own scratchpad accesses up to here, and those that its earlier waits have
ordered before it (R292). -/
def Ctx.after (c : Ctx) : List (WarpId × Nat) :=
  c.s.trim ((c.id, c.w.win.num) :: c.w.sync.map (fun p => (p.1, p.2.1)))

def uniParity (c : Ctx) (o : Opnd) : Bool := c.uni32 o % 2 == 1

/-- The arrival on a numbered barrier, then `k` with the parity of the phase arrived in. -/
def Ctx.arriveBar (c : Ctx) (f : RForm) (k : State → Nat → Bool → Body) : Body :=
  let n := c.uni32 f.a
  if c.nbar ≤ n then c.trap .resource 0x01
  else
    let b := c.blk.bar n
    c.arrive (bit b.amask c.id.warp) (f.opx == 1) 0 (fun s =>
      let s1 := if f.opx = 1 then s.setBlock c.blk.id (fun b => b.showStream c.id.warp) else s
      k ((s1.setBar c.blk.id n (fun b => b.arrive c.tb (some c.id.warp) c.after)).closeBar c.blk.id n) n b.phase)

/-! ### The instructions (R222-R229) -/

def execBar (f : RForm) (s : State) : Out := issueW (shBar f) (fun c => c.arriveBar f (fun s n p => c.waitBar s n p)) s

def execBara (f : RForm) (s : State) : Out := issueW (shBar f) (fun c => c.arriveBar f (fun s _ _ => .go { s := s })) s

def execBarw (f : RForm) (s : State) : Out :=
  issueW (shBarw f) (fun c =>
    let n := c.uni32 f.a
    if c.nbar ≤ n then c.trap .resource 0x01 else c.waitBar c.s n (uniParity c f.b)) s

def execCbara (f : RForm) (s : State) : Out :=
  issueW (shCbara f) (fun c =>
    c.arrive c.w.cArr (f.opx == 1) 1 (fun s =>
      let cl := clusterOf c.g c.id.block
      .go { s := ((s.setWarp c.id (fun x => { x with cArr := true })).setCbar c.g.id cl (fun k => k.arrive c.tb c.after)).closeCbar
              c.g.id cl })) s

def execCbarw (f : RForm) (s : State) : Out := issueW (shCbarw f) (fun c => c.waitCbar c.s (uniParity c f.a)) s

def execDbara (f : RForm) (s : State) : Out :=
  issueW (shCbara f) (fun c =>
    if !Rec.coop c.g.record then c.trap .resource 0x05
    else c.arrive c.w.dArr (f.opx == 1) 2 (fun s =>
      .go { s := ((s.setWarp c.id (fun x => { x with dArr := true })).setDbar c.g.id c.blk.portion (fun k =>
              k.arrive c.tb c.after)).closeDbar c.g.id c.blk.portion })) s

def execDbarw (f : RForm) (s : State) : Out :=
  issueW (shCbarw f) (fun c =>
    if !Rec.coop c.g.record then c.trap .resource 0x05 else c.waitDbar c.s (uniParity c f.a)) s

/-- An object operation: the index is checked, then the operation is queued on path S. -/
def Ctx.objQueue (c : Ctx) (o : Nat) (k : OpKind) : Body :=
  if Rec.nbobj c.g.record ≤ o then c.trap .resource 0x02
  else .go { s := c.queue c.s { num := 0, path := .s, pc := 0, kind := k } }

def execBoinit (f : RForm) (s : State) : Out :=
  issueW (shBoinit f) (fun c =>
    let o := c.uni32 f.a
    let n := c.uni32 f.b
    if Rec.nbobj c.g.record ≤ o then c.trap .resource 0x02
    else if n = 0 ∨ 1023 < n then c.trap .resource 0x03
    else c.objQueue o (.boinit o n)) s

def execBoarv (f : RForm) (s : State) : Out :=
  issueW (shBoarv f) (fun c => c.objQueue (c.uni32 f.a) (.boarv (c.uni32 f.a) (c.uni32 f.b))) s

def execBoexp (f : RForm) (s : State) : Out :=
  issueW (shBoinit f) (fun c => c.objQueue (c.uni32 f.a) (.boexp (c.uni32 f.a) (c.uni32 f.b))) s

/-- An operation on object `o` that is not performed yet. -/
def OpKind.onObj (o : Nat) : OpKind → Bool
  | .boinit n _ | .boarv n _ | .boexp n _ => n == o
  | _ => false

/-- R229: the wait follows the warp's own earlier operations on the object. -/
def execBowait (f : RForm) (s : State) : Out :=
  issueW (shBowait f) (fun c =>
    let o := c.uni32 f.a
    let p := uniParity c f.b
    if Rec.nbobj c.g.record ≤ o then c.trap .resource 0x02
    else if !(c.w.win.performed (OpKind.onObj o)) then .pass
    else if (c.blk.obj o).passes p then
      .go { s := (c.s.setBlock c.blk.id (fun b => b.seeObj c.id.warp o)).warpAcquire c.blk.core c.id 1 }
    else .go { s := c.s.setWarp c.id (fun x => { x with wait := some (.object o p c.tb) }), pc := some c.pc }) s

/-! ### The end of a stream (R249, R250) -/

/-- A tile write that is not complete in a clk (R236). -/
def TileBusy.pending (t : TileBusy) (clk : Nat) : Bool :=
  match t.doneAt with
  | some c => decide (clk < c)
  | none => true

/-- `MEND` completes once every tile write is complete and W, S and C are 0: the stream leaves its barriers. Its SEQP is
cleared with that (DESIGN CHOICE, log 80: R249 lowers EXP and ARR and leaves SEQP open). -/
def State.seqSettle (s : State) (b : BlockId) : State :=
  match s.seq? b with
  | none => s
  | some (blk, q) =>
    let clk := s.clkOf (dieOfCore blk.core)
    if !q.ending || q.ended || q.stopped || !q.win.ops.isEmpty || q.busy.any (fun t => t.pending clk) then s
    else (List.range 16).foldl (fun s n =>
      if (blk.bar n).seqp then (s.setBar b n (fun k => { k.leave k.seqa with seqa := false, seqp := false })).closeBar b n else s)
      (s.setSeq b (fun q => { q with ended := true, busy := [] }))

/-! ### Time-outs (R227) -/

/-- The warps that a predicate selects and that may take FLAG. -/
def State.flagged (s : State) (p : Block → Warp → Option (TrapInfo × Diag)) : List (WarpId × DWord × TrapInfo × Diag) :=
  s.blocks.flatMap (fun b => (b.warpIds.zip b.warps).filterMap (fun q =>
    if q.2.inTrap || q.2.held then none else (p b q.2).map (fun t => (q.1, nextPc q.2.pc, t))))

/-- Each selected warp abandons its wait and takes FLAG. -/
def State.takeFlags (s : State) (p : Block → Warp → Option (TrapInfo × Diag)) : State :=
  (s.flagged p).foldl (fun s q => s.takeTrap q.1 q.2.2.1 q.2.1 false 0 (some q.2.2.2)) s

/-- The flag of a numbered barrier falls, and every wait for its phase is abandoned, that of a warp restored after the
fall too; a sequencer that waits takes FLAG as a stream trap (R248). -/
def State.fallNumbered (s : State) (b : BlockId) (n : Nat) : State :=
  match s.block? b with
  | none => s
  | some blk =>
    let k := blk.bar n
    if k.begun = false ∨ k.torem ≠ 0 then s
    else
      let s1 := if k.fallen then s else (s.setBar b n (fun k => { k with fallen := true })).countPm blk.core 0x06 1
      let s2 := s1.takeFlags (fun x w => match w.wait with
        | some (.numbered m p) => if x.id = b ∧ m = n then some (flagInfo 0 p n, diagNumbered x n) else none
        | _ => none)
      match s2.seq? b with
      | some (_, q) =>
        (match q.wait with
         | some (.numbered m p) => if m = n then s2.streamTrap b (flagInfo 0 p n) q.pc else s2
         | _ => s2)
      | none => s2

def State.fallCluster (s : State) (gid : BitVec 32) (c : Nat) : State :=
  match s.grid? gid with
  | none => s
  | some g =>
    let k := g.cbar c
    if k.begun = false ∨ k.torem ≠ 0 then s
    else
      let mine (b : Block) : Bool := b.id.grid == gid && clusterOf g b.id.block == c
      let s1 := if k.fallen then s else (s.blocks.filter mine).foldl (fun s b => s.countPm b.core 0x06 1)
        (s.setCbar gid c (fun k => { k with fallen := true }))
      s1.takeFlags (fun x w => match w.wait with
        | some (.cluster p) => if mine x then some (flagInfo 1 p 0, s1.diagCluster x g) else none
        | _ => none)

def State.fallDie (s : State) (gid : BitVec 32) (d : Nat) : State :=
  match s.grid? gid with
  | none => s
  | some g =>
    let k := g.dbar d
    if k.begun = false ∨ k.torem ≠ 0 then s
    else
      let mine (b : Block) : Bool := b.id.grid == gid && b.portion == d
      let s1 := if k.fallen then s else (sortNats ((s.blocks.filter mine).map (fun b => b.core))).foldl (fun s c => s.countPm c 0x06 1)
        (s.setDbar gid d (fun k => { k with fallen := true }))
      s1.takeFlags (fun x w => match w.wait with
        | some (.die p) => if mine x then some (flagInfo 2 p 0, diagDie x g) else none
        | _ => none)

/-- The core clock of a logical die runs: its barrier flags and time-outs are not paused (R442, R443). -/
def State.runsDie (s : State) (d : Nat) : Bool := (s.die d).clocked
/-- The clock runs on a die of the blocks that `p` names. -/
def State.runsFor (s : State) (p : Block → Bool) : Bool := s.blocks.any (fun b => p b && s.runsDie (dieOfCore b.core))

/-- R227: the time-out of a phase that has an arrival reaches 0. No flag falls on a die that is halted (R443). -/
def execBarrierTimeout (b : BarRef) (s : State) : Out :=
  .next (match b with
    | .numbered b n => if s.runsFor (fun k => k.id == b) then s.fallNumbered b n else s
    | .cluster g c =>
      if s.runsFor (fun k => k.id.grid == g && (match s.grid? g with
        | some gr => k.id.block / Rec.clus gr.record == c
        | none => false)) then s.fallCluster g c else s
    | .die g d => if s.runsFor (fun k => k.id.grid == g && k.portion == d) then s.fallDie g d else s)

/-- R227: a `BOWAIT` has waited Tb clk. -/
def execBowaitTimeout (s : State) : Out :=
  .next (match s.warp? s.on.w with
    | some (b, x) =>
      (match x.wait with
       | some (.object o p 0) =>
         if x.inTrap || x.held || !(s.runsDie (dieOfCore b.core)) then s
         else (s.countPm b.core 0x06 1).takeTrap s.on.w (flagInfo 3 p o) (nextPc x.pc) false 0 (some (diagObject b o))
       | _ => s)
    | none => s)

end Sys2Proof.Machine
end

