-- ==== Sys2Proof/Machine/Perform.lean ====
section
/-! DEFINITION. The performance of a warp's memory operations: loads, stores, atomics, FIFO and barrier-object
operations, at their own times and in the order that R290, R291 and R470 keep, with poison (R391), peers (R402, R403)
and the fall of the path counters (R32). -/

namespace Sys2Proof.Machine

/-- An operation of a warp may be performed now: in the warp's own order, and after what its waits at barriers order. -/
def State.mayPerform (s : State) (x : Warp) (o : Op) : Bool := x.win.mayPerform o && !(s.syncHeld x o.num)

/-! ### Lines -/

/-- The request of an owner for a line of a peer. -/
def State.outLine (s : State) (w : PeerOwner) (d line : Nat) : Option PeerOut :=
  s.fab.out.find? (fun o => o.owner == w && o.dev == d && peerLine o.op == line)

/-- The miss entry that serves a load of an owner holds its line (R333). -/
def State.filled (s : State) (core : Nat) (w : PeerOwner) (line : Nat) : Option (VReg × EReg × Bool) :=
  match w with
  | .op (.warp x) num => (s.core core).fillFor x num line
  | _ => none

/-- A line can be read now. -/
def State.askReady (s : State) (core scp : Nat) (w : PeerOwner) (q : Ask) : Bool :=
  match q.loc with
  | .mem pa => !(s.locked (pa / 128)) &&
      ((s.filled core w (pa / 128)).isSome || s.lineReady core scp ⟨pa / 128, q.mask, q.side⟩)
  | .scratch _ _ => true
  | .peer d pa => match s.outLine w d (pa / 128) with
    | some o => o.answer.isSome
    | none => false

/-- The 64-B halves of a line that hold the sectors of a load's bytes (R402). -/
def halvesOf (m : BitVec 128) (side : Bool) : BitVec 2 :=
  if side then 3 else BitVec.ofNat 2 (b2n (m.extractLsb' 0 64 != 0) + 2 * b2n (m.extractLsb' 64 64 != 0))

/-- Sends for a line that cannot be read yet. -/
def State.askSend (s : State) (core scp : Nat) (w : PeerOwner) (q : Ask) : State :=
  match q.loc with
  | .mem pa =>
    if (s.filled core w (pa / 128)).isSome || s.lineReady core scp ⟨pa / 128, q.mask, q.side⟩ then s
    else s.requestLine (dieOfCore core) (pa / 128)
  | .scratch _ _ => s
  | .peer d pa =>
    if (s.outLine w d (pa / 128)).isSome then s
    else s.peerSend w (dieOfCore core) d (pa / 128) (.read (pa / 128) (halvesOf q.mask q.side) q.side)

/-- A line as it was read. -/
structure Got where
  loc : Loc
  va : DWord
  data : VReg
  side : EReg
  poi : Bool
deriving DecidableEq, Repr

/-- The other loads that a line's fill serves with operation `(w, num)`: those that may be performed now and whose bytes
are there (R333). -/
def State.fillServes (s : State) (core line : Nat) (me p : WarpId × Nat) : Bool :=
  p != me && (match s.warp? p.1 with
    | some (_, x) => x.win.ops.any (fun o => o.num == p.2 && !o.done && s.mayPerform x o &&
        o.kind.asks.any (fun q => q.loc == .mem (128 * line) && (s.pocRead? (dieOfCore core) line q.mask q.side).isSome))
    | none => false)

/-- The fill that a load brings to the open entry that serves it: the line at the point of coherence, where the load takes
bytes from there (R333). -/
def State.entryFill (s : State) (core scp : Nat) (w : PeerOwner) (r : LineReq) : Option ((WarpId × Nat) × VReg × EReg × Bool) :=
  match w with
  | .op (.warp y) num =>
    let k := s.core core
    if (k.openMiss r.line).any (fun m => m.serves.contains (y, num)) && (scp != 0 || k.missing r scp != 0) then
      (s.pocRead? (dieOfCore core) r.line (k.missing r scp) r.side).map (fun f => ((y, num), f))
    else none
  | _ => none

/-- A load's line of memory: the fill of the miss entry that serves it, or the L1 or the point of coherence. What an entry's
load takes from there is the entry's fill, and serves its other loads (R333). -/
def State.readLine (s : State) (core scp cp : Nat) (warp : Option WarpId) (w : PeerOwner) (r : LineReq) :
    State × VReg × EReg × Bool :=
  match s.filled core w r.line with
  | some f =>
    let d := s.underOwn core scp r f.1 f.2.1
    (s.noteReader core warp r, d.1, d.2, f.2.2)
  | none =>
    let x := s.loadLine core scp cp warp r
    match s.entryFill core scp w r with
    | some f => (x.1.fillEntry core r.line (s.fillServes core r.line f.1) f.2, x.2)
    | none => x

/-- Reads one line: memory, a scratchpad, or a peer's answer; an error answers as a poisoned line (R403). -/
def State.readAsk (s : State) (core scp cp : Nat) (warp : Option WarpId) (w : PeerOwner) (q : Ask) : State × Got :=
  match q.loc with
  | .mem pa =>
    let r := s.readLine core scp cp warp w ⟨pa / 128, q.mask, q.side⟩
    (r.1, ⟨q.loc, q.va, r.2.1, r.2.2.1, r.2.2.2⟩)
  | .scratch b o =>
    let k := s.block? b
    (s, ⟨q.loc, q.va, (k.map (fun k => k.sline (o / 128))).getD 0, (k.map (fun k => k.sside (o / 128))).getD eInit, false⟩)
  | .peer d pa =>
    (s, match s.outLine w d (pa / 128) with
      | some { answer := some (.ok, data, side), .. } => ⟨q.loc, q.va, data, side, false⟩
      | _ => ⟨q.loc, q.va, 0, eInit, true⟩)

def State.readAsks (s : State) (core scp cp : Nat) (warp : Option WarpId) (w : PeerOwner) (qs : List Ask) :
    State × List Got :=
  qs.foldl (fun a q => let r := a.1.readAsk core scp cp warp w q; (r.1, a.2 ++ [r.2])) (s, [])

/-- `n` bytes at a place among lines read. -/
def gotNat (gs : List Got) (l : Loc) (n : Nat) : Nat :=
  match gs.find? (fun g => g.loc == l.base) with
  | some g => field g.data.toNat (8 * l.off) (8 * n)
  | none => 0

/-! ### Loads (R189, R198) -/

/-- The value a load gives each of its destination registers. -/
def loadVal (k : OpKind) (gs : List Got) (r : RegId) : BitVec 1024 :=
  match k, r with
  | .load ps n dst, .v i =>
    ofLanes (fun l => match ps.find? (fun p => p.lane == l) with
      | some p => BitVec.ofNat 32 (gotNat gs p.loc n >>> (32 * (i - dst)))
      | none => 0)
  | .loadS p n dst, .s i => ((BitVec.ofNat 32 (gotNat gs p.loc n >>> (32 * (i - dst)))).setWidth 1024)
  | .loadMx ps layout dst m, .v i =>
    if layout = 2 then
      let x := natLE (ps.flatMap (fun p => bytesLE 128 (gotNat gs p.loc 128)))
      ofLanes (fun l => if bit m l then BitVec.ofNat 32 (field x (24 * (32 * (i - dst) + l)) 24) else 0)
    else match ps with
      | p :: _ => BitVec.ofNat 1024 (gotNat gs p.loc 128) &&& laneBits m
      | [] => 0
  | .loadMx ps layout dst _, .e i =>
    let at_ (n j : Nat) : Byte := match (ps[n]?).bind (fun p => gs.find? (fun g => g.loc == p.loc)) with
      | some g => slot g.side j
      | none => 0x7F
    (ofSlots (fun j =>
      if layout = 2 then (if j < 4 then at_ (tripleSlot (4 * (i - dst) + j)).1 (tripleSlot (4 * (i - dst) + j)).2 else 0x7F)
      else if layout = 1 ∨ j < 4 then at_ 0 j else 0x7F)).setWidth 1024
  | _, _ => 0

/-- POISON of a completed operation becomes a pending trap (R273, R274). A warp that a save has stopped goes on, since the
trap is never lost and the record of R39 does not hold it (log 79). -/
def State.pendPoison (s : State) (w : WarpId) (o : Op) (addr : DWord) : State :=
  s.setWarp w (fun x => { x with held := false, pend := x.pend ++
    [{ row1 := false, info := { cause := .poison, detail := 0, addr := addr }, tpc := 0, fpc := o.pc, fromTrap := o.inTrap }] })

def lowestVa (gs : List Got) : DWord :=
  gs.foldl (fun m g => if g.va.toNat < m.toNat then g.va else m) (BitVec.allOnes 64)

/-- The grid's way with poisoned lines: recovery, a trap, or going on (R391, R396). -/
inductive Poisoned where
  | recover | trap | go
deriving DecidableEq, Repr

def State.poisonWay (s : State) (g : BitVec 32) : Poisoned :=
  if s.recovers g then .recover
  else match s.grid? g with
    | some gr => if Rec.ptrap gr.record then .trap else .go
    | none => .go

/-- A load is performed once its lines can be read. -/
def State.performLoad (s : State) (w : WarpId) (o : Op) : State :=
  match s.warp? w with
  | none => s
  | some (b, x) =>
    let own := PeerOwner.op (.warp w) o.num
    let scp := o.scope
    if !(s.mayPerform x o) then s
    else if !(o.kind.asks.all (s.askReady b.core scp own)) then
      (orderBy (fun q => q.loc.rank) o.kind.asks).foldl (fun s q => s.askSend b.core scp own q) s
    else
      let r := s.readAsks b.core scp o.cp.toNat (some w) own (orderBy (fun q => q.loc.rank) o.kind.asks)
      let s1 := (r.1.dropOut own).dropServe b.core w o.num
      let bad := r.2.filter (fun g => g.poi)
      let done (s : State) : State :=
        let s2 := s.land (.warp w) o (loadVal o.kind r.2)
        if o.acquires then s2.warpAcquire b.core w scp else s2
      if bad.isEmpty then done s1
      else match s1.poisonWay w.grid with
        | .recover => s1.startRecovery w.grid
        | .trap => (s1.opDone (.warp w) o.num).pendPoison w o (lowestVa bad)
        | .go => done (s1.notePoison w.grid bad.length)

/-! ### Releases (R315-R317, R470) -/

/-- What a release does when it is performed: the write-back of what it orders; at `.blk` it only passes that on (R292).
At `.sys`, and for an atomic at `.dev`, whose read the fourth row of R291 orders too, the writes that the die has counted
are applied first (R304, R470). At `.dev` and wider the die has counted what its atomics wrote at other homes (R301, R312).
`false`: it waits, or its warp is suspended at it on a sector that cannot be written back (R316). -/
def State.performRelease (s : State) (w : WarpId) (b : Block) (x : Warp) (o : Op) : State × Bool :=
  if !o.releases then (s, true)
  else if o.scope = 0 then (s.passOn b.core w, true)
  else if s.releaseLocked b.core w then (s, false)
  else
    let s0 := if 3 ≤ o.scope then s.reddDrain w else s
    if 3 ≤ o.scope && !(s0.noSpills w) then (s0, false)
    else match s0.releaseFault b.core w with
      | none =>
        let s1 := s0.releaseWb b.core w
        if 3 ≤ o.scope && s1.ownUnheard (dieOfCore b.core) then (s1, false)
        else if (o.scope == 4 || decide (3 ≤ o.scope) && o.kind.reads) && !(s1.settled (dieOfCore b.core) true) then (s1, false)
        else (s1.recall o.scope, true)
      | some f =>
        (if x.running && x.susp.isNone then
          (s0.releaseWb b.core w).suspend w { releaseSusp b.core f with at_ := some (o.num, o.pc) } else s, false)

/-! ### Stores -/

/-- A line can be written now. A `.sys` store to CXL-attached memory follows all that its die has written there (R339). -/
def State.putReady (s : State) (core scp : Nat) (w : PeerOwner) (p : LinePut) : Bool :=
  match p.loc with
  | .mem pa => !(s.locked (pa / 128)) && !((s.core core).waitsLeaving (pa / 128)) &&
      (scp != 4 || homeDie (pa / 128) != 4 || reached s.hostClk (s.die (dieOfCore core)).vclk)
  | .scratch _ _ => true
  | .peer d pa => match s.outLine w d (pa / 128) with
    | some o => o.answer.isSome
    | none => false

/-- Sends a store's requests to peers (R402). -/
def State.putSend (s : State) (core : Nat) (w : PeerOwner) (p : LinePut) : State :=
  match p.loc with
  | .peer d pa =>
    if (s.outLine w d (pa / 128)).isSome then s
    else s.peerSend w (dieOfCore core) d (pa / 128) (.write (pa / 128) p.data p.mask p.side p.sideMask false)
  | _ => s

/-- Writes one line of a warp's store here. -/
def State.putHere (s : State) (b : Block) (w : WarpId) (o : Op) (scp : Nat) (p : LinePut) : State :=
  let q : Put := { data := p.data, mask := p.mask, side := p.side, sideMask := p.sideMask }
  match p.loc with
  | .mem pa => s.storeLine b.core scp o.cp.toNat o.pc w p.va (pa / 128) q
  | .scratch k off => s.setBlock k (fun x => x.sputLine (off / 128) q)
  | .peer _ _ => s

/-- The answers of an owner's requests are taken; a failed one sets POIS (R403). -/
def State.takeAnswers (s : State) (g : BitVec 32) (w : PeerOwner) : State :=
  (if (s.outOf w).any PeerOut.failed then s.setPois g else s).dropOut w

def State.performStore (s : State) (w : WarpId) (o : Op) (ls : List LinePut) (n : Nat) : State :=
  match s.warp? w with
  | none => s
  | some (b, x) =>
    let own := PeerOwner.op (.warp w) o.num
    if !(s.mayPerform x o) then s
    else match s.performRelease w b x o with
      | (s1, false) => s1
      | (s1, true) =>
        let s2 := (orderBy (fun p => p.loc.rank) ls).foldl (fun s p => s.putSend b.core own p) s1
        if !(ls.all (s2.putReady b.core o.scope own)) then s2
        else (((orderBy (fun p => p.loc.rank) ls).foldl (fun s p => s.putHere b w o o.scope p) s2).takeAnswers w.grid own).land (.warp w) o
              (fun _ => BitVec.ofNat 1024 n)

/-! ### Atomics (R206, R312, R391) -/

/-- The new value of one atomic, or `none` where `ACAS` writes nothing. -/
def atomNew (sub : Nat) (t : Ty) (cas : Bool) (old : Nat) (p : AtomPiece) : Option Nat :=
  if cas then (if old = p.cmp.toNat % 2 ^ tyW t then some (p.val.toNat % 2 ^ tyW t) else none)
  else some (atomOp sub t old (p.val.toNat % 2 ^ tyW t))

/-- One lane's operation at its home: the state and the old value. `olds` holds what the peers answered. -/
def State.atomHere (s : State) (d : Nat) (w : WarpId) (sub : Nat) (t : Ty) (cas : Bool) (olds : List (Nat × Nat))
    (p : AtomPiece) : State × Nat :=
  let n := tyBytes t
  match p.piece.loc with
  | .mem pa =>
    let old := s.homeNat pa n
    (match atomNew sub t cas old p with
      | some x => s.homeOpWrite d (some w.grid) pa (bytesLE n x)
      | none => s, old)
  | .scratch b o =>
    let old := ((s.block? b).map (fun k => k.snat o n)).getD 0
    (match atomNew sub t cas old p with
      | some x => s.setBlock b (fun k => k.sput o (bytesLE n x))
      | none => s, old)
  | .peer _ _ => (s, ((olds.find? (fun q => q.1 == p.piece.lane)).map Prod.snd).getD 0)

/-- The home of a line can perform an atomic of a core: the line is in its slice, no write of the die to it is on its way
there, and no lock is held. A release at `.dev` or `.sys` has the home apply all that the die has, and an atomic whose
value the warp takes has the die apply all that the home has (R292, R302, log 77). -/
def State.homeReady (s : State) (core : Nat) (rel result : Bool) (line : Nat) : Bool :=
  let h := homeDie line
  let v := (s.die (dieOfCore core)).vclk
  !(s.lineBusy line) && (h == 4 || s.l2Holds line (BitVec.allOnes 128) false || s.lost line) &&
    !((s.core core).waitsLeaving line) &&
    !(s.msgs.any (fun m => m.src == dieOfCore core && m.dst == h && m.line == line)) &&
    (!rel || reached (s.clockOf h) v) && (!result || reached v (s.clockOf h))

/-- The core still holds dirty bytes of a line that can be written back. -/
def Core.holdsDirty (c : Core) (line : Nat) : Bool :=
  match c.l1? line with
  | some l => (List.range 4).any (fun i => l.dirtyIn i != 0 && !(((l.sect i).map (fun x => x.pinned)).getD false))
  | none => false

/-- The lines of memory that atomics name. -/
def atomLines (ps : List AtomPiece) : List Nat :=
  sortNats (ps.filterMap (fun p => match p.piece.loc with
    | .mem pa => some (pa / 128)
    | _ => none))

def AtomPiece.atPeer (p : AtomPiece) : Bool :=
  match p.piece.loc with
  | .peer _ _ => true
  | _ => false

/-- A lane's line at a peer is under a Castle lock (R385). -/
def State.atomHeld (s : State) (ps : List AtomPiece) : Bool :=
  ps.any (fun p => match p.piece.loc with
    | .peer d pa => s.peerLocked d (pa / 128)
    | _ => false)

/-- The requests of a peer atomic, lane by lane in ascending order; ACAS travels as SUB 15. -/
def State.atomSend (s : State) (core : Nat) (own : PeerOwner) (sub : Nat) (t : Ty) (cas : Bool) (ps : List AtomPiece) :
    State :=
  if (s.outOf own).isEmpty && !(s.atomHeld ps) then
    ps.foldl (fun s p => match p.piece.loc with
      | .peer d pa => s.peerSend own (dieOfCore core) d (pa / 128)
          (.atomic pa (if cas then 15 else BitVec.ofNat 4 sub) t p.val p.cmp)
      | _ => s) s
  else s

/-- The old values that peers answered, by lane; an error answers 0 (R403). The requests are numbered in the order of the
lanes. -/
def State.peerOlds (s : State) (own : PeerOwner) (t : Ty) (ps : List AtomPiece) : List (Nat × Nat) :=
  ((ps.filter AtomPiece.atPeer).zip (orderBy (fun o => o.id) (s.outOf own))).map (fun q =>
    (q.1.piece.lane, match q.2.answer with
      | some (.ok, data, _) => data.toNat % 2 ^ tyW t
      | _ => 0))

/-- The value an atomic gives its destination registers. A helper lane with an effect on registers, which performs
nothing, takes 0 (DESIGN CHOICE, log 82: R14 gives a value for loads only). -/
def atomVal (dst : Nat) (olds : List (Nat × Nat)) : RegId → BitVec 1024
  | .v i => ofLanes (fun l => match olds.find? (fun q => q.1 == l) with
      | some q => BitVec.ofNat 32 (q.2 >>> (32 * (i - dst)))
      | none => 0)
  | _ => 0

/-- Atomic operations, `REDD`'s spilled lanes among them, once every home can perform them. A line whose home die has a
die-level fault reads as 0, takes nothing and sets POIS, without a trap (R403, R449). -/
def State.performAtom (s : State) (w : WarpId) (o : Op) (ps : List AtomPiece) (sub : Nat) (t : Ty) (cas : Bool)
    (dst : Nat) : State :=
  match s.warp? w with
  | none => s
  | some (b, x) =>
    let own := PeerOwner.op (.warp w) o.num
    let lines := atomLines ps
    if !(s.mayPerform x o) then s
    else match s.performRelease w b x o with
      | (s1, false) => s1
      | (s1, true) =>
        if lines.any (s1.core b.core).holdsDirty then lines.foldl (fun s l => s.atomicPrep b.core l) s1
        else
          let s2 := (lines.foldl (fun s l => s.homeFill l (dieOfCore b.core)) s1).atomSend b.core own sub t cas ps
          if !(lines.all (s2.homeReady b.core (o.releases && decide (3 ≤ o.scope)) (o.acquires || !o.dst.isEmpty))) || (s2.outOf own).any (fun q => q.answer.isNone) ||
              (s2.atomHeld ps && (s2.outOf own).isEmpty) then s2
          else
            let bad := lines.filter (fun l => s2.poison.contains l && !(s2.lost l))
            let way := s2.poisonWay w.grid
            let isBad (p : AtomPiece) : Bool := match p.piece.loc with
              | .mem pa => bad.contains (pa / 128)
              | _ => false
            let trap := !bad.isEmpty && way == .trap
            let run := if trap then ps.filter (fun p => !(isBad p)) else ps
            let s3 := lines.foldl (fun s l => s.atomicPrep b.core l) s2
            let r := run.foldl (fun a p =>
              let q := a.1.atomHere (dieOfCore b.core) w sub t cas (s2.peerOlds own t ps) p
              (q.1, a.2 ++ [(p.piece.lane, q.2)])) (s3, ([] : List (Nat × Nat)))
            let s4 := (if lines.any s2.lost then r.1.setPois w.grid else r.1).takeAnswers w.grid own
            let done (s : State) : State :=
              let s5 := s.land (.warp w) o (atomVal dst r.2)
              if o.acquires then s5.warpAcquire b.core w o.scope else s5
            if bad.isEmpty then done s4
            else match way with
              | .recover => s4.startRecovery w.grid
              | .trap => (s4.opDone (.warp w) o.num).pendPoison w o
                  (ps.foldl (fun m p => if isBad p && (p.piece.ask 4).va.toNat < m.toNat then (p.piece.ask 4).va else m)
                    (BitVec.allOnes 64))
              | .go => done (s4.notePoison w.grid bad.length)

/-! ### FIFO banks and barrier objects (R202, R203, R229) -/

def Block.fifo (b : Block) (f : Nat) : List VReg := (b.fifos[f]?).getD []

def State.setFifo (s : State) (b : BlockId) (f : Nat) (g : List VReg → List VReg) : State :=
  s.setBlock b (fun x => { x with fifos := x.fifos.modify f g })

/-- A pop or push waits at an empty or full bank; 256 entries fill it. -/
def State.performUnit (s : State) (w : WarpId) (o : Op) : State :=
  match s.warp? w with
  | none => s
  | some (b, x) =>
    if !(s.mayPerform x o) then s
    else match o.kind with
      | .fifoPop f _ m => match b.fifo f with
        | [] => s
        | e :: _ => (s.setFifo b.id f List.tail).land (.warp w) o (fun _ => e &&& laneBits m)
      | .fifoPush f e => if 256 ≤ (b.fifo f).length then s else (s.setFifo b.id f (fun l => l ++ [e])).opDone (.warp w) o.num
      | .boinit i n => (s.objOp b.id i (fun _ => objInit n)).opDone (.warp w) o.num
      | .boarv i n =>
        (s.objOp b.id i (fun k => { k with bytes := k.bytes + (n : Int), arr := k.arr + 1 }.close)).opDone (.warp w) o.num
      | .boexp i n => (s.objOp b.id i (fun k => { k with bytes := k.bytes + (n : Int) }.close)).opDone (.warp w) o.num
      | _ => s

/-! ### The steps -/

/-- One warp operation at its time, by its kind. -/
def State.performOp (s : State) (w : WarpId) (o : Op) : State :=
  match o.kind with
  | .load .. | .loadS .. | .loadMx .. => s.performLoad w o
  | .store ls => s.performStore w o ls 0
  | .storeCnt ls _ n => s.performStore w o ls n
  | .atom ps sub t cas dst => s.performAtom w o ps sub t cas (dst.getD 0)
  | .redd ps sub t => s.performAtom w o ps sub t false 0
  | .rflush => if s.noSpills w then s.opDone (.warp w) o.num else s
  | .fifoPop .. | .fifoPush .. | .boinit .. | .boarv .. | .boexp .. => s.performUnit w o
  | _ => s

/-- A drained contribution of a warp that spilled, applied as a `RED` with `.rlx` and `.dev` once its home can (R208,
R313, R391). -/
def State.performSpill (s : State) (w : WarpId) : State :=
  match s.warp? w with
  | none => s
  | some (b, x) => match x.spills with
    | [] => s
    | e :: rest =>
      let line := e.pa / 128
      if (s.core b.core).holdsDirty line then s.atomicPrep b.core line
      else
        let s1 := s.homeFill line (dieOfCore b.core)
        if !(s1.homeReady b.core false false line) then s1
        else
          let s2 := (s1.atomicPrep b.core line).setWarp w (fun x => { x with spills := rest })
          let go (s : State) : State :=
            s.homeAtom (dieOfCore b.core) w.grid e.pa e.ty (fun o => atomOp e.op e.ty o e.val.toNat)
          if !(s1.poison.contains line) || s1.lost line then go s2
          else match s1.poisonWay w.grid with
            | .recover => s2.startRecovery w.grid
            | .trap => s2.setWarp w (fun x => if x.terminated then x else { x with pend := x.pend ++
                [{ row1 := false, info := { cause := .poison, addr := BitVec.ofNat 64 e.pa }, tpc := 0, fpc := x.pc,
                   fromTrap := x.inTrap }] })
            | .go => go (s2.notePoison w.grid 1)

/-- The operation at place `i` of a warp, on a path, is performed if it can be; the counter of one whose data came back
early falls. -/
def State.performAt (s : State) (w : WarpId) (i : Nat) (p : Path) : State :=
  match (s.win? (.warp w)).bind (fun wn => wn.ops[i]?) with
  | some o =>
    if o.path ≠ p then s
    else if o.done then s.endEarly (.warp w) o.num
    else s.performOp w o
  | none => s

/-- R33: a load of path G returns. -/
def execLoadDataReturn (w : WarpId) (i : Nat) (s : State) : Out := .next (s.performAt w i .g)

/-- R206: an atomic, a reduction or a drain completes at its home; a place that holds no operation stands for the warp's
spilled contributions (R208). -/
def execAtomicComplete (w : WarpId) (i : Nat) (s : State) : Out :=
  .next (match s.win? (.warp w) with
    | some wn => if i < wn.ops.length then s.performAt w i .a else s.performSpill w
    | none => s)

/-- R203: a FIFO operation not performed Tb clk after its issue is abandoned. -/
def execFifoWaitTimeout (w : WarpId) (i : Nat) (s : State) : Out :=
  .next (match s.op? (.warp w) i, s.warp? w, s.grid? w.grid with
    | some o, some (b, _), some g =>
      let late := decide (o.clk + Rec.tb g.record ≤ s.clkOf (dieOfCore b.core))
      (match o.kind with
       | .fifoPop .. => if late then (s.opDone (.warp w) o.num).pendAsync w o .fifoMisuse 0x02 else s
       | .fifoPush .. => if late then (s.opDone (.warp w) o.num).pendAsync w o .fifoMisuse 0x03 else s
       | _ => s)
    | _, _, _ => s)

end Sys2Proof.Machine
end

