-- ==== Sys2Proof/Machine/Engines.lean ====
section
/-! DEFINITION. The copy and gather/scatter engines (R215, R217-R221): the check of a request, the walk of a shape, the
movement of one destination line, and faults. -/

namespace Sys2Proof.Machine

/-! ### Requests (R217-R219, R221) -/

/-- The walk of a shape entry: NDIM, extents X0 to X4, strides ST1 to ST4 (R218). -/
structure ShapeEnt where
  rsv : Bool
  ndim : Nat
  x : List Nat
  st : List Int
deriving DecidableEq, Repr

def shapeOf (b : Block) (o : Nat) : ShapeEnt :=
  { rsv := b.snat o 4 / 8 != 0 || b.snat (o + 0x38) 8 != 0, ndim := b.snat o 4 % 8,
    x := (List.range 5).map (fun k => b.snat (o + 4 + 4 * k) 4),
    st := (List.range 4).map (fun k => sval 64 (b.snat (o + 0x18 + 8 * k) 8)) }

def ShapeEnt.ok (e : ShapeEnt) : Bool :=
  decide (1 ≤ e.ndim) && decide (e.ndim ≤ 5) &&
    (List.range 5).all (fun k => if k < e.ndim then e.x.getD k 0 != 0 else e.x.getD k 0 == 1)

def ShapeEnt.total (e : ShapeEnt) : Nat := e.x.foldl (· * ·) 1

/-- Every stride in use, the base and X0 are multiples of `u`. -/
def ShapeEnt.lineSide (e : ShapeEnt) (u base : Nat) : Bool :=
  base % u == 0 && e.x.getD 0 0 % u == 0 && (e.st.take (e.ndim - 1)).all (fun t => t % (u : Int) == 0)

/-- X0 is a whole number of blocks. -/
def ShapeEnt.dense (e : ShapeEnt) (f : Elem) : Bool := e.x.getD 0 0 % (4 * f.width) == 0

/-- Extents and strides as an engine keeps them. -/
def ShapeEnt.walk (e : ShapeEnt) : List Int := e.x.map (fun (n : Nat) => (n : Int)) ++ e.st

/-- A checked request: its status, and the operation when it is accepted. -/
def checkCopy (b : Block) (nbobj sb off id : Nat) : Byte × Option EngOp :=
  let w0 := b.snat off 4
  let conv := field w0 0 4
  let fmtc := field w0 4 3
  let bobj := field w0 8 8
  let ss := 64 * b.snat (off + 4) 2
  let ds := 64 * b.snat (off + 6) 2
  let src := b.snat (off + 8) 8
  let dst := b.snat (off + 16) 8
  let scl := b.snat (off + 24) 8
  let fmt := (elemOfCode fmtc).getD .e4m3
  let u := if fmt.width = 6 then 384 else 128
  if field w0 7 1 != 0 || field w0 16 16 != 0 || decide (3 < conv) || (conv != 0 && decide (5 < fmtc)) ||
      (decide (conv ≤ 1) && scl != 0) || b.snat (off + 32) 32 != 0 then (0x01, none)
  else if sb < ss + 64 ∨ sb < ds + 64 then (0x08, none)
  else
    let s := shapeOf b ss
    let d := shapeOf b ds
    let lines : Bool := match conv with
      | 0 => true
      | 1 => s.lineSide u src && d.lineSide u dst
      | 2 => s.dense fmt && d.lineSide u dst
      | _ => s.lineSide u src && d.dense fmt
    if s.rsv || d.rsv then (0x01, none)
    else if !s.ok || !d.ok then (0x02, none)
    else if s.total ≠ d.total then (0x03, none)
    else if !lines then (0x04, none)
    else if bobj ≠ 0xFF ∧ nbobj ≤ bobj then (0x05, none)
    else (0x00, some
      { id := id, block := b.id, core := b.core, gather := false, conv := conv, fmt := fmt, bobj := bobj,
        total := s.total, src := BitVec.ofNat 64 src, dst := BitVec.ofNat 64 dst, scl := BitVec.ofNat 64 scl,
        sshape := s.walk, dshape := d.walk })

/-- As `checkCopy`, for a gather/scatter request; `hbm` says where the table base lies. -/
def checkGather (b : Block) (nbobj off id : Nat) (hbm : DWord → Bool) : Byte × Option EngOp :=
  let w0 := b.snat off 4
  let bobj := field w0 8 8
  let rowb := b.snat (off + 4) 2
  let nrow := b.snat (off + 8) 4
  let at_ (o : Nat) : DWord := BitVec.ofNat 64 (b.snat (off + o) 8)
  if field w0 1 7 != 0 || field w0 16 16 != 0 || b.snat (off + 6) 2 != 0 || b.snat (off + 12) 4 != 0 ||
      b.snat (off + 48) 16 != 0 || decide (4096 < rowb) then (0x01, none)
  else if rowb = 0 ∨ nrow = 0 then (0x02, none)
  else if bobj ≠ 0xFF ∧ nbobj ≤ bobj then (0x05, none)
  else if !(hbm (at_ 0x10)) then (0x06, none)
  else if rowb % 32 ≠ 0 then (0x07, none)
  else (0x00, some
    { id := id, block := b.id, core := b.core, gather := true, conv := 0, fmt := .e4m3, bobj := bobj,
      total := nrow * rowb, src := at_ 0x10, dst := at_ 0x28, scl := 0, sshape := [], dshape := [],
      dir := w0 % 2, rowb := rowb, pitch := at_ 0x18, idx := at_ 0x20 })

/-! ### The walk (R218) -/

/-- Address of byte `n` of a walk, and the bytes left in its run. -/
def walkAt (sh : List Int) (base : DWord) (n : Nat) : DWord × Nat :=
  let x (k : Nat) : Nat := (sh.getD k 1).toNat
  let st (k : Nat) : Int := sh.getD (4 + k) 0
  let i0 := n % x 0
  let q1 := n / x 0
  let q2 := q1 / x 1
  let q3 := q2 / x 2
  let o : Int := (i0 : Int) + ((q1 % x 1 : Nat) : Int) * st 1 + ((q2 % x 2 : Nat) : Int) * st 2 +
    ((q3 % x 3 : Nat) : Int) * st 3 + ((q3 / x 3 : Nat) : Int) * st 4
  (base + BitVec.ofInt 64 o, x 0 - i0)

/-- A span of bytes within one line, and where it stands in the unit moved. -/
structure Span where
  va : DWord
  n : Nat
  at_ : Nat
deriving DecidableEq, Repr

/-- Bytes `n` to `n + len - 1` of a walk, cut at runs and lines. -/
def spansGo (f : Nat → DWord × Nat) : Nat → Nat → Nat → Nat → List Span
  | 0, _, _, _ => []
  | fuel + 1, n, len, at_ =>
    if len = 0 then []
    else
      let p := f n
      let k := max 1 (min (min len p.2) (128 - p.1.toNat % 128))
      ⟨p.1, k, at_⟩ :: spansGo f fuel (n + k) (len - k) (at_ + k)

def spans (f : Nat → DWord × Nat) (n len : Nat) : List Span := spansGo f 129 n len 0

/-- A contiguous range as a walk. -/
def flat (base : DWord) (n : Nat) : DWord × Nat := (base + BitVec.ofNat 64 n, 4096)

/-! ### Accesses of an engine -/

/-- A generic address for an engine operation of a block, through its core's TLB (R192, R327, R369, R395). Nothing
writes the bytes of barrier objects but their own operations (R228). -/
def State.engXlat (s : State) (b : Block) (g : Grid) (va : DWord) (n : Nat) (acc : Acc) : State × Except TrapInfo Loc :=
  match s.xlat b.core g.ctx b.id (Rec.scrb g.record) va n acc with
  | (s, .ok l) =>
    (s, if acc != .read && Rec.rbk g.record && s.sideEffect l then .error { cause := .permission, detail := 0x05, addr := va }
      else match l with
        | .scratch _ off =>
          if acc != .read && decide (off < 16 * Rec.nbobj g.record) then .error { cause := .permission, detail := 0x04, addr := va }
          else .ok l
        | l => .ok l)
  | r => r

/-- What a read of an engine finds: the bytes, a state that waits for them, or a fault. -/
inductive EngRead where
  | wait (s : State)
  | fault (s : State) (t : TrapInfo)
  | failed (s : State)
  | got (s : State) (data : VReg) (side : EReg)
deriving DecidableEq, Repr

/-- One span read at the die's point of coherence, a scratchpad or a peer. -/
def State.engRead (s : State) (w : PeerOwner) (b : Block) (g : Grid) (sp : Span) (side : Bool) : EngRead :=
  let d := dieOfCore b.core
  match s.engXlat b g sp.va sp.n .read with
  | (s, .error t) => .fault s t
  | (s, .ok (.scratch k o)) => match s.block? k with
    | some x => .got s (x.sline (o / 128)) (x.sside (o / 128))
    | none => .got s 0 eInit
  | (s, .ok (.mem pa)) =>
    let line := pa / 128
    if s.locked line then .wait s
    else match s.pocRead? d line (spanMask (pa % 128) sp.n) side with
      | none => .wait (s.requestLine d line)
      | some (_, _, true) => .fault s { cause := .poison, addr := sp.va - BitVec.ofNat 64 (pa % 128) }
      | some (data, sd, false) => .got s data sd
  | (s, .ok (.peer dev pa)) =>
    let op : PeerOp := .read (pa / 128) (halvesOf (spanMask (pa % 128) sp.n) side) side
    match (s.outOf w).find? (fun o => o.op == op && o.dev == dev) with
    | none => .wait (s.peerSend w d dev (pa / 128) op)
    | some o => match o.answer with
      | none => .wait s
      | some (.ok, data, sd) => .got s data sd
      | some _ => .failed s

/-- What a list of reads comes to: the bytes of each span, and the last line's sidecar. -/
inductive EngReads where
  | wait (s : State)
  | fault (s : State) (t : TrapInfo)
  | failed (s : State)
  | got (s : State) (bytes : List Byte) (side : EReg)
deriving DecidableEq, Repr

def State.engReadsGo (s : State) (w : PeerOwner) (b : Block) (g : Grid) (side : Bool) :
    List Span → List Byte → EReg → EngReads
  | [], bs, sd => .got s bs sd
  | sp :: rest, bs, _ =>
    match s.engRead w b g sp side with
    | .wait s => .wait s
    | .fault s t => .fault s t
    | .failed s => .failed s
    | .got s data sd =>
      s.engReadsGo w b g side rest (bs ++ bytesLE sp.n (data.toNat >>> (8 * (sp.va.toNat % 128)))) sd

def State.engReads (s : State) (w : PeerOwner) (b : Block) (g : Grid) (side : Bool) (l : List Span) : EngReads :=
  s.engReadsGo w b g side l [] eInit

/-- One write of an engine: the place of its first byte and the line's put. -/
structure EngPut where
  va : DWord
  loc : Loc
  put : Put
deriving DecidableEq, Repr

/-- The places of a unit's destination spans, or the first fault. -/
def State.engPlaces (s : State) (b : Block) (g : Grid) (bs : List Byte) (side : Option EReg) :
    List Span → State × Except TrapInfo (List EngPut)
  | [] => (s, .ok [])
  | sp :: rest =>
    match s.engXlat b g sp.va sp.n .write with
    | (s, .error t) => (s, .error t)
    | (s, .ok l) =>
      match s.engPlaces b g bs side rest with
      | (s, .error t) => (s, .error t)
      | (s, .ok ps) =>
        let p := putOf l.off ((bs.drop sp.at_).take sp.n)
        (s, .ok (⟨sp.va, l, match side with
          | some e => { p with side := e, sideMask := 0xFF }
          | none => p⟩ :: ps))

/-- A scratchpad line written by an engine: the stream may still read it as it was, until a warp that has waited for the
write orders it (R257). -/
def Block.engLine (b : Block) (n obj : Nat) (p : Put) : Block :=
  { b.putRaw n p with unseen := if b.seq.isSome then b.unseen ++
      [{ line := n, data := b.sline n, side := b.sside n, mask := p.mask, sideMask := p.sideMask, obj := obj }] else b.unseen }

/-- One line written here by an engine of die `d`, for an operation that counts into object `obj`. -/
def State.engPut (s : State) (d : Nat) (g : BitVec 32) (obj : Nat) (p : EngPut) : State :=
  match p.loc with
  | .mem pa => s.pocWrite d (some g) (pa / 128) p.put
  | .scratch k o => s.setBlock k (fun x => x.engLine (o / 128) obj p.put)
  | .peer _ _ => s

/-- The bulk write of a line to a peer that has not been sent yet (R402, R404). -/
def State.engSend (s : State) (w : PeerOwner) (d : Nat) (p : EngPut) : State :=
  match p.loc with
  | .peer dev pa =>
    let op : PeerOp := .write (pa / 128) p.put.data p.put.mask p.put.side p.put.sideMask true
    if (s.outOf w).any (fun o => o.dev == dev && o.op == op) then s else s.peerSend w d dev (pa / 128) op
  | _ => s

/-- The writes of a unit: performed here, or waiting for a lock or a peer. -/
inductive EngWrite where
  | wait (s : State)
  | failed (s : State)
  | done (s : State)
deriving DecidableEq, Repr

def State.engWrites (s : State) (w : PeerOwner) (d : Nat) (g : BitVec 32) (obj : Nat) (ps : List EngPut) : EngWrite :=
  if ps.any (fun p => match p.loc with
      | .mem pa => s.locked (pa / 128)
      | .peer dev pa => s.peerLocked dev (pa / 128) && (s.outOf w).isEmpty
      | _ => false) then .wait s
  else
    let s1 := ps.foldl (fun s p => s.engSend w d p) s
    let outs := s1.outOf w
    if outs.any (fun o => o.answer.isNone) then .wait s1
    else if outs.any PeerOut.failed then .failed s1
    else .done ((ps.foldl (fun s p => s.engPut d g obj p) s1).dropOut w)

/-! ### The life of an engine operation (R220) -/

def State.setEng (s : State) (id : Nat) (f : EngOp → EngOp) : State :=
  { s with eng := s.eng.map (fun e => if e.id = id then f e else e) }

/-- The operation has ended. -/
def State.endEng (s : State) (id : Nat) : State :=
  ({ s with eng := s.eng.filter (fun e => e.id != id) }).dropOut (.engine id)

/-- The operation stops: bytes written stay, ERR of its object is set. -/
def State.stopEng (s : State) (e : EngOp) : State := (s.objErr e.block e.bobj).endEng e.id

/-- A fault: a translation fault waits for the host, any other stops the operation (R220, R277); a poisoned line starts
the recovery of a rollback grid (R396). A walk that must wait is tried again. -/
def State.faultEng (s : State) (e : EngOp) (t : TrapInfo) (acc : Acc) : State :=
  if t.held then s
  else if t.cause == .poison && s.recovers e.block.grid then (s.startRecovery e.block.grid).stopEng e
  else
  let waits := t.cause == .translation
  let s1 := s.report
    { kind := 4, cause := t.cause.code, detail := t.detail, grid := e.block.grid, block := e.block.block, warp := 0,
      core := e.core, engine := if e.gather then 3 else 2, pc := 0, addr := t.addr, acc := acc.code,
      bobj := BitVec.ofNat 8 e.bobj, waiter := if waits then .engine e.id else .nobody }
  if waits then s1.setEng e.id (fun e => { e with waiting := true }) else s1.stopEng e

/-- A unit of `n` bytes has been written, `counted` of them counted in the object. -/
def State.advanceEng (s : State) (e : EngOp) (n counted : Nat) : State :=
  let s1 := s.objBytes e.block e.bobj counted
  if e.total ≤ e.next + n then s1.endEng e.id
  else s1.setEng e.id (fun e => { e with next := e.next + n, sshape := if e.gather && (e.next + n) % e.rowb == 0 then [] else e.sshape })

/-- Reads `src`, makes the destination bytes with `f`, and writes them to `dst`. -/
def State.moveUnit (s : State) (e : EngOp) (b : Block) (g : Grid) (src : List Span) (lines : Bool)
    (f : State → List Byte → EReg → EngReads) (dst : List Span) (n counted : Nat) (side : Bool) : State :=
  let w := PeerOwner.engine e.id
  match s.engReads w b g lines src with
  | .wait s => s
  | .fault s t => s.faultEng e t .read
  | .failed s => s.stopEng e
  | .got s bs sd =>
    match f s bs sd with
    | .wait s => s
    | .fault s t => s.faultEng e t .read
    | .failed s => s.stopEng e
    | .got s bs2 sd2 =>
      match s.engPlaces b g bs2 (if side then some sd2 else none) dst with
      | (s, .error t) => s.faultEng e t .write
      | (s, .ok ps) =>
        match s.engWrites w (dieOfCore e.core) e.block.grid e.bobj ps with
        | .wait s => s
        | .failed s => s.stopEng e
        | .done s => s.advanceEng e n counted

/-! ### Copies (R218) -/

/-- The first scale of a line of the walk and how many scales its sidecar carries (R57, R58). -/
def lineScales (f : Elem) (n : Nat) : Nat × Nat :=
  if f.width = 8 then (4 * n, 4)
  else if f.width = 4 then (8 * n, 8)
  else match n % 3 with
    | 0 => (16 * (n / 3), 6)
    | 1 => (16 * (n / 3) + 6, 5)
    | _ => (16 * (n / 3) + 11, 5)

/-- A sidecar with 0x7F in the slots that a format leaves unused (R59). -/
def sideUsed (f : Elem) (n : Nat) (e : EReg) : EReg :=
  ofSlots (fun j => if j < (lineScales f n).2 then slot e j else 0x7F)

/-- One destination line of a copy is written; under CONV 3 one source line with its scales. -/
def State.copyStep (s : State) (e : EngOp) (b : Block) (g : Grid) : State :=
  let src := walkAt e.sshape e.src
  let dst := walkAt e.dshape e.dst
  let w := PeerOwner.engine e.id
  let n := e.next / 128
  let sc := lineScales e.fmt n
  let scSpans := spans (flat (e.scl + BitVec.ofNat 64 sc.1)) 0 sc.2
  match e.conv with
  | 0 =>
    let p := dst e.next
    let k := min (min p.2 (128 - p.1.toNat % 128)) (e.total - e.next)
    s.moveUnit e b g (spans src e.next k) false (fun s bs sd => .got s bs sd) [⟨p.1, k, 0⟩] k k false
  | 1 =>
    s.moveUnit e b g (spans src e.next 128) true (fun s bs sd => .got s bs (sideUsed e.fmt n sd)) [⟨(dst e.next).1, 128, 0⟩]
      128 128 true
  | 2 =>
    s.moveUnit e b g (spans src e.next 128) false
      (fun s bs _ => match s.engReads w b g false scSpans with
        | .got s q _ => .got s bs (ofSlots (fun j => if j < sc.2 then q.getD j 0x7F else 0x7F))
        | r => r)
      [⟨(dst e.next).1, 128, 0⟩] 128 128 true
  | _ =>
    s.moveUnit e b g (spans src e.next 128) true
      (fun s bs sd => .got s (bs ++ (List.range sc.2).map (fun j => slot sd j)) sd)
      (spans dst e.next 128 ++ scSpans.map (fun p => { p with at_ := p.at_ + 128 })) 128 (128 + sc.2) false

/-! ### Gather and scatter (R221) -/

/-- The index of a row is read at the row's start; then its bytes move, a destination line at a time. -/
def State.gatherStep (s : State) (e : EngOp) (b : Block) (g : Grid) : State :=
  let r := e.next / e.rowb
  match e.sshape with
  | [] =>
    match s.engReads (.engine e.id) b g false (spans (flat (e.idx + BitVec.ofNat 64 (4 * r))) 0 4) with
    | .wait s => s
    | .fault s t => s.faultEng e t .read
    | .failed s => s.stopEng e
    | .got s bs _ => (s.dropOut (.engine e.id)).setEng e.id (fun e => { e with sshape := [(natLE bs : Int)] })
  | i :: _ =>
    let o := e.next % e.rowb
    let tab := e.src + BitVec.ofInt 64 (i * (e.pitch.toNat : Int)) + BitVec.ofNat 64 o
    let den := e.dst + BitVec.ofNat 64 e.next
    let from_ := if e.dir = 0 then tab else den
    let tgt := if e.dir = 0 then den else tab
    let k := min (e.rowb - o) (128 - tgt.toNat % 128)
    s.moveUnit e b g (spans (flat from_) 0 k) false (fun s bs sd => .got s bs sd) [⟨tgt, k, 0⟩] k k false

/-- The operation that a step names, with its block and grid, while nothing holds it. -/
def State.engStep (s : State) (gather : Bool) (f : State → EngOp → Block → Grid → State) : State :=
  match s.eng.find? (fun e => e.id == s.on.n && e.gather == gather && !e.waiting) with
  | some e => match s.block? e.block, s.grid? e.block.grid with
    | some b, some g => f s e b g
    | _, _ => s
  | none => s

/-- R220: the copy engine writes the next line of a copy. -/
def execCopyLineWritten (s : State) : Out := .next (s.engStep false State.copyStep)

/-- R221: the gather/scatter engine moves the next bytes of a row and counts them. -/
def execGatherRowDone (s : State) : Out := .next (s.engStep true State.gatherStep)

end Sys2Proof.Machine
end

