-- ==== Sys2Proof/Machine/Kicks.lean ====
section
/-! DEFINITION. Group 8 (R214-R216, R361, R389, R415, R420): the kicks, the engines' reading of requests, launch records
and plans, and the answers that lower the C and F counters. -/

namespace Sys2Proof.Machine

/-! ### Checks at issue (R214) -/

/-- A scratchpad offset of a structure. -/
def Ctx.offCheck (c : Ctx) (v size al : Nat) : Option TrapInfo :=
  if v % al ≠ 0 then some { cause := .misaligned, addr := BitVec.ofNat 64 v }
  else if 2 ^ 19 ≤ v ∨ c.sb < v + size then some { cause := .permission, detail := 0x01, addr := BitVec.ofNat 64 v }
  else none

/-- A memory address of a kick. -/
def alignCheck (va : DWord) (al : Nat) : Option TrapInfo :=
  if va.toNat % al ≠ 0 then some { cause := .misaligned, addr := va } else none

/-- R395: kicks that a rollback grid may not make. -/
def Ctx.rbkCheck (c : Ctx) (va : DWord) : Option TrapInfo :=
  if Rec.rbk c.g.record then some { cause := .permission, detail := 0x05, addr := va } else none

/-- What a kick's address comes to: a place, a refusal by status, or a walk that must wait. -/
inductive KickAt where
  | at_ (pa : Nat)
  | refused
  | wait
deriving DecidableEq, Repr

/-- The place of a kick's address, through the core's TLB; it is refused by status where it meets a fault, the scratchpad
window, a peer, a page in motion with a peer. -/
def State.kickPlace (s : State) (b : Block) (ctx : Nat) (va : DWord) (acc : Acc) : State × KickAt :=
  match s.xlat b.core ctx b.id 0 va 1 acc with
  | (s, .ok (.mem pa)) => (s, if s.peerMoving pa then .refused else .at_ pa)
  | (s, .error t) => (s, if t.held then .wait else .refused)
  | (s, _) => (s, .refused)

/-- A kick goes to its engine: with no live lane nothing happens; else the first failing check traps. A kick whose walk
must wait, `none`, does not issue. -/
def Ctx.kick (c : Ctx) (f : RForm) (p : Path) (check : Option TrapInfo) (k : State × Option Kick) : Body :=
  if !c.anylive then c.done []
  else match check, k.2 with
    | some t, _ => .trap c.s t false
    | none, none => .pass
    | none, some x => .go { s := c.queue k.1 { num := 0, path := p, pc := 0, kind := .kick x (some (.s (opndNum f.d))),
                                               dst := sPend (opndNum f.d) 1 } }

/-- The places of `n` lines from a kick's address on, up to the first that has none. -/
def Ctx.kickLines (c : Ctx) (va : DWord) (acc : Acc) : Nat → State × List Nat × Option KickAt
  | 0 => (c.s, [], none)
  | n + 1 =>
    let r := c.kickLines va acc n
    match r.2.2 with
    | some _ => r
    | none =>
      let p := r.1.kickPlace c.blk c.g.ctx (va + BitVec.ofNat 64 (128 * n)) acc
      match p.2 with
      | .at_ pa => (p.1, r.2.1 ++ [pa / 128], none)
      | x => (p.1, r.2.1, some x)

/-- A kick on a run of lines, refused by status 0x06 where one of them is (R214, R431). -/
def Ctx.kickRun (c : Ctx) (va : DWord) (n : Nat) (acc : Acc) (k : List Nat → Kick) : State × Option Kick :=
  let r := c.kickLines va acc n
  (r.1, match r.2.2 with
    | none => some (k r.2.1)
    | some .wait => none
    | some _ => some (.refused 0x06))

def execCpyk (f : RForm) (s : State) : Out :=
  issueW (shCpyk f) (fun c => c.kick f .c (c.offCheck (c.uni32 f.a) 64 64) (c.s, some (.copy (c.uni32 f.a)))) s

def execGsk (f : RForm) (s : State) : Out :=
  issueW (shGsk f) (fun c => c.kick f .c (c.offCheck (c.uni32 f.a) 64 64) (c.s, some (.gather (c.uni32 f.a)))) s

def execColk (f : RForm) (s : State) : Out :=
  issueW (shColk f) (fun c =>
    let va := c.uni64 f.a
    c.kick f .f ((alignCheck va 256).or (c.rbkCheck va)) (c.kickRun va 1 .read (fun _ => .coll va))) s

/-- The checks of `RKPUT` and `RKGET`. -/
def Ctx.rookCheck (c : Ctx) (f : RForm) : Option TrapInfo :=
  (alignCheck (c.uni64 f.a) 128).or ((c.offCheck (c.uni32 f.b) 32 32).or (c.rbkCheck (c.uni64 f.a)))

def execRkput (f : RForm) (s : State) : Out :=
  issueW (shRkput f) (fun c =>
    c.kick f .f (c.rookCheck f) (c.kickRun (c.uni64 f.a) 128 .read (fun ls => .rkput (c.uni64 f.a) ls (c.uni32 f.b)))) s

def execRkget (f : RForm) (s : State) : Out :=
  issueW (shRkput f) (fun c =>
    c.kick f .f (c.rookCheck f) (c.kickRun (c.uni64 f.a) 32 .write (fun ls => .rkget (c.uni64 f.a) ls (c.uni32 f.b)))) s

/-- The event ring has room. -/
def Castle.hasRoom (c : Castle) : Bool :=
  decide (1 ≤ c.celog.toNat) && decide (c.celog.toNat ≤ 16) && decide ((c.cetail - c.cehead).toNat < 2 ^ c.celog.toNat)

def CastleEvent.isHint (e : CastleEvent) : Bool := e.kind == 5

/-- An event of the Castle engine; a hint that finds the ring full is dropped (R388). -/
def State.castleEvent (s : State) (e : CastleEvent) : State :=
  if e.isHint && !s.castle.hasRoom then s
  else { s with castle := { s.castle with events := s.castle.events ++ [{ e with time := s.gtime }] } }

/-- R389: a hint on an address that translates through a leaf, rounded down to its page. -/
def execMigh (f : RForm) (s : State) : Out :=
  issueW (shMigh f) (fun c =>
    let va := c.uni64 f.a
    let tier := c.uni32 f.b
    if !c.anylive || decide (2 < tier) then c.done []
    else match c.s.route c.g.ctx va .read with
      | .tables => match c.s.walk c.g.ctx va with
        | .ok l =>
          .go { s := c.s.castleEvent { kind := 5, tier := BitVec.ofNat 2 tier,
                                       addr := BitVec.ofNat 64 (va.toNat / pageSize l.lv * pageSize l.lv) } }
        | .error t => if t.held then .pass else c.done []
      | _ => c.done []) s

/-- R214: a queue number above 63 is a value check of the entry, whatever the lanes. -/
def execLaunch (f : RForm) (s : State) : Out :=
  issueW (shLaunch f) (fun c =>
    let va := c.uni64 f.a
    let q := c.uni32 f.b
    if 64 ≤ q then c.trap .illegalOperand 0x08
    else c.kick f .c ((alignCheck va 128).or (c.rbkCheck va)) (c.s, some (.launch va (BitVec.ofNat 6 q)))) s

/-! ### The engines read (R215, R361) -/

/-- The oldest operation of an agent on a path that has not been performed. -/
def State.firstOp (s : State) (a : Agent) (p : Path) : Option Op :=
  match s.win? a with
  | some wn => wn.ops.find? (fun o => o.path == p && !o.done)
  | none => none

/-- An earlier operation of the agent still touches one of these lines; a stream's `ASTS` counts wherever it writes
(R253). -/
def Win.touches (wn : Win) (o : Op) (qs : List Ask) : Bool :=
  wn.ops.any (fun p => decide (p.num < o.num) && !p.done && (match p.kind with
    | .asts .. => true
    | k => asksMeet k.asks qs))

/-- The bytes of a structure in a scratchpad. -/
def scratchAsk (b : BlockId) (o n : Nat) : Ask :=
  { va := 0, loc := (Loc.scratch b o).base, mask := spanMask (o % 128) n, side := false }

/-- Copies in flight on a core; 64 fill its engine. -/
def State.copies (s : State) (core : Nat) : Nat := (s.eng.filter (fun e => e.core == core && !e.gather)).length

/-- A status reaches the kick's destination and its counter falls. -/
def State.answerKick (s : State) (a : Agent) (o : Op) (st : Byte) : State :=
  let s1 := s.land a o (fun _ => st.setWidth 1024)
  match a with
  | .warp _ => s1
  | .seq b => s1.seqSettle b

/-- A checked request starts its operation. -/
def State.startEng (s : State) (a : Agent) (o : Op) (r : Byte × Option EngOp) : State :=
  (match r.2 with
   | some e => { s with eng := s.eng ++ [e], nextEng := s.nextEng + 1 }
   | none => s).answerKick a o r.1

/-- A table base in HBM4E, whatever its page or heap permits (R221). -/
def State.inHbm (s : State) (ctx : Nat) (va : DWord) : Bool :=
  let c := s.context ctx
  let l : Option Loc :=
    if 2 ^ 57 ≤ va.toNat ∨ inWindow va.toNat = true ∨ c.cvalid = false then none
    else if c.hbase.toNat ≤ va.toNat ∧ va.toNat < c.hbase.toNat + c.hlim.toNat then some (.mem (va + c.hofs).toNat)
    else match s.walk ctx va with
      | .ok f => some (s.leafPlace f.pte (va.toNat % pageSize f.lv))
      | .error _ => none
  match l with
  | some (.mem pa) => tierOf pa == some 0
  | _ => false

/-- LAP of record `n` of a ring (R350). -/
def lapOf (qlog n : Nat) : Bool := n / 2 ^ qlog % 2 == 0

def recWithLap (r : VReg) (lap : Bool) : VReg := if lap then r ||| 1 else r &&& ~~~(1 : VReg)

/-- Physical address of slot `n` of a queue. -/
def Queue.slotPa (q : Queue) (n : Nat) : Nat := q.qbase.toNat + 128 * (n % 2 ^ q.qlog.toNat)

/-- The status that a device queue gives a record before it is read: 0x20, 0x21, or 0 (R361). -/
def State.slotStatus (s : State) (qn : Nat) : Byte :=
  let q := s.queue qn
  if q.qstate = 0 || q.disabling || !q.devq then 0x20
  else if 2 ^ q.qlog.toNat ≤ (q.tail - q.head).toNat then 0x21
  else 0x00

/-- A record copied into the next slot of a device queue (R361, R428), or the status that refuses it. -/
def State.fillSlot (s : State) (qn : Nat) (r : VReg) (rook : Bool) : State × Byte :=
  let q := s.queue qn
  if s.slotStatus qn ≠ 0 then (s, s.slotStatus qn)
  else if Rec.rkr r && !rook then (s, 0x23)
  else
    let n := q.tail.toNat
    let s1 := s.devWrite none (q.slotPa n / 128)
      { data := recWithLap r (lapOf q.qlog.toNat n), mask := BitVec.allOnes 128 }
    (s1.setQueue qn (fun q => { q with tail := q.tail + 1 }), 0x00)

/-- A `LAUNCH` of the same clk to the same queue by a warp of a lower quadrant of the core comes first (R361). -/
def State.launchBefore (s : State) (w : WarpId) (core : Nat) (o : Op) (q : BitVec 6) : Bool :=
  let quad (b : Block) (n : Nat) : Nat := (b.q0 + n) % 4
  match s.warp? w with
  | none => false
  | some (b, _) => (s.blocks.filter (fun k => k.core == core)).any (fun k => (k.warps.zip (List.range k.warps.length)).any (fun p =>
      decide (quad k p.2 < quad b w.warp) && p.1.win.ops.any (fun x => !x.done && x.clk == o.clk && (match x.kind with
        | .kick (.launch _ r) _ => r == q
        | _ => false))))

/-- The next slot of a device queue cannot be written now. -/
def State.slotBusy (s : State) (qn : Nat) : Bool := s.lineBusy ((s.queue qn).slotPa (s.queue qn).tail.toNat / 128)

/-- `LAUNCH`: after every earlier access of the warp, performed at `.dev`; the first code that applies is given. A record
in a poisoned line reads as zeros, and the read counts for the grid (R391). -/
def State.readLaunch (s : State) (a : Agent) (o : Op) (b : Block) (g : Grid) (wn : Win) (va : DWord) (q : BitVec 6) : State :=
  match a with
  | .seq _ => s
  | .warp w =>
    if wn.ops.any (fun p => decide (p.num < o.num) && !p.done && p.kind.isLsu) || s.releaseLocked b.core w ||
        s.launchBefore w b.core o q then s
    else
      let s1 := (s.reddDrain w).releaseWb b.core w
      if !(s1.noSpills w) || !(s1.settled (dieOfCore b.core) false) then s1
      else if s1.slotStatus q.toNat ≠ 0 then s1.answerKick a o (s1.slotStatus q.toNat)
      else match s1.kickPlace b g.ctx va .read with
        | (s1, .refused) => s1.answerKick a o 0x22
        | (s1, .wait) => s1
        | (s1, .at_ pa) =>
          if s1.atPeer (pa / 128) then s1.homeFill (pa / 128) (dieOfCore b.core)
          else if s1.lineBusy (pa / 128) || s1.slotBusy q.toNat then s1
          else
            let s2 := if s1.poisoned (pa / 128) then s1.notePoison g.id 1 else s1
            let r := s2.fillSlot q.toNat (s2.homeRead (pa / 128)).1 false
            r.1.answerKick a o r.2

/-- A kick comes after other warps' scratchpad accesses that are not performed yet (R295). -/
def State.kickSynced (s : State) (a : Agent) (o : Op) : Bool :=
  match a with
  | .warp w => (s.warp? w).any (fun p => s.syncHeld p.2 o.num)
  | .seq _ => false

/-- R215: an engine reads the request of the oldest kick on path C. -/
def execEngineRequestRead (a : Agent) (s : State) : Out :=
  .next (match (s.firstOp a .c).filter (fun o => !(s.kickSynced a o)), s.block? a.blockId, s.grid? a.blockId.grid, s.win? a with
    | some o, some b, some g, some wn =>
      let n := Rec.nbobj g.record
      (match o.kind with
       | .kick (.copy off) _ =>
         let qs := [scratchAsk b.id off 64, scratchAsk b.id (64 * b.snat (off + 4) 2) 64,
           scratchAsk b.id (64 * b.snat (off + 6) 2) 64]
         if wn.touches o qs || decide (64 ≤ s.copies b.core) then s
         else s.startEng a o (checkCopy b n (Rec.scrb g.record) off s.nextEng)
       | .kick (.gather off) _ =>
         if wn.touches o [scratchAsk b.id off 64] then s
         else s.startEng a o (checkGather b n off s.nextEng (s.inHbm g.ctx))
       | .kick (.launch va q) _ => s.readLaunch a o b g wn va q
       | .kick (.refused st) _ => s.answerKick a o st
       | _ => s)
    | _, _, _, _ => s)

/-! ### Collective plans and Rook operations at the kick (R216, R415, R420) -/

namespace PlanF

def op (r : VReg) : Nat := recField r 0 0 2
def dtype (r : VReg) : Nat := recField r 0 2 2
def cmp (r : VReg) : Nat := recField r 0 4 2
def nin (r : VReg) : Nat := recField r 4 0 16
def nout (r : VReg) : Nat := recField r 4 16 16
def myin (r : VReg) : Nat := recField r 8 0 16
def myout (r : VReg) : Nat := recField r 8 16 16
def tag (r : VReg) : Nat := recField r 0x0C 0 32
def count (r : VReg) : Nat := recField r 0x10 0 64
def srca (r : VReg) : Nat := recField r 0x18 0 64
def dsta (r : VReg) : Nat := recField r 0x20 0 64
def resa (r : VReg) : Nat := recField r 0x28 0 64
def cword (r : VReg) : Nat := recField r 0x30 0 64
def inl (r : VReg) : Nat := recField r 0x38 0 64
def outl (r : VReg) : Nat := recField r 0x40 0 64

/-- The codes 0x01 to 0x05 of a plan; `hi` is its second line. A reserved code of OP, DTYPE or CMP gives 0x02 (DESIGN CHOICE,
log 103: R420 names both 0x01, a reserved field or code, and 0x02, OP, DTYPE or CMP invalid). -/
def check (r hi : VReg) (running : Nat) : Byte :=
  if recField r 0 6 26 != 0 || recField r 0x48 0 448 != 0 || hi != 0 then 0x01
  else if 2 ≤ op r ∨ 2 ≤ dtype r ∨ cmp r = 3 ∨ (cmp r ≠ 0 ∧ (op r = 1 ∨ nout r = 1)) then 0x02
  else if nin r = 0 ∨ 1024 < nin r ∨ nout r = 0 ∨ 64 < nout r ∨ nin r ≤ myin r ∨ nout r ≤ myout r ∨
      count r % (32 * nin r * nout r) ≠ 0 then 0x03
  else if srca r % 128 ≠ 0 ∨ dsta r % 128 ≠ 0 ∨ resa r % 128 ≠ 0 ∨ cword r % 8 ≠ 0 then 0x04
  else if 8 ≤ running then 0x05
  else 0x00

end PlanF

/-- Writes back what the warp's core holds dirty in a line, as an engine's read of a named structure sees it (R215). -/
def State.planWb (s : State) (core pa : Nat) : State := s.wbLine core (pa / 128)

/-- The collective engine reads and checks a plan. -/
def State.readPlan (s : State) (w : WarpId) (o : Op) (b : Block) (g : Grid) (wn : Win) (va : DWord) : State :=
  let d := dieOfCore b.core
  let q0 := s.kickPlace b g.ctx va .read
  let q1 := q0.1.kickPlace b g.ctx (va + 128) .read
  let s := q1.1
  match q0.2, q1.2 with
  | .wait, _ | _, .wait => s
  | .at_ p0, .at_ p1 =>
    let ask (p : Nat) : Ask := { va := va, loc := (Loc.mem p).base, mask := BitVec.allOnes 128, side := false }
    if wn.touches o [ask p0, ask p1] || s.locked (p0 / 128) || s.locked (p1 / 128) then s
    else
      let s1 := (s.planWb b.core p0).planWb b.core p1
      (match s1.pocRead? d (p0 / 128) (BitVec.allOnes 128) false, s1.pocRead? d (p1 / 128) (BitVec.allOnes 128) false with
       | some (r, _, false), some (hi, _, false) =>
         let st := PlanF.check r hi ((s1.fab.plans.filter (fun p => p.die == d)).length)
         (if st = 0 then s1.setFab (fun f => { f with
              plans := f.plans ++ [{ id := f.nextPlan, die := d, grid := w.grid, bytes := r }], nextPlan := f.nextPlan + 1 })
          else s1).answerKick (.warp w) o st
       | some _, some _ => s1.answerKick (.warp w) o 0x06
       | _, _ => (s1.requestLine d (p0 / 128)).requestLine d (p1 / 128))
  | _, _ => s.answerKick (.warp w) o 0x06

/-- The tag of a Rook operation (R216). -/
structure RookTag where
  bad : Bool
  rook : BitVec 16
  dev : Nat
  blk : Word
  step : BitVec 48
  contrib : BitVec 5
deriving DecidableEq, Repr

def tagOf (b : Block) (o : Nat) : RookTag :=
  let w0 := b.snat o 4
  let w4 := b.snat (o + 16) 4
  { bad := field w0 26 6 != 0 || b.snat (o + 14) 2 != 0 || field w4 5 27 != 0 || b.snat (o + 20) 12 != 0,
    rook := BitVec.ofNat 16 w0, dev := field w0 16 10, blk := BitVec.ofNat 32 (b.snat (o + 4) 4),
    step := BitVec.ofNat 48 (b.snat (o + 8) 6), contrib := BitVec.ofNat 5 w4 }

/-- A put or get leaves for the region that its tag names, or its answer reaches the kick. `peerStatus` is the answer
of another device's region, as it arrives. The tag is a peer request like any other (R403; DEDUCED, log 73): its response
comes as it reaches the region, the answer when the region decides; a response with error, or none within TREQ, ends it
with 0x30. -/
def State.rookKick (s : State) (w : WarpId) (o : Op) (b : Block) (wn : Win) (tag : Nat) (get : Bool)
    (lines : List Nat) (peerStatus : Byte) : State :=
  let own := PeerOwner.op (.warp w) o.num
  match s.fab.rookOwn.find? (fun r => r.w == w && r.num == o.num), s.outOf own with
  | some r, _ =>
    (match r.status with
     | some st => (s.setFab (fun f => { f with rookOwn := f.rookOwn.filter (fun q => !(q.w == w && q.num == o.num)) })).answerKick
         (.warp w) o st
     | none => s)
  | none, out :: _ =>
    (match out.answer, out.left with
     | some (.ok, _, _), _ => (s.dropOut own).answerKick (.warp w) o peerStatus
     | some _, _ => (s.dropOut own).answerKick (.warp w) o 0x30
     | none, some _ => (s.dropOut own).answerKick (.warp w) o peerStatus
     | none, none => s)
  | none, [] =>
    if wn.touches o [scratchAsk b.id tag 32] then s
    else
      let t := tagOf b tag
      if t.bad then s.answerKick (.warp w) o 0x01
      else if t.dev = s.fab.fabid.toNat then
        s.setFab (fun f => { f with rookOwn := f.rookOwn ++ [{ w := w, num := o.num }] })
      else s.peerSend own (dieOfCore b.core) t.dev 0
        (if get then .rookGet t.rook t.blk t.step lines else .rookPut t.rook t.blk t.step t.contrib lines)

/-- R214, R420: an engine of path F answers the oldest kick on it, or takes it in hand. -/
def execFabricAnswer (w : WarpId) (peerStatus : Byte) (s : State) : Out :=
  .next (match (s.firstOp (.warp w) .f).filter (fun o => !(s.kickSynced (.warp w) o)), s.warp? w, s.grid? w.grid with
    | some o, some (b, x), some g =>
      (match o.kind with
       | .kick (.coll va) _ => s.readPlan w o b g x.win va
       | .kick (.rkput _ ls tag) _ => s.rookKick w o b x.win tag false ls peerStatus
       | .kick (.rkget _ ls tag) _ => s.rookKick w o b x.win tag true ls peerStatus
       | .kick (.refused st) _ => s.answerKick (.warp w) o st
       | _ => s)
    | _, _, _ => s)

end Sys2Proof.Machine
end

