-- ==== Sys2Proof/Machine/Approx.lean ====
section
/-! DEFINITION. The approximated functions (R156-R158). A result is exact where R157 says so and as R158 fixes it;
elsewhere an FP32 result is the free value of `Config.approx` when that value lies within the bound of R157 of the
function's value (computed here in 160-bit fixed point), and the nearest FP32 value when it does not; a half-type
result is one of the two neighbours, chosen by `Config.approxUp`. -/

namespace Sys2Proof.Machine

/-- The approximated functions of R157. -/
inductive AFn where
  | rcp | rsq | exp2 | log2 | sinp | cosp | tanh | erf
deriving DecidableEq, Repr

def AFn.code : AFn → Nat
  | .rcp => 0 | .rsq => 1 | .exp2 => 2 | .log2 => 3 | .sinp => 4 | .cosp => 5 | .tanh => 6 | .erf => 7

/-! ### Fixed point with 160 fraction bits -/

def fxP : Nat := 160
def fxOne : Nat := 2 ^ 160
def fxPi : Nat := 0x3243f6a8885a308d313198a2e03707344a4093822
def fxLn2 : Nat := 0xb17217f7d1cf79abc9e3b39803f2f6af40f34326
def fxTwoOverSqrtPi : Nat := 0x120dd750429b6d11ae3a914fed7fd8688281341d7

def fxMul (a b : Nat) : Nat := (a * b) >>> fxP

/-- e^t for fixed-point t below 1: the Taylor series from term `k` on. -/
def fxExpFrom (t : Nat) : Nat → Nat → Nat → Nat → Nat
  | 0, _, _, acc => acc
  | fuel + 1, k, term, acc => fxExpFrom t fuel (k + 1) (fxMul term t / k) (acc + fxMul term t / k)

def fxExp (t : Nat) : Nat := fxExpFrom t 50 1 fxOne fxOne

/-- e^t for fixed-point t below 32, by repeated squaring. -/
def fxExpBig (t : Nat) : Nat :=
  let y := fxExp (t / 32)
  let y := fxMul y y
  let y := fxMul y y
  let y := fxMul y y
  let y := fxMul y y
  fxMul y y

/-- The series of atanh(u)/u. -/
def fxAtanhFrom (u2 : Nat) : Nat → Nat → Nat → Nat → Nat
  | 0, _, _, acc => acc
  | fuel + 1, k, pw, acc => fxAtanhFrom u2 fuel (k + 2) (fxMul pw u2) (acc + fxMul pw u2 / k)

/-- ln z for z = num/den in [1, 2). -/
def fxLn (num den : Nat) : Nat :=
  let u := ((num - den) <<< fxP) / (num + den)
  2 * fxMul u (fxAtanhFrom (fxMul u u) 60 3 fxOne fxOne)

/-- The alternating series of sin(t)/t in t², terms k from 1. -/
def fxSincFrom (t2 : Nat) : Nat → Nat → Nat → Int → Int
  | 0, _, _, acc => acc
  | fuel + 1, k, term, acc =>
    let term := fxMul term t2 / (2 * k * (2 * k + 1))
    fxSincFrom t2 fuel (k + 1) term (if k % 2 = 1 then acc - (term : Int) else acc + (term : Int))

/-- The alternating series of erf(x)·√π/(2x) in x², terms k from 1. -/
def fxErfFrom (x2 : Nat) : Nat → Nat → Nat → Int → Int
  | 0, _, _, acc => acc
  | fuel + 1, k, pw, acc =>
    let pw := fxMul pw x2 / k
    let term := pw / (2 * k + 1)
    fxErfFrom x2 fuel (k + 1) pw (if k % 2 = 1 then acc - (term : Int) else acc + (term : Int))

/-- A positive dyadic number in fixed point (exact for every finite operand below 2^40). -/
def toFx (m : Nat) (e : Int) : Nat :=
  if 0 ≤ (fxP : Int) + e then m <<< ((fxP : Int) + e).toNat else m >>> (-((fxP : Int) + e)).toNat

/-- The value of a function as a signed dyadic number. -/
structure AVal where
  neg : Bool
  m : Nat
  e : Int
  exact : Bool := false
deriving DecidableEq, Repr

/-- sin(πq) for a fixed-point q: the sign and the reduced argument in [0, 1/2]. -/
def sinReduce (q : Nat) : Bool × Nat :=
  let r := q % (2 * fxOne)
  let neg := fxOne ≤ r
  let r := if fxOne ≤ r then r - fxOne else r
  (neg, if fxOne / 2 < r then fxOne - r else r)

/-- sin(πq) for q = m·2^e in [0, 1/2]. -/
def sinSmall (m : Nat) (e : Int) : AVal :=
  let t := fxMul fxPi (toFx m e)
  let s := (fxSincFrom (fxMul t t) 60 1 fxOne fxOne).toNat
  ⟨false, m * fxMul fxPi s, e - fxP, false⟩

/-- A quotient of naturals with 200 more bits than the divisor. -/
def recip (m : Nat) : AVal := let k := 200 + Nat.log2 m; ⟨false, 2 ^ k / m, -(k : Int), m == 2 ^ Nat.log2 m⟩

/-- The function's value at a finite non-zero operand outside the fixed results of R158. -/
def aValue (fn : AFn) (neg : Bool) (m : Nat) (e : Int) : AVal :=
  match fn with
  | .rcp => let r := recip m; ⟨neg, r.m, r.e - e, r.exact⟩
  | .rsq =>
    let w : Nat × Int := if e % 2 = 0 then (m <<< 400, e - 400) else (m <<< 401, e - 401)
    let r := isqrt w.1
    let q := recip r
    ⟨false, q.m, q.e - w.2 / 2, r * r == w.1 && q.exact⟩
  | .exp2 =>
    let x : Int := if neg then -((toFx m e : Nat) : Int) else ((toFx m e : Nat) : Int)
    let n := x / (fxOne : Int)
    let fr := (x % (fxOne : Int)).toNat
    ⟨false, fxExp (fxMul fr fxLn2), n - fxP, fr == 0⟩
  | .log2 =>
    let l := Nat.log2 m
    let z := fxLn m (2 ^ l)
    let v : Int := ((l : Int) + e) * (fxOne : Int) + ((z <<< fxP) / fxLn2 : Nat)
    ⟨decide (v < 0), v.natAbs, -(fxP : Int), m == 2 ^ l⟩
  | .sinp =>
    if (Nat.log2 m : Int) + e < -1 then let r := sinSmall m e; ⟨neg, r.m, r.e, false⟩
    else
      let r := sinReduce (toFx m e)
      let s := sinSmall r.2 (-(fxP : Int))
      if r.2 = 0 then ⟨neg, 0, 0, true⟩
      else if r.2 = fxOne / 2 then ⟨r.1 != neg, 1, 0, true⟩ else ⟨r.1 != neg, s.m, s.e, false⟩
  | .cosp =>
    -- 1 - cos is below 2^-138 there: y lies just under 1.
    if (Nat.log2 m : Int) + e < -70 then ⟨false, 2 ^ 400 - 1, -400, false⟩ else
    let r := sinReduce (toFx m e + fxOne / 2)
    let s := sinSmall r.2 (-(fxP : Int))
    if r.2 = 0 then ⟨false, 0, 0, true⟩
    else if r.2 = fxOne / 2 then ⟨r.1, 1, 0, true⟩ else ⟨r.1, s.m, s.e, false⟩
  | .tanh =>
    let y := fxExpBig (2 * toFx m e)
    ⟨neg, ((y - fxOne) <<< fxP) / (y + fxOne), -(fxP : Int), false⟩
  | .erf =>
    let x := toFx m e
    let s := (fxErfFrom (fxMul x x) 120 1 fxOne fxOne).toNat
    ⟨neg, m * fxMul fxTwoOverSqrtPi s, e - fxP, false⟩

/-! ### Delivery (R156, R157) -/

/-- The bound of R157 at the value y, as a magnitude k·2^q. -/
def aBound (fn : AFn) (x : FV) (y : AVal) : Nat × Int :=
  let top : Int := (Nat.log2 y.m : Int) + y.e
  let ulp : Int := (if top < -126 then -126 else top) - 23
  let inHalfTwo := match x with
    | .fin _ m e => (Nat.log2 m : Int) + e == -1 || (Nat.log2 m : Int) + e == 0
    | _ => false
  match fn with
  | .rcp | .rsq => (1, ulp)
  | .exp2 => (if top < -126 then 1 else 2, ulp)
  | .log2 => if inHalfTwo then (1, -22) else (2, ulp)
  | _ => (2, ulp)

/-- Whether a finite delivered value lies within the bound, with 2^-60 of it to spare. -/
def aWithin (y : AVal) (v : FV) (bd : Nat × Int) : Bool :=
  match v with
  | .fin n m e =>
    let e0 := [y.e, e, bd.2 - 60].foldl (fun a b => if b < a then b else a) 0
    let d := (atExp e0 n m e - atExp e0 y.neg y.m y.e).natAbs
    let one := (1 : Nat) <<< (bd.2 - 60 - e0).toNat
    decide (d ≤ one * (bd.1 * 2 ^ 60 - 1))
  | _ => false

/-- The flags of a delivered value that differs from y: NX, and UF where it is tiny (R156). -/
def aFlags (f : FFmt) (bits : Nat) : Flags := Flags.nx ||| (if bits % 2 ^ (f.width - 1) < 2 ^ f.fw then Flags.uf else 0)

/-- The delivered result for a value that R158 does not fix. A half-type result is y where y can be represented, and
freely one of the two values that bracket it elsewhere; past the largest finite value these are that value and infinity
(R156; log 66). -/
def aDeliver (f : FFmt) (fn : AFn) (tyc x : Nat) (v : FV) (y : AVal) : FRes :=
  if f = fp32 then
    if y.exact then fround f .rne y.neg y.m y.e false
    else
      let c := Config.approx fn.code tyc x % 2 ^ 32
      let bits := if aWithin y (fdecode fp32 c) (aBound fn v y) then c else (fround fp32 .rne y.neg y.m y.e true).bits
      ⟨bits, aFlags f bits⟩
  else
    let near := fround f .rz y.neg y.m y.e (!y.exact)
    let far := fround f (if y.neg then .rd else .ru) y.neg y.m y.e (!y.exact)
    if near.fl &&& Flags.nx = 0 then near
    else
      let r := if Config.approxUp fn.code tyc x then far else near
      ⟨r.bits, (r.fl &&& Flags.of) ||| aFlags f r.bits⟩

/-- The number 1 of a format. -/
def oneBits (f : FFmt) (neg : Bool) : Nat := f.signBit neg + f.bias * 2 ^ f.fw

/-- A result without flags. -/
def plain (bits : Nat) : FRes := ⟨bits, .none⟩

/-- Whether the magnitude m·2^e is at most 2^k. -/
def leTwo (m : Nat) (e k : Int) : Bool :=
  decide ((Nat.log2 m : Int) + e < k) || ((Nat.log2 m : Int) + e == k && m == 2 ^ Nat.log2 m)

/-- Whether the magnitude m·2^e is at least n. -/
def geNat (m : Nat) (e : Int) (n : Nat) : Bool :=
  if 0 ≤ e then decide (n ≤ m <<< e.toNat) else decide (n <<< (-e).toNat ≤ m)

/-- The approximated functions over every input (R156-R158); `x` is the operand's bits and `tyc` its type code. -/
def fapprox (f : FFmt) (fn : AFn) (tyc x : Nat) (v : FV) : FRes :=
  match v with
  | .nan s => fnan f s
  | .inf n =>
    match fn with
    | .rcp => plain (f.zeroBits n)
    | .rsq => if n then fnan f true else plain 0
    | .exp2 => if n then plain 0 else plain (f.infBits false)
    | .log2 => if n then fnan f true else plain (f.infBits false)
    | .sinp | .cosp => fnan f true
    | .tanh | .erf => plain (oneBits f n)
  | .fin n m e =>
    if m = 0 then
      match fn with
      | .rcp | .rsq => ⟨f.infBits n, Flags.dz⟩
      | .log2 => ⟨f.infBits true, Flags.dz⟩
      | .exp2 | .cosp => plain (oneBits f false)
      | .sinp | .tanh | .erf => plain (f.zeroBits n)
    else
      let y := fun (_ : Unit) => aDeliver f fn tyc x v (aValue fn n m e)
      match fn with
      | .rcp => if leTwo m e (-128) then ⟨f.infBits n, Flags.of ||| Flags.nx⟩ else y ()
      | .rsq => if n then fnan f true else y ()
      | .exp2 =>
        if !n && geNat m e 128 then ⟨f.infBits false, Flags.of ||| Flags.nx⟩
        else if n && geNat m e 150 then ⟨0, Flags.uf ||| Flags.nx⟩ else y ()
      | .log2 => if n then fnan f true else y ()
      | .sinp | .cosp => y ()
      | .tanh =>
        if geNat m e 10 then ⟨oneBits f n, Flags.nx⟩
        else if leTwo m e (-12) then
          ⟨x % 2 ^ f.width, Flags.nx ||| (if (Nat.log2 m : Int) + e < f.emin then Flags.uf else 0)⟩
        else y ()
      | .erf => if geNat m e 4 then ⟨oneBits f n, Flags.nx⟩ else y ()

end Sys2Proof.Machine
end

