-- ==== Sys2Proof/Machine/Uniform.lean ====
section
/-! DEFINITION. Group 1, the uniform instructions (R113-R127). -/

namespace Sys2Proof.Machine

/-- A uniform result of the type's width, extended to the register (R115). -/
def Ctx.outU (c : Ctx) (d : Opnd) (t : Ty) (x : Nat) : Body :=
  c.done (outS c.anyActive (opndNum d) (tyWide t) (if tyWide t then x else extReg t x))

/-- A single 32-bit uniform result. -/
def Ctx.out32 (c : Ctx) (d : Opnd) (x : Nat) : Body := c.done (outS c.anyActive (opndNum d) false x)

/-- One, two or three sources through an integer operation (R116). -/
def uniOp (o : IOp) (sh : Shape) (f : RForm) (s : State) : Out :=
  issueW sh (fun c => c.outU f.d f.ty (iop o f.ty f.sat (c.uniN f.ty f.a) (c.uniN f.ty f.b) (c.uniN f.ty f.c))) s

def uniShift (o : ShOp) (f : RForm) (s : State) : Out :=
  issueW (shSshl f) (fun c => c.outU f.d f.ty (ishift o (tyW f.ty) (c.uniN f.ty f.a) (c.uni32 f.b))) s

/-- R123: the value is copied at the type's width. -/
def execSmov (f : RForm) (s : State) : Out := issueW (shSmov f) (fun c => c.outU f.d f.ty (c.uniN f.ty f.a)) s
/-- R123. -/
def execSli (f : IForm) (s : State) : Out := issueW (shSli f) (fun c => c.outU f.d (iTy f) (xImmNat (iTy f) f.x)) s
def execSadd (f : RForm) (s : State) : Out := uniOp .add (shSadd f) f s
def execSsub (f : RForm) (s : State) : Out := uniOp .sub (shSadd f) f s
def execSmul (f : RForm) (s : State) : Out := uniOp .mul (shSadd f) f s
def execSmulh (f : RForm) (s : State) : Out := uniOp .mulh (shSmulh f) f s
def execSmad (f : RForm) (s : State) : Out := uniOp .mad (shSmad f) f s
def execSand (f : RForm) (s : State) : Out := uniOp .and (shSand f) f s
def execSor (f : RForm) (s : State) : Out := uniOp .or (shSand f) f s
def execSxor (f : RForm) (s : State) : Out := uniOp .xor (shSand f) f s
def execSnot (f : RForm) (s : State) : Out := uniOp .not (shSnot f) f s
def execSshl (f : RForm) (s : State) : Out := uniShift .shl f s
def execSshr (f : RForm) (s : State) : Out := uniShift .shr f s
def execSsar (f : RForm) (s : State) : Out := uniShift .sar f s
def execSmin (f : RForm) (s : State) : Out := uniOp .min (shSmulh f) f s
def execSmax (f : RForm) (s : State) : Out := uniOp .max (shSmulh f) f s
/-- R119. -/
def execScmp (f : RForm) (s : State) : Out :=
  issueW (shScmp f) (fun c =>
    c.out32 f.d (b2n (icond f.sub.toNat (tyVal f.ty (c.uniN f.ty f.a)) (tyVal f.ty (c.uniN f.ty f.b))))) s
/-- R120. -/
def execSsel (f : RForm) (s : State) : Out :=
  issueW (shSsel f) (fun c => c.outU f.d f.ty (if c.uni32 f.c ≠ 0 then c.uniN f.ty f.a else c.uniN f.ty f.b)) s
/-- R121. -/
def execSbfe (f : RForm) (s : State) : Out :=
  issueW (shSbfe f) (fun c => c.outU f.d f.ty (ibfe f.ty (c.uniN f.ty f.a) (c.uni32 f.b) (c.uni32 f.c))) s
/-- R121. -/
def execSbfi (f : RForm) (s : State) : Out :=
  issueW (shSbfi f) (fun c => c.outU f.d f.ty (ibfi f.ty (c.uniN f.ty f.a) (c.uniN f.ty f.b) (c.uni32 f.c))) s
/-- R118. -/
def execSpopc (f : RForm) (s : State) : Out :=
  issueW (shSpopc f) (fun c => c.out32 f.d (ipopc (tyW f.ty) (c.uniN f.ty f.a))) s
/-- R118. -/
def execSclz (f : RForm) (s : State) : Out :=
  issueW (shSpopc f) (fun c => c.out32 f.d (iclz (tyW f.ty) (c.uniN f.ty f.a))) s

/-- `a + (ext(b) << N)` modulo 2^64 (R122, R136). -/
def leaOf (t : Ty) (n a b : Nat) : Nat := wrapW 64 ((a : Int) + tyVal t b * ((2 ^ n : Nat) : Int))

/-- R122. -/
def execSlea (f : RForm) (s : State) : Out :=
  issueW (shSlea f) (fun c =>
    c.done (outS c.anyActive (opndNum f.d) true (leaOf f.ty f.opx.toNat (c.uni64 f.a).toNat (c.uni32 f.b)))) s
/-- R124: the index wraps. -/
def execSldk (f : IForm) (s : State) : Out :=
  issueW (shSldk f) (fun c =>
    let i := (c.uni32 f.a + f.x.toNat) % 128
    c.done (outS c.anyActive (opndNum f.d) (tyWide (iTy f)) (join64 (c.konst ((i + 1) % 128)) (c.konst i)).toNat)) s
/-- R125: the lane is read whatever its state; checked mode looks at that lane's slot alone, which B names: of an uncovered
A and an uncovered B the detail is that of B, 0x03 (DESIGN CHOICE, log 84). -/
def execSfromv (f : RForm) (s : State) : Out :=
  issueW (shSfromv f) (fun c =>
    let l := c.uni32 f.b % 32
    let rs := opndRegs { cls := [.v], n := if tyWide f.ty then 2 else 1 } f.a
    if c.chk && rs.any (fun r => c.w.win.badSlot r l) then c.trap .undersizedStall 0x02
    else c.outU f.d f.ty (c.vecN f.ty f.a l)) s
/-- R126. -/
def execSfromk (f : RForm) (s : State) : Out :=
  issueW (shSfromk f) (fun c =>
    c.out32 f.d (if f.opx = 1 then c.maskOf f.a &&& c.live else c.maskOf f.a).toNat) s
/-- R127. -/
def execKfroms (f : RForm) (s : State) : Out :=
  issueW (shKfroms f) (fun c =>
    let m : Mask := if f.opx = 1 then (if c.anyActive then BitVec.allOnes 32 else 0) else c.active
    c.done (outK m (opndNum f.d) (BitVec.ofNat 32 (c.uni32 f.a)))) s

end Sys2Proof.Machine
end

