-- ==== Sys2Proof/Machine/Vector.lean ====
section
/-! DEFINITION. Group 2, the vector integer instructions and lane conditions (R128-R142). -/

namespace Sys2Proof.Machine

/-- A vector result of the type's width in the lanes with `regwrite`, extended to the lane (R128, R130). -/
def Ctx.doneV (c : Ctx) (f : RForm) (t : Ty) (g : Nat → Nat) : Body :=
  c.done (outV (c.regwrite f.g) (opndNum f.d) (tyWide t) (fun l => if tyWide t then g l else extReg t (g l)))

/-- A single-register vector result. -/
def Ctx.doneV32 (c : Ctx) (f : RForm) (g : Nat → Nat) : Body := c.done (outV (c.regwrite f.g) (opndNum f.d) false g)

/-- A condition per lane in a K register (R141). -/
def Ctx.doneK (c : Ctx) (f : RForm) (g : Nat → Bool) : Body := c.done (outK (c.regwrite f.g) (opndNum f.d) (ofMask g))

/-- One, two or three sources through an integer operation, lane by lane (R133). -/
def vecOp (o : IOp) (sh : Shape) (f : RForm) (s : State) : Out :=
  issueW sh (fun c =>
    let a := c.vecN f.ty f.a
    let b := c.vecN f.ty f.b
    let x := c.vecN f.ty f.c
    c.doneV f f.ty (fun l => iop o f.ty f.sat (a l) (b l) (x l))) s

def vecShift (o : ShOp) (f : RForm) (s : State) : Out :=
  issueW (shVshl f) (fun c =>
    let a := c.vecN f.ty f.a
    let b := c.vecN .n32 f.b
    c.doneV f f.ty (fun l => ishift o (tyW f.ty) (a l) (b l))) s

def execVmov (f : RForm) (s : State) : Out :=
  issueW (shVmov f) (fun c => let a := c.vecN f.ty f.a; c.doneV f f.ty a) s
/-- R133: the immediate in every lane with `regwrite`. -/
def execVli (f : IForm) (s : State) : Out :=
  issueW (shVli f) (fun c =>
    let t := iTy f
    let x := xImmNat t f.x
    c.done (outV (c.regwrite f.g) (opndNum f.d) (tyWide t) (fun _ => if tyWide t then x else extReg t x))) s
def execVadd (f : RForm) (s : State) : Out := vecOp .add (shVadd f) f s
def execVsub (f : RForm) (s : State) : Out := vecOp .sub (shVadd f) f s
def execVmul (f : RForm) (s : State) : Out := vecOp .mul (shVmul f) f s
def execVmulh (f : RForm) (s : State) : Out := vecOp .mulh (shVmulh f) f s
def execVmad (f : RForm) (s : State) : Out := vecOp .mad (shVmad f) f s
def execVand (f : RForm) (s : State) : Out := vecOp .and (shVand f) f s
def execVor (f : RForm) (s : State) : Out := vecOp .or (shVand f) f s
def execVxor (f : RForm) (s : State) : Out := vecOp .xor (shVand f) f s
def execVnot (f : RForm) (s : State) : Out := vecOp .not (shVnot f) f s
def execVshl (f : RForm) (s : State) : Out := vecShift .shl f s
def execVshr (f : RForm) (s : State) : Out := vecShift .shr f s
def execVsar (f : RForm) (s : State) : Out := vecShift .sar f s
def execVmin (f : RForm) (s : State) : Out := vecOp .min (shVmin f) f s
def execVmax (f : RForm) (s : State) : Out := vecOp .max (shVmin f) f s
/-- R134. -/
def execVabs (f : RForm) (s : State) : Out :=
  issueW (shVabs f) (fun c => let a := c.vecN f.ty f.a; c.doneV f f.ty (fun l => iabs f.ty f.sat (a l))) s
/-- R141. -/
def execVcmp (f : RForm) (s : State) : Out :=
  issueW (shVcmp f) (fun c =>
    let a := c.vecN f.ty f.a
    let b := c.vecN f.ty f.b
    c.doneK f (fun l => icond f.sub.toNat (tyVal f.ty (a l)) (tyVal f.ty (b l)))) s
/-- The selection of `VSEL`: bits of a K register, or lanes whose 32-bit value is not zero. -/
def Ctx.selOf (c : Ctx) : Opnd → Nat → Bool
  | .k n => let m := c.kreg n.toNat; fun l => bit m l
  | o => let v := c.vecN .n32 o; fun l => v l != 0
/-- R137. -/
def execVsel (f : RForm) (s : State) : Out :=
  issueW (shVsel f) (fun c =>
    let a := c.vecN f.ty f.a
    let b := c.vecN f.ty f.b
    let p := c.selOf f.c
    c.doneV f f.ty (fun l => if p l then a l else b l)) s
def execVbfe (f : RForm) (s : State) : Out :=
  issueW (shVbfe f) (fun c =>
    let a := c.vecN f.ty f.a
    let b := c.vecN .n32 f.b
    let n := c.vecN .n32 f.c
    c.doneV f f.ty (fun l => ibfe f.ty (a l) (b l) (n l))) s
def execVbfi (f : RForm) (s : State) : Out :=
  issueW (shVbfi f) (fun c =>
    let a := c.vecN f.ty f.a
    let b := c.vecN f.ty f.b
    let n := c.vecN .n32 f.c
    c.doneV f f.ty (fun l => ibfi f.ty (a l) (b l) (n l))) s
def execVpopc (f : RForm) (s : State) : Out :=
  issueW (shVpopc f) (fun c => let a := c.vecN f.ty f.a; c.doneV32 f (fun l => ipopc (tyW f.ty) (a l))) s
def execVclz (f : RForm) (s : State) : Out :=
  issueW (shVpopc f) (fun c => let a := c.vecN f.ty f.a; c.doneV32 f (fun l => iclz (tyW f.ty) (a l))) s
/-- R135. -/
def execVbrev (f : RForm) (s : State) : Out :=
  issueW (shVnot f) (fun c => let a := c.vecN f.ty f.a; c.doneV f f.ty (fun l => ibrev (tyW f.ty) (a l))) s
/-- R136. -/
def execVlea (f : RForm) (s : State) : Out :=
  issueW (shVlea f) (fun c =>
    let a := c.vecN .n64 f.a
    let b := c.vecN .n32 f.b
    c.done (outV (c.regwrite f.g) (opndNum f.d) true (fun l => leaOf f.ty f.opx.toNat (a l) (b l)))) s
/-- R140. An inline immediate in A or B stands for the four bytes of its sign extension to 32 bits (DESIGN CHOICE,
log 76: R87 extends to one element of the type). -/
def execVdot4 (f : RForm) (s : State) : Out :=
  issueW (shVdot4 f) (fun c =>
    let a := c.vecN .n32 f.a
    let b := c.vecN .n32 f.b
    let x := c.vecN .n32 f.c
    c.doneV32 f (fun l => idot4 (f.ty == .s8) (f.opx == 1) f.sat (a l) (b l) (x l))) s
/-- R138. -/
def execVprmb (f : RForm) (s : State) : Out :=
  issueW (shVprmb f) (fun c =>
    let a := c.vecN .b32 f.a
    let b := c.vecN .b32 f.b
    let x := c.vecN .b32 f.c
    c.doneV32 f (fun l => iprmb (a l) (b l) (x l))) s
/-- R139: one lane, if it has `regwrite`. -/
def execVfroms (f : RForm) (s : State) : Out :=
  issueW (shVfroms f) (fun c =>
    let l := c.uni32 f.b % 32
    let x := c.uniN f.ty f.a
    c.done (outV (c.regwrite f.g &&& ((1 : Mask) <<< l)) (opndNum f.d) (tyWide f.ty)
      (fun _ => if tyWide f.ty then x else extReg f.ty x))) s
/-- R142. -/
def execKlogic (f : RForm) (s : State) : Out :=
  issueW (shKlogic f) (fun c =>
    let a := c.maskOf f.a
    let b := c.maskOf f.b
    let res := ofMask (fun l => bit f.sub (2 * b2n (bit a l) + b2n (bit b l)))
    let w := c.regwrite f.g
    c.done (outK (if f.opx = 1 then (if w = 0 then 0 else BitVec.allOnes 32) else w) (opndNum f.d) res)) s

end Sys2Proof.Machine
end

