-- ==== Sys2Proof/Machine/Float.lean ====
section
/-! DEFINITION. Group 3, the vector floating-point instructions (R143-R158), with their flags and traps (R145, R146). -/

namespace Sys2Proof.Machine

/-! ### Elements and source modifiers (R130, R144) -/

/-- The element format of a type. -/
def fpFmt : Ty → FFmt
  | .f16 | .f16x2 => fp16
  | .bf16 | .bf16x2 => bf16
  | _ => fp32

def fpPacked : Ty → Bool
  | .f16x2 | .bf16x2 => true
  | _ => false

/-- Absolute value, then negation, on the sign bit. -/
def srcMod (f : FFmt) (neg absv : Bool) (x : Nat) : Nat :=
  let sgn := 2 ^ (f.width - 1)
  let y := if absv then x % sgn else x % (2 * sgn)
  if neg then (if y < sgn then y + sgn else y - sgn) else y

/-- Element `i` of a lane. -/
def elemAt (x i : Nat) : Nat := field x (16 * i) 16

/-- An operation on the element or elements of a lane: bits and the union of the flags. -/
def fpMap (t : Ty) (g : (Nat → Nat) → FRes) : FRes :=
  if fpPacked t then
    let r0 := g (fun x => elemAt x 0)
    let r1 := g (fun x => elemAt x 1)
    ⟨r0.bits + r1.bits * 65536, r0.fl ||| r1.fl⟩
  else if tyW t = 16 then g (fun x => elemAt x 0) else g (fun x => x)

/-- The flags of the lanes of a mask. -/
def flagsOf (m : Mask) (g : Nat → FRes) : Flags := (lanesOf m).foldl (fun a l => a ||| (g l).fl) 0

/-- A floating-point result per lane, with its flags (R128, R145, R146). -/
def Ctx.doneF (c : Ctx) (f : RForm) (lat : Nat) (g : Nat → FRes) : Body :=
  let m := c.regwrite f.g
  c.doneFp lat (flagsOf m g) (outV m (opndNum f.d) false (fun l => (g l).bits))

/-- Two sources, each decoded from its modified bits. -/
def fpTwo (sh : Shape) (lat : Nat) (f : RForm) (op : FFmt → Nat → Nat → FRes) (s : State) : Out :=
  issueW sh (fun c =>
    let a := c.vecN f.ty f.a
    let b := c.vecN f.ty f.b
    let k := fpFmt f.ty
    c.doneF f lat (fun l => fpMap f.ty (fun e => op k (srcMod k f.na f.aa (e (a l))) (srcMod k f.nb f.ab (e (b l)))))) s

/-- One source. -/
def fpOne (sh : Shape) (lat : Nat) (f : RForm) (op : FFmt → Nat → FRes) (s : State) : Out :=
  issueW sh (fun c =>
    let a := c.vecN f.ty f.a
    let k := fpFmt f.ty
    c.doneF f lat (fun l => fpMap f.ty (fun e => op k (srcMod k f.na f.aa (e (a l)))))) s

/-- The clamp of SAT (R147). -/
def satIf (sat : Bool) (f : FFmt) (r : FRes) : FRes := if sat then fsat f r else r

/-! ### Arithmetic -/

def execFadd (f : RForm) (s : State) : Out :=
  fpTwo (shF2 f) 5 f (fun k a b => satIf f.sat k (fadd k f.rnd (fdecode k a) (fdecode k b))) s
def execFsub (f : RForm) (s : State) : Out :=
  fpTwo (shF2 f) 5 f (fun k a b => satIf f.sat k (fadd k f.rnd (fdecode k a) (fdecode k b).negate)) s
def execFmul (f : RForm) (s : State) : Out :=
  fpTwo (shF2 f) 5 f (fun k a b => satIf f.sat k (fmul k f.rnd (fdecode k a) (fdecode k b))) s
def execFfma (f : RForm) (s : State) : Out :=
  issueW (shFfma f) (fun c =>
    let a := c.vecN f.ty f.a
    let b := c.vecN f.ty f.b
    let x := c.vecN f.ty f.c
    let k := fpFmt f.ty
    c.doneF f 5 (fun l => fpMap f.ty (fun e => satIf f.sat k (ffma k f.rnd (fdecode k (srcMod k f.na f.aa (e (a l))))
      (fdecode k (srcMod k f.nb f.ab (e (b l)))) (fdecode k (srcMod k f.nc false (e (x l)))))))) s
def execFmin (f : RForm) (s : State) : Out := fpTwo (shFmin f) 5 f (fun k a b => fminmax k false a b) s
def execFmax (f : RForm) (s : State) : Out := fpTwo (shFmin f) 5 f (fun k a b => fminmax k true a b) s

/-- R150. -/
def execFcmp (f : RForm) (s : State) : Out :=
  issueW (shFcmp f) (fun c =>
    let a := c.vecN f.ty f.a
    let b := c.vecN f.ty f.b
    let k := fpFmt f.ty
    let m := c.regwrite f.g
    let g (l : Nat) : FRes :=
      let r := fcmp f.sub.toNat (fdecode k (srcMod k f.na f.aa (a l))) (fdecode k (srcMod k f.nb f.ab (b l)))
      ⟨b2n r.1, r.2⟩
    c.doneFp 5 (flagsOf m g) (outK m (opndNum f.d) (ofMask (fun l => (g l).bits == 1)))) s

/-! ### Approximated functions and square root (R156-R158) -/

def fpApprox (fn : AFn) (f : RForm) (s : State) : Out :=
  fpOne (shF1 f) 14 f (fun k a => fapprox k fn (tyCode f.ty) a (fdecode k a)) s

def execFrcp (f : RForm) (s : State) : Out := fpApprox .rcp f s
def execFrsq (f : RForm) (s : State) : Out := fpApprox .rsq f s
def execFsqrt (f : RForm) (s : State) : Out := fpOne (shFsqrt f) 14 f (fun k a => fsqrt k f.rnd (fdecode k a)) s
def execFexp2 (f : RForm) (s : State) : Out := fpApprox .exp2 f s
def execFlog2 (f : RForm) (s : State) : Out := fpApprox .log2 f s
def execFsinp (f : RForm) (s : State) : Out := fpApprox .sinp f s
def execFcosp (f : RForm) (s : State) : Out := fpApprox .cosp f s
def execFtanh (f : RForm) (s : State) : Out := fpApprox .tanh f s
def execFerf (f : RForm) (s : State) : Out := fpApprox .erf f s

/-! ### Scaling, rounding, classes, dot product (R151-R155) -/

def execFscl (f : RForm) (s : State) : Out :=
  issueW (shFscl f) (fun c =>
    let a := c.vecN f.ty f.a
    let b := c.vecN .s32 f.b
    let k := fpFmt f.ty
    c.doneF f 5 (fun l => fpMap f.ty (fun e => fscl k f.rnd (fdecode k (srcMod k f.na f.aa (e (a l)))) (sval 32 (b l))))) s
def execFrnd (f : RForm) (s : State) : Out := fpOne (shFrnd f) 5 f (fun k a => frnd k f.rnd a) s
def execFfrac (f : RForm) (s : State) : Out := fpOne (shFfrac f) 5 f (fun k a => ffrac k (fdecode k a)) s
def execFclass (f : RForm) (s : State) : Out :=
  fpOne (shFclass f) 5 f (fun k a => ⟨fclass k (fdecode k a), Flags.none⟩) s

/-- R151: halves of A and B, an FP32 addend, which is +0 when C is empty. -/
def execFdot2 (f : RForm) (s : State) : Out :=
  issueW (shFdot2 f) (fun c =>
    let a := c.vecN f.ty f.a
    let b := c.vecN f.ty f.b
    let x := c.vecN .f32 f.c
    let k := fpFmt f.ty
    let ea (l i : Nat) : FV := fdecode k (srcMod k f.na f.aa (elemAt (a l) i))
    let eb (l i : Nat) : FV := fdecode k (srcMod k f.nb f.ab (elemAt (b l) i))
    let add (l : Nat) : Nat := if f.c = .none then 0 else srcMod fp32 f.nc false (x l)
    c.doneF f 5 (fun l => satIf f.sat fp32
      (fdot2 f.rnd (ea l 0) (eb l 0) (ea l 1) (eb l 1) (fdecode fp32 (add l))))) s

end Sys2Proof.Machine
end

