-- ==== Sys2Proof/Machine/Scales.lean ====
section
/-! DEFINITION. Group 4: scalar conversions, block-scaled conversions, accumulator rows and scale registers
(R159-R177). -/

namespace Sys2Proof.Machine

/-! ### Elements in registers (R55, R56, R160) -/

/-- Element `e` of an MX register. -/
def mxElem (f : Elem) (v : VReg) (e : Nat) : Nat :=
  field (lane v (e / f.perLane)).toNat (f.width * (e % f.perLane)) f.width

/-- The MX register whose element 32j + k is `q j k`. -/
def mxPack (f : Elem) (q : Nat → Nat → Nat) : VReg :=
  ofLanes (fun l => BitVec.ofNat 32 (packNat f.width (fun p =>
    let e := l * f.perLane + p
    q (e / 32) (e % 32)) f.perLane))

/-- The blocks of a register of which some lane is written. -/
def blockMask (f : Elem) (m : Mask) : BitVec 8 :=
  BitVec.ofNat 8 (packNat 1 (fun j => b2n (decide (j < f.blocks) &&
    (List.range f.lanesPerBlock).any (fun i => bit m (f.lanesPerBlock * j + i)))) 8)

/-- The scale slots that a write of a register in a format touches (R56). -/
def scaleMask (f : Elem) (m : Mask) : BitVec 8 :=
  if m = 0 then 0 else if f.blocks = 4 then blockMask f m ||| 0xF0 else blockMask f m

/-- The scale register of the blocks' codes, 0x7F in slots without a block. -/
def scaleReg (f : Elem) (sc : Nat → Nat) : EReg :=
  ofSlots (fun j => if j < f.blocks then BitVec.ofNat 8 (sc j) else 0x7F)

/-- An MX register with its scale register, written under R56. -/
def outMx (m : Mask) (n : Nat) (f : Elem) (v : VReg) (e : EReg) : List Result :=
  outVreg m n v ++ outE (scaleMask f m) n e

/-- The blocks among `m` whose code is 0xFF. -/
def nanMask (m : BitVec 8) (sc : Nat → Nat) : BitVec 8 :=
  m &&& BitVec.ofNat 8 (packNat 1 (fun j => b2n (sc j == 0xFF)) 8)

/-- The 32 lanes of a register as FP32 values. -/
def lanes32 (v : VReg) : List FV := (List.range 32).map (fun l => fdecode fp32 (lane v l).toNat)

/-- Blocks by number: scales and codes. -/
def blkSc (bs : List MxBlock) (j : Nat) : Nat := ((bs[j]?).map (fun b => b.sc)).getD 0x7F
def blkQ (bs : List MxBlock) (j k : Nat) : Nat := ((bs[j]?).map (fun b => (b.q[k]?).getD 0)).getD 0

/-! ### Scalar conversions (R162, R163) -/

/-- The least and greatest integer of a type. -/
def tyLo (t : Ty) : Int := if tySigned t then -((2 ^ (tyW t - 1) : Nat) : Int) else 0
def tyHi (t : Ty) : Int := if tySigned t then ((2 ^ (tyW t - 1) : Nat) : Int) - 1 else ((2 ^ tyW t : Nat) : Int) - 1

/-- A floating-point value to an integer type. -/
def fpToInt (t : Ty) (rnd : Rnd) (v : FV) : FRes :=
  match v with
  | .nan _ => ⟨0, Flags.nv⟩
  | .inf n => ⟨wrapW (tyW t) (if n then tyLo t else tyHi t), Flags.nv⟩
  | .fin n m e =>
    let r := roundAt rnd n m e false 0
    let y : Int := if n then -(r.n : Int) else (r.n : Int)
    if y < tyLo t then ⟨wrapW (tyW t) (tyLo t), Flags.nv⟩
    else if tyHi t < y then ⟨wrapW (tyW t) (tyHi t), Flags.nv⟩
    else ⟨wrapW (tyW t) y, if r.inexact then Flags.nx else 0⟩

/-- One value converted from type `st` to type `dt` (R162). -/
def cvtVal (dt st : Ty) (rnd : Rnd) (sat : Bool) (x : Nat) : FRes :=
  let src : FV := fdecode (fpFmt st) (x % 2 ^ tyW st)
  if isFpTy dt then
    satIf sat (fpFmt dt) (if isFpTy st then
        let r := fconv (fpFmt dt) rnd src
        ⟨r.bits, if src.isSig then r.fl ||| Flags.nv else r.fl⟩
      else fofInt (fpFmt dt) rnd (tyVal st x))
  else if isFpTy st then fpToInt dt rnd src
  else ⟨if sat then clampW (tySigned dt) (tyW dt) (tyVal st x) else wrapW (tyW dt) (tyVal st x), 0⟩

def execCvt (f : RForm) (s : State) : Out :=
  issueW (shCvt f) (fun c =>
    let st := stOf f
    let a := c.vecN st f.a
    let g (l : Nat) : FRes := cvtVal f.ty st f.rnd f.sat (a l)
    let m := c.regwrite f.g
    c.doneFp 6 (flagsOf m g) (outV m (opndNum f.d) (tyWide f.ty)
      (fun l => if tyWide f.ty then (g l).bits else extReg f.ty (g l).bits))) s

/-- The scalar type of the halves of a packed type. -/
def halfTy : Ty → Ty
  | .f16x2 => .f16
  | .bf16x2 => .bf16
  | t => t

/-- R163. -/
def execCvtp (f : RForm) (s : State) : Out :=
  issueW (shCvtp f) (fun c =>
    let st := stOf f
    let a := c.vecN st f.a
    let b := c.vecN st f.b
    let m := c.regwrite f.g
    let g (l i : Nat) : FRes :=
      let src := match cvtpMode f with
        | .pack => if i = 0 then a l else b l
        | _ => elemAt (a l) i
      cvtVal (halfTy f.ty) (halfTy st) f.rnd f.sat src
    let fl := flagsOf m (fun l => g l 0) ||| flagsOf m (fun l => g l 1)
    let n := opndNum f.d
    c.doneFp 6 fl (match cvtpMode f with
      | .unpack => outV m n false (fun l => (g l 0).bits) ++ outV m (n + 1) false (fun l => (g l 1).bits)
      | _ => outV m n false (fun l => (g l 0).bits + (g l 1).bits * 65536))) s

/-! ### Block-scaled conversions (R165-R170) -/

/-- The blocks of an FP32 span, requantised. -/
def Ctx.spanBlocks (c : Ctx) (f : Elem) (sat : Bool) (n : Nat) : List MxBlock :=
  (List.range f.blocks).map (fun j => requant f sat (lanes32 (c.vreg (n + j))))

/-- R165. -/
def execQnt (f : RForm) (s : State) : Out :=
  issueW (shQnt f) (fun c =>
    let e := fmtOf f
    let m := c.regwrite f.g
    let bs := c.spanBlocks e (f.opx != 1) (opndNum f.a)
    c.doneSticky 10 false 0 true (nanMask (blockMask e m) (blkSc bs))
      (outMx m (opndNum f.d) e (mxPack e (blkQ bs)) (scaleReg e (blkSc bs)))) s

/-- What an infinite value packs to. -/
def packInf (f : Elem) (sat neg : Bool) : Nat :=
  match f with
  | .e4m3 => f.signCode neg + (if sat then 0x7E else 0x7F)
  | .e5m2 => f.signCode neg + (if sat then 0x7B else 0x7C)
  | _ => f.signCode neg + f.maxCode

/-- One element under a given scale (R166). -/
def packElem (f : Elem) (sat : Bool) (c : Nat) (v : FV) : Nat :=
  match v with
  | .nan _ => (match f with
    | .e4m3 => 0x7F
    | .e5m2 => 0x7E
    | _ => 0)
  | .inf n => packInf f sat n
  | .fin n m e =>
    let e' := e + 127 - (c : Int)
    match f with
    | .ng4 => ng4Round n m e'
    | _ => fpRound f sat n m e'

def packBlock (f : Elem) (sat : Bool) (c : Nat) (xs : List FV) : MxBlock :=
  if c = 0xFF then ⟨0xFF, xs.map (fun _ => 0), true⟩ else ⟨c, xs.map (packElem f sat c), false⟩

/-- R166. -/
def execMxpk (f : RForm) (s : State) : Out :=
  issueW (shMxpk f) (fun c =>
    let e := fmtOf f
    let m := c.regwrite f.g
    let code : Nat → Nat := match f.b with
      | .e n => let r := c.ereg n.toNat; fun j => (slot r j).toNat
      | o => let x := c.uni32 o % 256; fun _ => x
    let bs := (List.range e.blocks).map (fun j => packBlock e (f.opx != 1) (code j) (lanes32 (c.vreg (opndNum f.a + j))))
    c.doneSticky 10 false 0 true (nanMask (blockMask e m) (blkSc bs))
      (outMx m (opndNum f.d) e (mxPack e (blkQ bs)) (scaleReg e (blkSc bs)))) s

/-- One element decoded by `MXUP`, with its flags. -/
def upElem (f : Elem) (q c : Nat) : FRes :=
  let r := mxDecode f q c
  ⟨r.bits, (if (edecode f q).isSig then Flags.nv else 0) |||
    (if r.fl &&& Flags.of != 0 then Flags.of ||| Flags.nx else 0)⟩

/-- R167. -/
def execMxup (f : RForm) (s : State) : Out :=
  issueW (shMxup f) (fun c =>
    let e := fmtOf f
    let m := c.regwrite f.g
    let v := c.vreg (opndNum f.a)
    let sc := c.ereg (opndNum f.a)
    let g (j k : Nat) : FRes := upElem e (mxElem e v (32 * j + k)) (slot sc j).toNat
    let fl := (List.range e.blocks).foldl (fun a j => a ||| flagsOf m (g j)) (0 : Flags)
    let used : BitVec 8 := if m = 0 then 0 else if e.blocks = 4 then 0x0F else 0xFF
    c.doneSticky 10 true fl true (nanMask used (fun j => (slot sc j).toNat))
      ((List.range e.blocks).flatMap (fun j => outV m (opndNum f.d + j) false (fun k => (g j k).bits)))) s

/-- The slot of `EAMAX` for one block: its code, and whether it counts as produced. -/
def eamaxSlot (acc : Bool) (old : Nat) (xs : List FV) (b : MxBlock) : Nat × Bool :=
  if !acc then (b.sc, b.sc == 0xFF)
  else if xs.all FV.isZero then (old, false)
  else if b.sc = 0xFF ∨ old = 0xFF then (0xFF, true)
  else (max old b.sc, false)

/-- R168. -/
def execEamax (f : RForm) (s : State) : Out :=
  issueW (shEamax f) (fun c =>
    let e := fmtOf f
    let old := c.ereg (opndNum f.d)
    let rs := (List.range e.blocks).map (fun j =>
      let xs := lanes32 (c.vreg (opndNum f.a + j))
      eamaxSlot (f.opx == 1) (slot old j).toNat xs (requant e true xs))
    let m : BitVec 8 := if c.anyActive then 0xFF else 0
    let nan := BitVec.ofNat 8 (packNat 1 (fun j => b2n (((rs[j]?).map Prod.snd).getD false)) 8)
    c.doneSticky 10 false 0 true (m &&& nan)
      (outE m (opndNum f.d) (ofSlots (fun j => BitVec.ofNat 8 (((rs[j]?).map Prod.fst).getD 0x7F))))) s

/-- R169: exact element values under their scales, requantised. -/
def execMxcvt (f : RForm) (s : State) : Out :=
  issueW (shMxcvt f) (fun c =>
    let d := fmtOf f
    let e := sfmtOf f
    let m := c.regwrite f.g
    let n := if d.width = 4 ∨ e.width = 4 then 8 else 4
    let src (j : Nat) : List FV :=
      let r := opndNum f.a + j / e.blocks
      let v := c.vreg r
      let sc := (slot (c.ereg r) (j % e.blocks)).toNat
      (List.range 32).map (fun k => if sc = 0xFF then .nan false
        else (edecode e (mxElem e v (32 * (j % e.blocks) + k))).scaled sc)
    let bs := (List.range n).map (fun j => requant d (!(bit f.opx 3)) (src j))
    let regs := List.range (mxcvtN f d)
    let part (q : Nat) : List MxBlock := bs.drop (d.blocks * q)
    let nan := BitVec.ofNat 8 ((regs.map (fun q =>
      (nanMask (blockMask d m) (blkSc (part q))).toNat * 2 ^ (d.blocks * q))).foldl (· + ·) 0)
    c.doneSticky 10 false 0 true nan (regs.flatMap (fun q =>
      outMx m (opndNum f.d + q) d (mxPack d (blkQ (part q))) (scaleReg d (blkSc (part q)))))) s

/-! ### Scale registers (R175-R177) -/

/-- The slots that an instruction on scale registers writes: SMASK when some lane is active. -/
def Ctx.slots (c : Ctx) (f : RForm) : BitVec 8 := if c.anyActive then smask f else 0

def execEmov (f : RForm) (s : State) : Out :=
  issueW (shEmov f) (fun c => c.done (outE (c.slots f) (opndNum f.d) (c.ereg (opndNum f.a)))) s

def execEset (f : RForm) (s : State) : Out :=
  issueW (shEset f) (fun c =>
    let x := BitVec.ofNat 8 (c.uni32 f.a)
    c.done (outE (c.slots f) (opndNum f.d) (ofSlots (fun _ => x)))) s

/-- One slot of `EADD`: finite codes saturate at 0x00 and 0xFE. -/
def eaddSlot (c : Nat) (b : Int) : Nat :=
  if c = 0xFF then 0xFF
  else
    let x : Int := (c : Int) + b
    (if x < 0 then 0 else if 0xFE < x then 0xFE else x).toNat

def execEadd (f : RForm) (s : State) : Out :=
  issueW (shEadd f) (fun c =>
    let a := c.ereg (opndNum f.a)
    let b := sval 32 (c.uni32 f.b)
    let m := c.slots f
    c.doneSticky 4 false 0 true (nanMask m (fun j => (slot a j).toNat))
      (outE m (opndNum f.d) (ofSlots (fun j => BitVec.ofNat 8 (eaddSlot (slot a j).toNat b))))) s

/-- R176. -/
def execEget (f : RForm) (s : State) : Out :=
  issueW (shEget f) (fun c =>
    let e := c.ereg (opndNum f.a)
    let wide := f.ty == .b64
    let x := if wide then e.toNat else (slot e (c.uni32 f.b % 8)).toNat
    c.done (match f.d with
      | .s n => outS c.anyActive n.toNat wide x
      | o => outV (c.regwrite f.g) (opndNum o) wide (fun _ => x))) s

/-- R177. -/
def execEchk (f : RForm) (s : State) : Out :=
  issueW (shEchk f) (fun c =>
    let e := c.ereg (opndNum f.a)
    let b := c.uni32 f.b
    let lo := if f.b = .none then 0x00 else b % 256
    let hi := if f.b = .none then 0xFE else b / 256 % 256
    let sel (p : Nat → Bool) : Nat := packNat 1 (fun j => b2n (bit (smask f) j && p (slot e j).toNat)) 8
    let nan := sel (fun x => x == 0xFF)
    let flag := sel (fun x => x == 0xFF || decide (x < lo) || decide (hi < x))
    c.doneSticky 4 false 0 true (if c.anyActive then BitVec.ofNat 8 nan else 0)
      (outS c.anyActive (opndNum f.d) false (nan * 256 + flag))) s

/-! ### Accumulator rows (R171-R174) -/

/-- A row of a tile. -/
def Block.accRow (b : Block) (t i : Nat) : VReg := tget 0 b.acc (32 * t + i)
def Block.setAccRow (b : Block) (t i : Nat) (x : VReg) : Block := { b with acc := tset 0 (32 * t + i) x b.acc }

/-- A row under `ACCWR`. -/
def accNew (add : Bool) (m : Mask) (old val : VReg) : VReg :=
  merge (laneBits m) old (if add then ofLanes (fun l => add32 (lane old l) (lane val l)) else val)

def execAccrd (f : RForm) (s : State) : Out :=
  issueW (shAccrd f) (fun c =>
    let m := c.regwrite f.g
    let n := opndNum f.d
    .go { s := c.queue c.s { num := 0, path := .m, pc := 0, dst := [(.v n, laneBits m)],
                             kind := .accrd (opndNum f.a) (c.uni32 f.b % 32) n m } }) s

def execAccwr (f : RForm) (s : State) : Out :=
  issueW (shAccwr f) (fun c =>
    .go { s := c.queue c.s { num := 0, path := .m, pc := 0,
                             kind := .accwr (opndNum f.d) (c.uni32 f.a % 32) (f.opx == 1) (c.vreg (opndNum f.b))
                               (c.memeffect f.g) } }) s

def execQnta (f : RForm) (s : State) : Out :=
  issueW (shQnta f) (fun c =>
    let m := c.regwrite f.g
    let n := opndNum f.d
    let e := fmtOf f
    .go { s := c.queue c.s { num := 0, path := .m, pc := 0,
                             dst := [(.v n, laneBits m), (.e n, (slotBits (scaleMask e m)).setWidth 1024)],
                             kind := .qnta e (f.opx != 1) (opndNum f.a) (c.uni32 f.b % 32) n m } }) s

/-- What a path-M operation does when it executes in the accumulator store. -/
def State.performM (s : State) (w : WarpId) (b : Block) (o : Op) : State :=
  match o.kind with
  | .accrd t r _ _ => s.land (.warp w) o (fun _ => b.accRow t r)
  | .accwr t r add val m =>
    (s.setBlock b.id (fun k => k.setAccRow t r (accNew add m (k.accRow t r) val))).opDone (.warp w) o.num
  | .qnta e sat t r _ m =>
    let bs := (List.range e.blocks).map (fun j => requant e sat (lanes32 (b.accRow t ((r + j) % 32))))
    let nan := nanMask (blockMask e m) (blkSc bs)
    let s1 := s.land (.warp w) o (fun x => match x with
      | .e _ => (scaleReg e (blkSc bs)).setWidth 1024
      | _ => mxPack e (blkQ bs))
    if nan = 0 then s1
    else
      let trap := ((s.warp? w).map (fun p => nste p.2.fpst)).getD false
      let s2 := s1.setWarp w (fun x => x.stick fpstNss)
      if trap then s2.pendAsync w o .nanScale nan else s2
  | _ => s

/-- R171, R258: the oldest path-M operation of a warp executes, at one point of the sequence of additions to a tile. Its
rows are read or written whole, at that one point (DESIGN CHOICE, log 8: R174 lets the other side see each element old or
new). -/
def execPathMComplete (s : State) : Out :=
  .next (match s.warp? s.on.w with
    | some (b, x) =>
      (match x.win.ops.find? (fun o => o.path == .m) with
       | some o => if o.done then s.endEarly (.warp s.on.w) o.num else s.performM s.on.w b o
       | none => s)
    | none => s)

end Sys2Proof.Machine
end

