-- ==== Sys2Proof/Machine/Matrix.lean ====
section
/-! DEFINITION. The matrix stream (R230-R257): operand descriptors, turns, tile writes and transfers, the fused
epilogue, the stream's barriers and control, and the completion of its operations. -/

namespace Sys2Proof.Machine

/-! ### Operands (R231, R240) -/

/-- A 64-bit value. -/
def SCtx.val (c : SCtx) : Opnd → DWord
  | .m n => c.mreg n.toNat
  | .imm i => i.signExtend 64
  | .kc n => join64 (c.konst (n.toNat + 1)) (c.konst n.toNat)
  | _ => 0

/-- A 32-bit value. -/
def SCtx.cnt (c : SCtx) : Opnd → Nat
  | .m n => (c.mreg n.toNat).toNat % 2 ^ 32
  | .imm i => (i.signExtend 32).toNat
  | .kc n => (c.konst n.toNat).toNat
  | _ => 0

def SCtx.sb (c : SCtx) : Nat := Rec.scrb c.g.record

def outM (o : Opnd) (x : DWord) : List Result := [⟨.m (opndNum o), (RegId.m (opndNum o)).bits, x.setWidth 1024⟩]

/-! ### Descriptors (R237-R239) -/

structure Desc where
  base : Nat
  rstr : Nat
  tstr : Nat
  nt : Nat
  rot : Nat
  rsv : Bool
deriving DecidableEq, Repr

def descOf (x : DWord) : Desc :=
  let n := x.toNat
  { base := field n 0 19, rstr := field n 20 12, tstr := field n 32 12, nt := field n 44 1, rot := field n 45 2,
    rsv := field n 19 1 != 0 || field n 47 17 != 0 }

/-- Blocks per unit and bytes of a unit of a format code (R238). -/
def unitBlocks (f : Nat) : Nat := if f ≤ 1 then 4 else if f ≤ 3 then 16 else if f ≤ 5 then 8 else 2
def unitBytes (f : Nat) : Nat := if f = 2 ∨ f = 3 then 384 else 128

/-- Address of unit `u` of row `rr` of tile `t`. -/
def Desc.unit (d : Desc) (f t rr u : Nat) : Nat :=
  d.base + 128 * (d.tstr * t + d.rstr * rr) + unitBytes f * (u ^^^ (rr % 32 % 2 ^ d.rot))

/-- Units of a row for `kb` blocks. -/
def unitsOf (f kb : Nat) : Nat := (kb + unitBlocks f - 1) / unitBlocks f

/-- Checks 2 and 3 of R239 on one operand whose rows are (tile, row); TSTR counts where rows lie in tiles. -/
def Desc.misaligned (d : Desc) (f : Nat) (tiles : Bool) : Bool :=
  d.base % unitBytes f != 0 || (unitBytes f == 384 && (d.rstr % 3 != 0 || (tiles && d.tstr % 3 != 0)))

def Desc.beyond (d : Desc) (f kb sb : Nat) (rows : List (Nat × Nat)) : Option Nat :=
  rows.findSome? (fun p => (List.range (unitsOf f kb)).findSome? (fun u =>
    let a := d.unit f p.1 p.2 u
    if sb < a + unitBytes f then some a else none))

/-- The rows of an operand of `MMA`. -/
def Desc.rows (d : Desc) : List (Nat × Nat) := (List.range (32 * (d.nt + 1))).map (fun r => (r / 32, r % 32))

/-! ### Block sums (R63, R64, R238) -/

/-- Block `b` of a row: its 32 values and its scale code. -/
def Block.operand (k : Block) (d : Desc) (f t rr b : Nat) : List FV × Nat :=
  let a := d.unit f t rr (b / unitBlocks f)
  let j := b % unitBlocks f
  if 6 ≤ f then
    let x := k.snat (a + 64 * j) 64
    let h := if f = 6 then bf16 else fp16
    ((List.range 32).map (fun i => fdecode h (field x (16 * i) 16)), 127)
  else
    let e := (elemOfCode f).getD .e4m3
    let x := k.snat (a + 4 * e.width * j) (4 * e.width)
    let sc := if e.width = 6 then Sys2Proof.Machine.slot (k.sside (a / 128 + (tripleSlot j).1)) (tripleSlot j).2
      else Sys2Proof.Machine.slot (k.sside (a / 128)) j
    ((List.range 32).map (fun i => edecode e (field x (e.width * i) e.width)), sc.toNat)

/-- `T + Sum`, rounded (R65). -/
def accAdd (t sum : Nat) : Nat := (fadd fp32 .rne (fdecode fp32 t) (fdecode fp32 sum)).bits

/-- One row of a tile with the block sums of `A` row blocks against 32 `B` row blocks added, blocks ascending. -/
def addSums (row : VReg) (a : List (List FV × Nat)) (b : List (List (List FV × Nat))) : VReg :=
  ofLanes (fun j =>
    let bj := b.getD j []
    BitVec.ofNat 32 ((a.zip bj).foldl (fun t p => accAdd t (blockSum (p.1.1.zip p.2.1) p.1.2 p.2.2)) (lane row j).toNat))

/-! ### Turns (R234-R236, R241, R242) -/

def fourBit (f : Nat) : Bool := f == 4 || f == 5

/-- Turns per tile (R235). -/
def MmaRun.turns (r : MmaRun) : Nat :=
  if fourBit r.fa && fourBit r.fb then (r.kb + 1) / 2 else if 6 ≤ r.fa then 2 * r.kb else r.kb

/-- The blocks whose sums a turn of `MMA` adds; a half format's block is added with its second turn. -/
def MmaRun.blocksAt (r : MmaRun) (k : Nat) : List Nat :=
  if fourBit r.fa && fourBit r.fb then (List.range r.kb).filter (fun b => b / 2 == k)
  else if 6 ≤ r.fa then (if k % 2 = 1 then [k / 2] else [])
  else [k]

/-- The accumulator tile in progress. -/
def MmaRun.tileNo (r : MmaRun) : Nat := r.dst + r.tile

/-- The rows of B of the tile in progress, for some blocks. -/
def Block.colBlocks (k : Block) (r : MmaRun) (bs : List Nat) : List (List (List FV × Nat)) :=
  (List.range 32).map (fun j => bs.map (fun b => k.operand (descOf r.dB) r.fb (r.tile % r.tn) j b))

/-- The additions of a turn, with the operands as the block `v` has them. `MMAG` adds row by row, so all its additions fall
with the tile's last turn. -/
def Block.addTurn (k v : Block) (r : MmaRun) : Block :=
  if r.gather then
    if r.turn + 1 < r.turns then k
    else
      let bs := List.range r.kb
      let cols := v.colBlocks r bs
      r.rows.foldl (fun x p =>
        if p.2.2 then x
        else x.setAccRow r.tileNo p.2.1
          (addSums (x.accRow r.tileNo p.2.1) (bs.map (fun b => v.operand (descOf r.dA) r.fa 0 p.1 b)) cols)) k
  else
    let bs := r.blocksAt r.turn
    if bs.isEmpty then k
    else
      let cols := v.colBlocks r bs
      (List.range 32).foldl (fun x i =>
        x.setAccRow r.tileNo i
          (addSums (x.accRow r.tileNo i) (bs.map (fun b => v.operand (descOf r.dA) r.fa (r.tile / r.tn) i b)) cols)) k

/-- The sequencer after a turn: the next turn, the next tile, or the end of the instruction. -/
def Seq.afterTurn (q : Seq) (r : MmaRun) (clk : Nat) : Seq :=
  if r.turn + 1 < r.turns then { q with run := some { r with turn := r.turn + 1, ready := clk + 1 } }
  else
    let q1 := { q with busy := q.busy.map (fun (t : TileBusy) =>
      if t.tile = r.tileNo ∧ t.op = r.num ∧ t.byMma = true then { t with doneAt := some (clk + 16) } else t) }
    if r.tile + 1 < r.tm * r.tn then { q1 with run := some { r with tile := r.tile + 1, turn := 0, ready := clk + 1 } }
    else { q1 with run := none, win := q1.win.noEarlier (clk + 1 + r.st) }

/-- R234: the array takes a turn of the stream whose slot owns the clk. -/
def execMatrixTurn (s : State) : Out :=
  .next (match s.seq? s.on.block with
    | some (b, q) =>
      let clk := s.clkOf (dieOfCore b.core)
      (match q.run with
       | some r =>
         if !(s.die (dieOfCore b.core)).clocked || q.stopped || clk % 4 != b.slot || decide (clk < r.ready) then s
         else (({ s with freeCtr := s.freeCtr + 1 }.setBlock b.id (fun k => k.addTurn (k.seqView s.freeCtr) r)).setSeq b.id
           (fun q => q.afterTurn r clk)).countPm b.core 0x01 1
       | none => s)
    | none => s)

/-- R236: a tile's write is complete. -/
def execTileWriteComplete (b : BlockId) (tile : Nat) (s : State) : Out :=
  .next (match s.seq? b with
    | some (k, _) =>
      let clk := s.clkOf (dieOfCore k.core)
      (s.setSeq b (fun q => { q with busy := q.busy.filter (fun t => t.tile != tile || t.pending clk) })).seqSettle b
    | none => s)

/-! ### The interlock (R236) -/

/-- Some of these tiles has an earlier write that is not complete; `mma` looks past those of `MMA` and `MMAG`. -/
def SCtx.locked (c : SCtx) (tiles : List Nat) (mma : Bool) : Bool :=
  c.q.busy.any (fun t => tiles.contains t.tile && !(mma && t.byMma) && t.pending c.clk)

/-- Tile writes of the stream that are not complete. -/
def SCtx.writing (c : SCtx) : Bool := c.q.busy.any (fun t => t.pending c.clk)

def tilesFrom (d n : Nat) : List Nat := (List.range n).map (fun i => d + i)

def addBusy (s : State) (b : BlockId) (tiles : List Nat) (mma : Bool) (doneAt : Option Nat) (op : Nat) : State :=
  s.setSeq b (fun q => { q with busy := q.busy ++ tiles.map (fun t => { tile := t, byMma := mma, doneAt := doneAt, op := op }) })

/-! ### Multiply (R239, R241, R242) -/

/-- The common end of `MMA` and `MMAG`: the checks of R239 in the order of R233, the interlock, the run. `rec_` is the
offset of the index record of `MMAG`, which its own value checks have passed. -/
def SCtx.multiply (c : SCtx) (f : RForm) (rec_ : Option Nat) (kb : Nat) (rows : List (Nat × Nat × Bool)) (extraBad : Bool) : SBody :=
  let dA := descOf (c.val f.a)
  let dB := descOf (c.val f.b)
  let fa := f.sub.toNat
  let fb := f.opx.toNat
  let gather := rec_.isSome
  let o := rec_.getD 0
  let tm := dA.nt + 1
  let tn := dB.nt + 1
  let d := opndNum f.d
  let rowsA := if gather then rows.map (fun p => (0, p.1)) else dA.rows
  if dA.rsv || dB.rsv || extraBad || kb = 0 || decide (16 < kb) || decide (Rec.nacc c.g.record < d + tm * tn) then
    c.trap .illegalOperand 0x08
  else if o % 64 ≠ 0 then c.trap .misaligned 0 (BitVec.ofNat 64 o)
  else if dA.misaligned fa (!gather) then c.trap .misaligned 0 (BitVec.ofNat 64 dA.base)
  else if dB.misaligned fb true then c.trap .misaligned 0 (BitVec.ofNat 64 dB.base)
  else if gather && decide (c.sb < o + 64) then c.trap .permission 0x01 (BitVec.ofNat 64 o)
  else match (dA.beyond fa kb c.sb rowsA).or (dB.beyond fb kb c.sb dB.rows) with
    | some a => c.trap .permission 0x01 (BitVec.ofNat 64 a)
    | none =>
      if c.locked (tilesFrom d (tm * tn)) true then .pass
      else
        let run : MmaRun := { gather := gather, fa := fa, fb := fb, dA := c.val f.a, dB := c.val f.b, kb := kb, rows := rows,
                              dst := d, tm := tm, tn := tn, tile := 0, turn := 0, st := f.h.st.toNat, num := c.q.win.num,
                              ready := c.clk }
        .go { s := addBusy (c.s.setSeq c.id (fun q => { q with run := some run })) c.id (tilesFrom d (tm * tn)) true none
                c.q.win.num }

def execMma (f : RForm) (s : State) : Out := issueS (shMma f) (fun c => c.multiply f none (c.cnt f.c) [] false) s

/-- The index record of `MMAG`. -/
def gatherRows (b : Block) (o : Nat) : List (Nat × Nat × Bool) :=
  (List.range 32).map (fun i =>
    let g := b.snat (o + i) 1
    let x := b.snat (o + 32 + i) 1
    (g, x % 32, x / 128 == 1))

def execMmag (f : RForm) (s : State) : Out :=
  issueS (shMmag f) (fun c =>
    let x := (c.val f.c).toNat
    let o := field x 0 19
    let v := c.blk.seqView c.s.freeCtr
    -- A record that lies beyond SB or off its alignment is not read: its own fault follows the value checks.
    let readable := o % 64 == 0 && decide (o + 64 ≤ c.sb)
    let bad := (descOf (c.val f.a)).nt == 1 || field x 19 13 != 0 || field x 37 27 != 0 ||
      (readable && (List.range 32).any (fun i => field (v.snat (o + 32 + i) 1) 5 2 != 0))
    c.multiply f (some o) (field x 32 5) (gatherRows v o) bad) s

/-! ### Tile transfers (R243, R244, R252) -/

def execAzero (f : RForm) (s : State) : Out :=
  issueS (shAzero f) (fun c =>
    let d := opndNum f.d
    let n := if f.a = .none then 1 else c.cnt f.a
    if n = 0 ∨ 64 < n ∨ Rec.nacc c.g.record < d + n then c.trap .illegalOperand 0x08
    else if c.locked (tilesFrom d n) false then .pass
    else
      let s1 := c.s.setBlock c.id (fun b => { b with acc := b.acc.filter (fun p => !(decide (32 * d ≤ p.1) && decide (p.1 < 32 * (d + n)))) })
      .go { s := addBusy s1 c.id (tilesFrom d n) false (some (c.clk + 4)) c.q.win.num }) s

/-- The offset of a transfer (R244). -/
def SCtx.off (c : SCtx) (f : CForm) : DWord := c.val f.a + f.ofs.signExtend 64

/-- The checks of an offset; a store is refused the bytes of barrier objects (R228). -/
def SCtx.offCheck (c : SCtx) (a : DWord) (al n acc : Nat) : Option SBody :=
  if a.toNat % al ≠ 0 then some (c.trap .misaligned 0 a acc)
  else if 2 ^ 19 ≤ a.toNat ∨ c.sb < a.toNat + n then some (c.trap .permission 0x01 a acc)
  else if acc = 1 ∧ a.toNat < 16 * Rec.nbobj c.g.record then some (c.trap .permission 0x04 a acc)
  else none

/-- Bytes of a tile of a tile type (R244). -/
def tileBytes (ty : Nat) : Nat := if ty = 8 then 4096 else 2048

/-- An operation of the stream. -/
def seqOp (path : Path) (kind : OpKind) (dst : List (RegId × BitVec 1024)) : Op := { num := 0, path := path, pc := 0, kind := kind, dst := dst }

def execAlds (f : CForm) (s : State) : Out :=
  issueS (shAlds f) (fun c =>
    let a := c.off f
    let t := opndNum f.d
    match c.offCheck a 128 (tileBytes f.ty.toNat) 0 with
    | some b => b
    | none =>
      if c.locked [t] false then .pass
      else .go { s := addBusy (c.queue c.s (seqOp .s (.alds t a.toNat f.ty.toNat (f.sub == 1)) [])) c.id [t] false none c.q.win.num }) s

/-- The rows of a tile as `ASTS` stores them: a row of half values in the low 64 bytes. -/
def tileRow (ty : Nat) (v : VReg) : VReg :=
  if ty = 8 then v
  else
    let h := if ty = 0xC then bf16 else fp16
    BitVec.ofNat 1024 (packNat 16 (fun j => (fconv h .rne (fdecode fp32 (lane v j).toNat)).bits) 32)

def execAsts (f : CForm) (s : State) : Out :=
  issueS (shAsts f) (fun c =>
    let a := c.off f
    let t := opndNum f.d
    match c.offCheck a 128 (tileBytes f.ty.toNat) 1 with
    | some b => b
    | none =>
      if c.locked [t] false then .pass
      else .go { s := c.queue c.s (seqOp .s (.asts t a.toNat f.ty.toNat
                   ((List.range 32).map (fun i => tileRow f.ty.toNat (c.blk.accRow t i)))) []) }) s

def execMlds (f : CForm) (s : State) : Out :=
  issueS (shMlds f) (fun c =>
    let a := c.off f
    let d := opndNum f.d
    match c.offCheck a 8 8 0 with
    | some b => b
    | none => .go { s := c.queue c.s (seqOp .s (.mlds a.toNat d) [(.m d, (RegId.m d).bits)]) }) s

/-! ### The fused epilogue (R245-R247) -/

/-- Bytes of a block of an element format. -/
def blockBytes (e : Elem) : Nat := 4 * e.width

/-- The sidecar slots that a format uses in the line at a generic address (R57, R58). -/
def usedSlots (e : Elem) (line : Nat) : Nat :=
  if e.width = 8 then 4 else if e.width = 4 then 8 else if line % 3 = 0 then 6 else 5

/-- The line (by number) and slot of the scale of the block at an address. -/
def scaleAt (e : Elem) (a : Nat) : Nat × Nat :=
  if e.width = 6 then
    let p := tripleSlot (a % 384 / 24)
    (a / 384 * 3 + p.1, p.2)
  else (a / 128, a % 128 / blockBytes e)

/-- Adds a byte at a generic address to the lines of a store; a new line writes its unused slots with 0x7F. -/
def addQByte (e : Elem) (ls : List LinePut) (a : Nat) (x : Byte) : List LinePut :=
  let va : DWord := BitVec.ofNat 64 (a / 128 * 128)
  let m : BitVec 128 := (1 : BitVec 128) <<< (a % 128)
  let d : VReg := (x.setWidth 1024) <<< (8 * (a % 128))
  if ls.any (fun l => l.va == va) then
    ls.map (fun l => if l.va = va then { l with data := merge (byteBits m) l.data d, mask := l.mask ||| m } else l)
  else
    let u := usedSlots e (a / 128)
    ls ++ [{ va := va, loc := .mem 0, data := d, mask := m, side := eInit,
             sideMask := BitVec.ofNat 8 (256 - 2 ^ u) }]

def addQScale (ls : List LinePut) (line slot_ : Nat) (x : Byte) : List LinePut :=
  ls.map (fun l => if l.va.toNat / 128 = line then
    { l with side := merge (slotBits ((1 : BitVec 8) <<< slot_)) l.side ((x.setWidth 64) <<< (8 * slot_)),
             sideMask := l.sideMask ||| ((1 : BitVec 8) <<< slot_) } else l)

/-- The lines of one block: its bytes, then its scale. -/
def addQBlock (e : Elem) (ls : List LinePut) (a : Nat) (b : MxBlock) : List LinePut :=
  let x := packNat e.width (fun k => (b.q[k]?).getD 0) 32
  let l1 := (List.range (blockBytes e)).foldl (fun l i => addQByte e l ((a + i) % 2 ^ 64) (BitVec.ofNat 8 (x >>> (8 * i)))) ls
  let p := scaleAt e a
  addQScale l1 p.1 p.2 (BitVec.ofNat 8 b.sc)

/-- Row `i` of a tile, or column `i` under `.tr`. -/
def tileVec (b : Block) (t i : Nat) (tr : Bool) : List FV :=
  if tr then (List.range 32).map (fun k => fdecode fp32 (lane (b.accRow t k) i).toNat)
  else lanes32 (b.accRow t i)

/-- The element format of an `ASTQ`. -/
def astqFmt (f : CForm) : Elem := (elemOfCode f.sub.toNat).getD .e4m3

/-- Address of block `i` of an `ASTQ` (R246). -/
def SCtx.astqAddr (c : SCtx) (f : CForm) (i : Nat) : Nat :=
  ((c.off f).toNat + i * (if f.b = .none then blockBytes (astqFmt f) else (c.val f.b).toNat)) % 2 ^ 64

/-- The first block of an `ASTQ` that is not aligned. -/
def SCtx.astqBad (c : SCtx) (f : CForm) : Option Nat :=
  (List.range 32).find? (fun i => c.astqAddr f i % blockBytes (astqFmt f) != 0)

/-- The park buffer has no room for an `ASTQ` (R246). -/
def SCtx.parkFull (c : SCtx) (f : CForm) : Bool :=
  decide (65536 < (c.s.core c.blk.core).park + 32 * blockBytes (astqFmt f))

/-- An `ASTQ` waits for room in the park buffer alone (R246, R264). -/
def SCtx.astqWaits (c : SCtx) (f : CForm) : Bool :=
  (c.astqBad f).isNone && !(c.locked [opndNum f.d] false) && c.parkFull f

/-- An `ASTQ` reads its tile and reserves its bytes of the park buffer at issue; it does not issue while they are not
free. -/
def execAstq (f : CForm) (s : State) : Out :=
  issueS (shAstq f) (fun c =>
    let e := astqFmt f
    let t := opndNum f.d
    let sz := blockBytes e
    let a (i : Nat) : Nat := c.astqAddr f i
    match c.astqBad f with
    | some i => c.trap .misaligned 0 (BitVec.ofNat 64 (a i)) 1
    | none =>
      if c.locked [t] false || c.parkFull f then .pass
      else
        let ls := (List.range 32).foldl (fun ls i =>
          addQBlock e ls (a i) (requant e (!(bit f.ty 0)) (tileVec c.blk t i (bit f.ty 1)))) []
        .go { s := (c.queue c.s { num := 0, path := .w, pc := 0, cp := f.cp, kind := .astq ls (32 * sz) }).setCore c.blk.core
                (fun k => { k with park := k.park + 32 * sz }) }) s

/-- The record of a parked line has not been answered (R247). -/
def State.parked (s : State) (b : BlockId) (num line : Nat) : Bool :=
  let mine (r : FaultRec) : Bool := match r.waiter with
    | .line _ x n l => x == b && n == num && l == line
    | _ => false
  s.fq.pending.any mine || s.fq.waiting.any (fun p => mine p.2)

/-- The bytes of its line that a store of an `ASTQ` accesses: the first, and how many up to the last. -/
def LinePut.span (l : LinePut) : Nat × Nat :=
  let is := (List.range 128).filter (fun i => bit l.mask i)
  let lo := is.head?.getD 0
  (lo, is.getLast?.getD 0 + 1 - lo)

/-- The place of an `ASTQ` line, through the core's TLB; its accessed bytes alone are checked (R327). -/
def State.astqXlat (s : State) (b : Block) (g : Grid) (l : LinePut) : State × Except TrapInfo Loc :=
  match s.engXlat b g (l.va + BitVec.ofNat 64 l.span.1) l.span.2 .write with
  | (s, .ok loc) => (s, .ok loc.base)
  | r => r

/-- Two `ASTQ` lines of a core overlap: one address of one context, or one place. -/
def State.sameLine (s : State) (k : Block) (l : LinePut) (b : Block) (m : LinePut) : Bool :=
  match s.grid? k.id.grid, s.grid? b.id.grid with
  | some g, some h =>
    (l.va == m.va && g.ctx == h.ctx && (!(inWindow l.va.toNat) || k.id == b.id)) ||
      (match (s.astqXlat k g l).2, (s.astqXlat b h m).2 with
       | .ok x, .ok y => x == y
       | _, _ => false)
  | _, _ => false

/-- An earlier `ASTQ` of the core, of whatever block, still holds the line (R246). -/
def State.heldBehind (s : State) (b : Block) (o : Op) (l : LinePut) : Bool :=
  s.blocks.any (fun k => k.core == b.core && (match k.seq with
    | some q => q.win.ops.any (fun p => !p.done &&
        (decide (p.clk < o.clk) || (p.clk == o.clk && decide (k.slot < b.slot)) || (k.id == b.id && decide (p.num < o.num))) &&
        (match p.kind with
         | .astq ls _ => ls.any (fun m => s.sameLine k m b l)
         | _ => false))
    | none => false))

/-- Removes a line from an `ASTQ`; with the last one the store is performed and its reservation freed. -/
def State.dropLine (s : State) (b : Block) (num : Nat) (va : DWord) : State :=
  let s1 := s.setSeq b.id (fun q => { q with win := q.win.mapOp num (fun o => match o.kind with
    | .astq ls n => { o with kind := .astq (ls.filter (fun l => l.va != va)) n }
    | _ => o) })
  match ((s1.win? (.seq b.id)).getD {}).ops.find? (fun o => o.num == num) with
  | some { kind := .astq [] n, .. } =>
    ((s1.setCore b.core (fun k => { k with park := k.park - n })).opDone (.seq b.id) num).seqSettle b.id
  | _ => s1

/-- One line of an `ASTQ`: performed, sent to a peer, or parked with a record of its fault. -/
def State.astqLine (s : State) (b : Block) (g : Grid) (o : Op) (l : LinePut) : State :=
  let own := PeerOwner.op (.seq b.id) o.num
  let line := l.va.toNat / 128
  if s.parked b.id o.num line || s.heldBehind b o l then s
  else match s.astqXlat b g l with
    | (s, .error t) =>
      if t.held then s
      else s.report
        { kind := 3, cause := Cause.epilogueFault.code, detail := t.detail, grid := b.id.grid, block := b.id.block, warp := 0,
          core := b.core, engine := 4, pc := o.pc, addr := l.va, acc := 1, waiter := .line b.core b.id o.num line }
    | (s, .ok loc) =>
      let q : Put := { data := l.data, mask := l.mask, side := l.side, sideMask := l.sideMask }
      match loc with
      | .mem pa =>
        if s.locked (pa / 128) || (s.core b.core).waitsLeaving (pa / 128) then s
        else (s.storeLine b.core 2 o.cp.toNat o.pc ⟨b.id.grid, b.id.block, 0⟩ l.va (pa / 128) q).dropLine b o.num l.va
      | .scratch k off => (s.setBlock k (fun x => x.sputLine (off / 128) q)).dropLine b o.num l.va
      | .peer d pa => match s.outLine own d (pa / 128) with
        | none => s.peerSend own (dieOfCore b.core) d (pa / 128) (.write (pa / 128) l.data l.mask l.side l.sideMask false)
        | some r => match r.answer with
          | none => s
          | some _ =>
            let s1 := if r.failed then s.setPois b.id.grid else s
            (s1.setFab (fun f => { f with out := f.out.filter (fun x => x.id != r.id) })).dropLine b o.num l.va

/-- R32, R246: a store's bytes are performed: a warp's, or the lines of an `ASTQ` that can be. -/
def execStorePerformed (a : Agent) (i : Nat) (s : State) : Out :=
  .next (match a with
    | .warp w => s.performAt w i .w
    | .seq b => match s.op? a i, s.block? b, s.grid? b.grid with
      | some o, some k, some g =>
        (match o.kind with
         | .astq ls _ => ls.foldl (fun s l => s.astqLine k g o l) s
         | _ => s)
      | _, _, _ => s)

/-! ### Scratchpad operations of the stream (R244, R252) -/

/-- The scratchpad bytes of a stream's operation: offset and length. -/
def OpKind.range : OpKind → Option (Nat × Nat)
  | .alds _ o ty _ | .asts _ o ty _ => some (o, tileBytes ty)
  | .mlds o _ => some (o, 8)
  | _ => none

/-- An earlier operation of the stream touches the same bytes. -/
def Win.rangeHeld (wn : Win) (o : Op) : Bool :=
  wn.ops.any (fun p => decide (p.num < o.num) && !p.done && (match p.kind.range, o.kind.range with
    | some (a, n), some (b, m) => decide (a < b + m) && decide (b < a + n)
    | _, _ => false))

/-- Row `i` of a tile in the scratchpad, as FP32. -/
def Block.tileIn (b : Block) (o ty i : Nat) : VReg :=
  if ty = 8 then BitVec.ofNat 1024 (b.snat (o + 128 * i) 128)
  else
    let x := b.snat (o + 64 * i) 64
    let h := if ty = 0xC then bf16 else fp16
    ofLanes (fun j => BitVec.ofNat 32 (fconv fp32 .rne (fdecode h (field x (16 * j) 16))).bits)

def State.performSeq (s0 : State) (b : Block) (o : Op) : State :=
  let a := Agent.seq b.id
  let v := b.seqView s0.freeCtr
  let s : State := { s0 with freeCtr := s0.freeCtr + 1 }
  match o.kind with
  | .alds t off ty add =>
    (s.setBlock b.id (fun k => (List.range 32).foldl (fun k i =>
      let x := v.tileIn off ty i
      let old := k.accRow t i
      k.setAccRow t i (if add then ofLanes (fun j => BitVec.ofNat 32 (accAdd (lane old j).toNat (lane x j).toNat)) else x)) k)).opDone
      a o.num
  | .asts _ off ty rows =>
    (s.setBlock b.id (fun k => (rows.zip (List.range 32)).foldl (fun k p =>
      let n := tileBytes ty / 32
      k.sput (off + n * p.2) (bytesLE n p.1.toNat)) k)).opDone a o.num
  | .mlds off _ => s.land a o (fun _ => BitVec.ofNat 1024 (v.snat off 8))
  | _ => s

/-- The tile of an `ALDS` whose S counter has dropped is complete (R236). -/
def Seq.freeTiles (q : Seq) : Seq :=
  { q with busy := q.busy.filter (fun t => t.byMma || t.doneAt.isSome || q.win.ops.any (fun o => o.num == t.op)) }

/-- The operation at place `i` of a stream is performed if it can be; the counter of one whose data came back early
falls. -/
def State.performSeqAt (s : State) (b : BlockId) (i : Nat) : State :=
  match s.seq? b with
  | none => s
  | some (k, q) => match q.win.ops[i]? with
    | none => s
    | some o =>
      let s1 := if o.done then s.endEarly (.seq b) o.num else if q.win.rangeHeld o then s else s.performSeq k o
      (s1.setSeq b Seq.freeTiles).seqSettle b

/-- The data of an operation of a stream come back before its counter falls (R33). -/
def State.performSeqEarly (s : State) (b : BlockId) (i : Nat) : State :=
  match s.op? (.seq b) i, s.seq? b with
  | some o, some (k, q) =>
    if q.win.rangeHeld o then s
    else s.early (.seq b) o (fun s o => s.performSeq k o)
  | _, _ => s

/-- The data of an operation of a warp come back before its counter falls (R33): on path M that of the oldest one that has
not executed (R258). -/
def State.performEarly (s : State) (w : WarpId) (i : Nat) : State :=
  match s.op? (.warp w) i, s.warp? w with
  | some o, some (b, x) =>
    if o.path = .m then
      (if (x.win.ops.find? (fun p => p.path == .m && !p.done)).map (fun p => p.num) = some o.num then
        s.early (.warp w) o (fun s o => s.performM w b o) else s)
    else s.early (.warp w) o (fun s o => s.performOp w o)
  | _, _ => s

/-- R32, R232: a scratchpad, FIFO or barrier-object operation is performed and S falls. -/
def execScratchOpComplete (a : Agent) (i : Nat) (s : State) : Out :=
  .next (match a with
    | .warp w => s.performAt w i .s
    | .seq b => s.performSeqAt b i)

/-! ### Barriers of the stream (R248) -/

/-- The checks of a barrier number. -/
def SCtx.barCheck (c : SCtx) (n : Nat) : Option SBody :=
  if Rec.nbar c.g.record ≤ n then some (c.trap .resource 0x01)
  else if !(c.blk.bar n).seqp then some (c.trap .resource 0x06)
  else none

def execMbara (f : RForm) (s : State) : Out :=
  issueS (shMbara f) (fun c =>
    let n := c.cnt f.a
    match c.barCheck n with
    | some b => b
    | none =>
      if (c.blk.bar n).seqa || c.writing || (f.opx == 1 && (c.q.win.count .s != 0 || c.q.win.count .w != 0)) then .pass
      else .go { s := (c.s.setBar c.id n (fun k => k.arrive (Rec.tb c.g.record) none)).closeBar c.id n }) s

def execMbarw (f : RForm) (s : State) : Out :=
  issueS (shMbarw f) (fun c =>
    let n := c.cnt f.a
    let p := c.cnt f.b % 2 == 1
    match c.barCheck n with
    | some b => b
    | none =>
      let k := c.blk.bar n
      if k.phase ≠ p then .go { s := c.s }
      else if k.fallen then .trap c.s (flagInfo 0 p n) 0
      else .go { s := c.s.setSeq c.id (fun q => { q with wait := some (.numbered n p) }), pc := some c.pc }) s

/-! ### Control (R250-R255) -/

def execMloop (f : JForm) (s : State) : Out :=
  issueS (shMloop f) (fun c =>
    let x := c.val f.a
    .go { s := c.s, out := outM f.d x, pc := if x = 0 then some (jTargetPc c.pc f.x) else none }) s

def execMnext (f : JForm) (s : State) : Out :=
  issueS (shMnext f) (fun c =>
    let x := c.val f.d - 1
    .go { s := c.s, out := outM f.d x, pc := if x ≠ 0 then some (jTargetPc c.pc f.x) else none }) s

def execMbra (f : JForm) (s : State) : Out :=
  issueS (shMbra f) (fun c =>
    .go { s := c.s, pc := if f.a = .none ∨ c.val f.a ≠ 0 then some (jTargetPc c.pc f.x) else none }) s

/-- R250: the stream stops issuing; it completes with its tile writes and counters. -/
def execMend (f : JForm) (s : State) : Out :=
  issueS (shMend f) (fun c => .go { s := (c.s.setSeq c.id (fun q => { q with ending := true })).seqSettle c.id }) s

def execMmov (f : RForm) (s : State) : Out := issueS (shMmov f) (fun c => .go { s := c.s, out := outM f.d (c.val f.a) }) s

def execMadd (f : RForm) (s : State) : Out :=
  issueS (shMadd f) (fun c => .go { s := c.s, out := outM f.d (c.val f.a + (c.val f.b <<< f.opx.toNat)) }) s

/-- R253. -/
def execMcpyk (f : RForm) (s : State) : Out :=
  issueS (shMcpyk f) (fun c =>
    let o := c.cnt f.a
    match c.offCheck (BitVec.ofNat 64 o) 64 64 0 with
    | some b => b
    | none =>
      let d := opndNum f.d
      let none_ := f.d == .none
      .go { s := c.queue c.s (seqOp .c (.kick (.copy o) (if none_ then none else some (.m d)))
                                 (if none_ then [] else [(.m d, (RegId.m d).bits)])) }) s

def execMwaitc (f : RForm) (s : State) : Out :=
  issueS (shMwaitc f) (fun c =>
    .go { s := c.s.setSeq c.id (fun q => { q with wait := some (.path (pathOfCode f.sub.toNat) (c.cnt f.a)) }) }) s

/-- The dirty sectors of a core that a release has passed on to a block: writes that its stream has observed (R306). -/
def State.passedSects (s : State) (c : Nat) (b : BlockId) : List (Nat × Nat) :=
  (s.core c).l1.flatMap (fun l => ((List.range 4).filter (fun i => l.dirtyIn i != 0 && (l.sect i).any (fun x => x.passed.contains b))).map
    (fun i => (l.line, i)))

/-- Those whose page allows it are written back, line by line; a sector that faults stays pinned. -/
def State.passedWb (s : State) (c : Nat) (b : BlockId) : State :=
  let ps := (s.passedSects c b).map (fun p => (p.1, p.2, ((s.core c).l1? p.1).all (fun l => (s.wbFault l p.2).isNone)))
  (dedup (ps.map (fun p => p.1))).foldl (fun s n => s.wbSects c n ((ps.filter (fun p => p.1 == n && p.2.2)).map (fun p => p.2.1)))
    (ps.foldl (fun s p => if p.2.2 then s else s.pinSector c p.1 p.2.1) s)

/-- R255: held until the stream's earlier accesses are performed; copies it has waited for are. Naming `.lsu`, it takes
the writes that the stream has observed to the scope as well (R306), and is held while one of them cannot be written back
(R470). -/
def execMfencex (f : JForm) (s : State) : Out :=
  issueS (shMfencex f) (fun c =>
    let scp := (f.x.extractLsb' 8 3).toNat
    let lsu := bit f.x 0
    if c.writing || !(c.q.win.performed OpKind.isMma) || (lsu && (c.s.passedSects c.blk.core c.id).any (fun p => c.s.locked p.1 ||
        ((c.s.core c.blk.core).l1? p.1).any (fun l => c.s.wbWaits l p.2))) then .pass
    else
      let s1 := if lsu then c.s.passedWb c.blk.core c.id else c.s
      if (lsu && !(s1.passedSects c.blk.core c.id).isEmpty) || (3 ≤ scp && !(s1.settled (dieOfCore c.blk.core) (lsu || scp == 4))) then .hold s1
      else .go { s := (s1.recall scp).acquire c.blk.core scp }) s

end Sys2Proof.Machine
end

