-- ==== Sys2Proof/Machine/Faults.lean ====
section
/-! DEFINITION. The fault queue (R276, R277, R317, R376, R377) and the TLB flush (R378). -/

namespace Sys2Proof.Machine

/-! ### Records (R277, R376) -/

/-- The 64 bytes of a record with its number. -/
def FaultRec.toBytes (r : FaultRec) (seqn : Word) : List Byte :=
  padTo 64 ([r.kind, r.cause, r.detail, 0] ++ bytesLE 4 r.grid.toNat ++ bytesLE 8 r.block ++
    bytesLE 4 (r.warp % 32 + 256 * (r.core % 256) + 65536 * (r.engine % 8)) ++ bytesLE 4 seqn.toNat ++
    bytesLE 8 r.pc.toNat ++ bytesLE 8 r.addr.toNat ++ bytesLE 4 (r.acc % 4 + 256 * r.bobj.toNat))

def State.setFq (s : State) (f : FaultQ → FaultQ) : State := { s with fq := f s.fq }

/-- The ring holds records and has room for one. -/
def FaultQ.hasRoom (q : FaultQ) : Bool :=
  decide (1 ≤ q.fqlog.toNat) && decide (q.fqlog.toNat ≤ 16) && decide ((q.fqtail - q.fqhead).toNat < 2 ^ q.fqlog.toNat)

/-- The slot of the next record. -/
def State.faultSlot (s : State) : Nat := s.fq.fqbase.toNat + 64 * (s.fq.fqtail.toNat % 2 ^ s.fq.fqlog.toNat)

/-- R277, R376: the oldest record is written at its slot; its agent waits for the answer from then on. -/
def execFaultRecordWrite (s : State) : Out :=
  .next (match s.fq.pending with
    | [] => s
    | r :: rest =>
      if !s.fq.hasRoom || s.locked (s.faultSlot / 128) || s.parked? (s.faultSlot / 128) then s
      else
        let n := s.fq.fqtail
        let s1 := s.devBytes none s.faultSlot (r.toBytes n)
        s1.setFq (fun q => { q with
          pending := rest, fqtail := n + 1,
          waiting := if r.waiter = .nobody then q.waiting else q.waiting ++ [(n, r)] }))

/-! ### Answers (R276, R317, R377) -/

/-- A code under which a grid ends: the first of R355 that applies. -/
def State.endCode (s : State) (g : BitVec 32) (code : Byte) : State :=
  s.setGrid g (fun x => { x with status := if x.status = 0 then code else if code < x.status then code else x.status })

/-- What a service does to the agent that waits. -/
def State.serve (s : State) (r : FaultRec) : State :=
  match r.waiter with
  | .warp w =>
    let clk := s.clkOf (dieOfCore r.core)
    s.setWarp w (fun x => { x with susp := x.susp.map (fun u => { u with serviced := true }),
                                   win := x.win.noEarlier (clk + 1) })
  | .engine id => s.setEng id (fun e => { e with waiting := false })
  | .eviction core line sector _ =>
    s.setCore core (fun k => setL1 k line (fun l => { l with info := l.info.map (fun p =>
      if p.1 = sector then (p.1, { p.2 with pinned := false }) else p) }))
  | .line .. | .nobody => s

/-- What a rejection does to it. A warp suspended at a release that has issued traps at that instruction, which executes
again after `RTE` (R317). -/
def State.reject (s : State) (r : FaultRec) : State :=
  match r.waiter with
  | .warp w => match s.warp? w with
    | some (_, x) => match x.susp with
      | some u =>
        let s1 := match u.release with
          | some (c, line, i) => s.dropSector c line i
          | none => s
        let s2 := s1.setWarp w (fun x => { x with susp := none })
        let t : TrapInfo := { cause := u.cause, detail := u.detail, addr := u.addr }
        (match u.at_ with
         | some (n, pc) =>
           ((s2.setWarp w (fun x => { x with win := { x.win with ops := x.win.ops.filter (fun o => o.num != n) } })).dropOut
             (.op (.warp w) n)).takeTrap w t pc
         | none => s2.takeTrap w t x.pc)
      | none => s
    | none => s
  | .line _ b num line => match s.block? b with
    | some k => (s.dropLine k num (BitVec.ofNat 64 (128 * line))).endCode b.grid 0x12
    | none => s
  | .engine id => match s.eng.find? (fun e => e.id == id) with
    | some e => s.stopEng e
    | none => s
  | .eviction core line sector g => (s.dropSector core line sector).endCode g 0x12
  | .nobody => s

/-- An answer to the record ANSSEQ: the agent that waits on it is served or rejected; ARES says how it went. -/
def State.answerFault (s : State) (act : Nat) : State :=
  if act ≠ 1 ∧ act ≠ 2 then s.setFq (fun q => { q with ares := 2 })
  else match s.fq.waiting.find? (fun p => p.1 == s.fq.ansseq) with
    | none => s.setFq (fun q => { q with ares := 1 })
    | some p =>
      let s1 := s.setFq (fun q => { q with ares := 0, waiting := q.waiting.filter (fun x => x.1 != p.1) })
      if act = 1 then s1.serve p.2 else s1.reject p.2

/-- R377: ANSACT 1. -/
def execFaultAnswerService (s : State) : Out := .next (s.served (s.answerFault 1))
/-- R377: ANSACT 2. -/
def execFaultAnswerReject (s : State) : Out := .next (s.served (s.answerFault 2))

/-! ### The TLB flush (R378) -/

/-- The context of a grid is `c`. -/
def State.inCtx (s : State) (c : Nat) (g : BitVec 32) : Bool := s.ctxOf g == c

/-- The outstanding operations of warps and streams of a context that went through the generic space, `RKGET` and
`RKPUT` with the lines that they translated at issue among them (R431). -/
def State.genericOps (s : State) (c : Nat) : List (Agent × Nat) :=
  (s.blocks.filter (fun b => s.inCtx c b.id.grid)).flatMap (fun b =>
    let of_ (a : Agent) (wn : Win) : List (Agent × Nat) :=
      (wn.ops.filter (fun o => (o.generic || (match o.kind with
        | .astq .. | .kick (.rkget ..) _ | .kick (.rkput ..) _ => true
        | _ => false)) && !o.done)).map (fun o => (a, o.num))
    (b.warpIds.zip b.warps).flatMap (fun p => of_ (.warp p.1) p.2.win) ++ (match b.seq with
      | some q => of_ (.seq b.id) q.win
      | none => []))

/-- The pages of a context's entries that cover an address, on any core. -/
def State.pagesAt (s : State) (c va : Nat) : List (Nat × Nat) :=
  dedup (s.cores.flatMap (fun k => (k.tlb.filter (fun e => e.ctx == c && decide (e.page ≤ va) && decide (va < e.page + e.size))).map
    (fun e => (e.page, e.size))))

/-- A flush command: the entries go at once on every core; one written while a flush is in progress is ignored. -/
def State.tlbFlush (s : State) (one : Bool) : State :=
  if s.fq.flush.isSome then s
  else
    let c := s.fq.tfctx.toNat
    let va := s.fq.tfva.toNat
    let sel (e : TlbEntry) : Bool := e.ctx == c && (!one || (decide (e.page ≤ va) && decide (va < e.page + e.size)))
    let ps := if one then some (s.pagesAt c va) else none
    let f : Flush := { ctx := c, pages := ps, ops := s.genericOps c, req := s.fab.nextReq }
    { s with cores := s.cores.map (fun k => { k with tlb := k.tlb.filter (fun e => !(sel e)) }),
             fq := { s.fq with flush := some f } }

def execTlbFlushContext (s : State) : Out := .next (s.served (s.tlbFlush false))
def execTlbFlushPage (s : State) : Out := .next (s.served (s.tlbFlush true))

/-- A page that a flush selected covers an address. -/
def Flush.covers (f : Flush) (va : Nat) : Bool :=
  match f.pages with
  | none => true
  | some ps => ps.any (fun p => decide (p.1 ≤ va) && decide (va < p.1 + p.2))

/-- The grid that a peer request is made for. -/
def State.gridOfOut (s : State) (o : PeerOut) : Option (BitVec 32) :=
  match o.owner with
  | .op a _ => some a.blockId.grid
  | .engine id => (s.eng.find? (fun e => e.id == id)).map (fun e => e.block.grid)
  | _ => none

/-- An access that a selected entry may have translated is not performed at `.sys` yet: an operation not performed, a
dirty L1 sector, a write on its way to its home, a request of a warp, a stream or an engine that a peer has not answered. -/
def State.flushHeld (s : State) (f : Flush) : Bool :=
  f.ops.any (fun p => match s.win? p.1 with
    | some wn => wn.ops.any (fun o => o.num == p.2 && !o.done)
    | none => false) ||
  s.cores.any (fun k => k.l1.any (fun l => l.info.any (fun p => l.dirtyIn p.1 != 0 && s.inCtx f.ctx p.2.warp.grid &&
    f.covers p.2.va.toNat))) ||
  s.msgs.any (fun m => m.put.isSome && m.dst == homeDie m.line && (match m.grid with
    | some g => s.inCtx f.ctx g
    | none => false)) ||
  s.fab.out.any (fun o => decide (o.id < f.req) && o.answer.isNone && (match s.gridOfOut o with
    | some g => s.inCtx f.ctx g
    | none => false))

/-- R378: TFBUSY clears. -/
def execTlbFlushDone (s : State) : Out :=
  .next (match s.fq.flush with
    | some f => if s.flushHeld f then s else s.setFq (fun q => { q with flush := none })
    | none => s)

end Sys2Proof.Machine
end

