-- ==== Sys2Proof/Machine/System.lean ====
section
/-! DEFINITION. Group B (R260-R272): special registers, `TRAP`, `BRK`, `RTE`, the random generator, the clocks and the
event counters; and the instruction boundary: a pending trap (R274), the reissue after a service (R276), the return of
an instruction fetch (R81, R83). -/

namespace Sys2Proof.Machine

/-! ### Special registers (R24-R26, R261, R262) -/

def specOf (n : Nat) : Option SpecId :=
  match n with
  | 0x10 => some .fpst | 0x11 => some .trapcause | 0x12 => some .trapaddr | 0x13 => some .trappc | 0x16 => some .mode
  | _ => none

/-- The bits of a special register that a write reaches (R262). -/
def specMask : SpecId → BitVec 128
  | .fpst => 0x00031F1F
  | .mode => 0x00000001
  | .trapcause => 0x0000FFFF
  | .trapaddr | .trappc => 0xFFFFFFFFFFFFFFFF
  | .key | .ctr => BitVec.allOnes 128

def Warp.spec (x : Warp) : SpecId → BitVec 128
  | .fpst => x.fpst.setWidth 128
  | .mode => x.mode.setWidth 128
  | .trapcause => x.trapcause.setWidth 128
  | .trapaddr => x.trapaddr.setWidth 128
  | .trappc => x.trappc.setWidth 128
  | .key => x.key
  | .ctr => x.ctr

def Warp.withSpec (x : Warp) (r : SpecId) (v : BitVec 128) : Warp :=
  match r with
  | .fpst => { x with fpst := v.setWidth 32 }
  | .mode => { x with mode := v.setWidth 32 }
  | .trapcause => { x with trapcause := v.setWidth 32 }
  | .trapaddr => { x with trapaddr := v.setWidth 64 }
  | .trappc => { x with trappc := v.setWidth 64 }
  | .key => { x with key := v }
  | .ctr => { x with ctr := v }

/-- What a read under R29 sees: the value after the last write that is covered and not expired; before the first write,
if there is none. `cur` is the value after the last write of all. -/
def specSeen (nominal num : Nat) (cur : BitVec 128) : List SpecWrite → BitVec 128
  | [] => cur
  | r :: rs =>
    let after := match rs with
      | [] => cur
      | q :: _ => q.old
    if rs.any (fun q => q.covered nominal && !q.expired num) then specSeen nominal num cur rs
    else if r.covered nominal && !r.expired num then after else r.old

def Warp.specsOf (x : Warp) (r : SpecId) : List SpecWrite := x.specs.filter (fun q => q.spec = r)

def Warp.readSpec (x : Warp) (r : SpecId) : BitVec 128 := specSeen x.win.nominal x.win.num (x.spec r) (x.specsOf r)

/-- Checked mode refuses a read: the latest write is not covered (R30, R262, R268). -/
def Warp.specUncovered (x : Warp) (r : SpecId) : Bool :=
  match ((x.specsOf r).filter (fun q => !q.expired x.win.num)).getLast? with
  | some q => !q.covered x.win.nominal
  | none => false

/-- The writes that a later read may still need: those from the last covered one without WO on. -/
def pruneSpecs (nominal : Nat) : List SpecWrite → List SpecWrite
  | [] => []
  | r :: rs => if rs.any (fun q => q.covered nominal && !q.wo) then pruneSpecs nominal rs
    else if r.covered nominal && !r.wo then rs else r :: rs

/-- A write of a special register or of the generator state by the instruction that issues now. -/
def Warp.writeSpec (x : Warp) (r : SpecId) (v : BitVec 128) (wo : Bool) : Warp :=
  let rec_ : SpecWrite := { spec := r, old := x.spec r, born := x.win.nominal, num := x.win.num, wo := wo }
  { (x.withSpec r v) with
    specs := x.specs.filter (fun q => q.spec ≠ r) ++ pruneSpecs x.win.nominal (x.specsOf r) ++ [rec_] }

/-- Access to `%fpst` is held until every earlier instruction that sets flags has produced its result (R145, R164,
R173). -/
def Ctx.fpHeld (c : Ctx) : Bool :=
  decide (c.clk < c.w.fpClk) || c.w.win.ops.any (fun o => !o.done && (match o.kind with
    | .qnta .. => true
    | _ => false))

/-- The blocks of a grid along y and z, and the coordinates of a block (R10). -/
def gridY (g : Grid) : Nat := Rec.gy g.record
def blockX (g : Grid) (lin : Nat) : Nat := lin % g.gx
def blockY (g : Grid) (lin : Nat) : Nat := lin / g.gx % gridY g
def blockZ (g : Grid) (lin : Nat) : Nat := lin / g.gx / gridY g

/-- The allowed dies of a grid in ascending order; a DIEMASK of 0 allows all four (R343, R358). -/
def Grid.diesOf (g : Grid) : List Nat :=
  let m := Rec.diemask g.record
  (List.range 4).filter (fun d => m == 0 || m / 2 ^ d % 2 == 1)

/-- Die portions of a grid (R12, R358). -/
def nPortions (g : Grid) : Nat := g.diesOf.length

/-- A read-only special register, by lane (R24). -/
def Ctx.roSpec (c : Ctx) (n : Nat) : Nat → Nat :=
  let lin := c.id.block
  match n with
  | 0x00 => fun l => l
  | 0x01 => fun l => l / 4
  | 0x02 => fun _ => c.id.warp
  | 0x03 => fun _ => Rec.nwarps c.g.record
  | 0x04 => fun _ => blockX c.g lin
  | 0x05 => fun _ => blockY c.g lin
  | 0x06 => fun _ => blockZ c.g lin
  | 0x07 => fun _ => c.g.gx
  | 0x08 => fun _ => gridY c.g
  | 0x09 => fun _ => Rec.gz c.g.record
  | 0x0A => fun _ => lin % Rec.clus c.g.record
  | 0x0B => fun _ => lin / Rec.clus c.g.record
  | 0x0C => fun _ => c.blk.portion
  | 0x0D => fun _ => nPortions c.g
  | 0x0E => fun _ => c.g.id.toNat
  | 0x0F => fun _ => c.blk.core
  | 0x14 => fun _ => c.g.rook.toNat
  | 0x15 => fun _ => c.g.variant
  | _ => fun _ => 0

def stallTrap (c : Ctx) (detail : Byte) : Body := c.trap .undersizedStall detail

/-- The result of `SREAD`: an S destination, or every lane of a V one. -/
def Ctx.outSpec (c : Ctx) (f : RForm) (wide : Bool) (x : Nat → Nat) : Body :=
  c.done (if isS f.d then outS c.anyActive (opndNum f.d) wide (x 0) else outV (c.regwrite f.g) (opndNum f.d) wide x)

def execSread (f : RForm) (s : State) : Out :=
  issueW (shSread f) (fun c =>
    let n := spNum f.a
    match specOf n with
    | some r =>
      if r = .fpst && c.fpHeld then .pass
      else if c.chk && c.w.specUncovered r then stallTrap c 0x02
      else c.outSpec f (spWide n) (fun _ => (c.w.readSpec r).toNat)
    | none => c.outSpec f false (c.roSpec n)) s

/-- R262. -/
def execSwrite (f : RForm) (s : State) : Out :=
  issueW (shSwrite f) (fun c =>
    let n := spNum f.d
    match specOf n with
    | some r =>
      if r = .fpst && c.fpHeld then .pass
      else if !c.anyActive then c.done []
      else
        let v : BitVec 128 := BitVec.ofNat 128 (if spWide n then (c.uni64 f.a).toNat else c.uni32 f.a)
        c.doneWith (fun x => x.writeSpec r (v &&& specMask r) f.h.wo)
    | none => c.done []) s

/-! ### Traps and the return from one (R269-R272) -/

/-- `TRAP` and `BRK`: the trap is taken at the instruction, which is complete (DONE 1). -/
def Ctx.software (c : Ctx) (f : IForm) (cause : Cause) : Body :=
  if c.regwrite f.g = 0 then c.done []
  else .trap c.s { cause := cause, detail := f.x.setWidth 8, addr := f.x.setWidth 64 } true

def execTrap (f : IForm) (s : State) : Out := issueW (shTrap f) (fun c => c.software f .software) s
def execBrk (f : IForm) (s : State) : Out := issueW (shTrap f) (fun c => c.software f .breakpoint) s

/-- What a read of a trap frame's first line comes to. -/
inductive FrameRead where
  | wait (s : State)
  | fault (s : State) (t : TrapInfo)
  | got (s : State) (data : VReg) (poisoned : Bool)
deriving DecidableEq, Repr

/-- `RTE` reads the frame as a load of the warp does. -/
def Ctx.readFrame (c : Ctx) : FrameRead :=
  let a := frameAddr c.g.record c.id
  match c.s.xlat c.blk.core c.g.ctx c.blk.id c.sb a 128 .read with
  | (s, .error t) => .fault s t
  | (s, .ok (.peer dev pa)) =>
    let own := PeerOwner.op (.warp c.id) c.w.win.num
    match (s.outOf own).find? (fun o => o.op == .read (pa / 128) 3 false && o.dev == dev) with
    | none => .wait (s.peerSend own c.die dev (pa / 128) (.read (pa / 128) 3 false))
    | some o => match o.answer with
      | none => .wait s
      | some (.ok, data, _) => .got (s.dropOut own) data false
      | some _ => .got (s.dropOut own) 0 true
  | (s, .ok (.scratch b o)) => .got s (((s.block? b).map (fun k => k.sline (o / 128))).getD 0) false
  | (s, .ok (.mem pa)) =>
    let r : LineReq := { line := pa / 128, need := BitVec.allOnes 128, side := false }
    if s.locked r.line then .wait s
    else if s.lineReady c.blk.core 0 r then
      let p := s.loadLine c.blk.core 0 0 (some c.id) r
      .got p.1 p.2.1 p.2.2.2
    else .wait (s.requestLine c.die r.line)

/-- The counters that a frame gives the lanes that are not retired (R271). -/
def framedNest (x : Warp) (fr : VReg) : BitVec 128 :=
  let n : BitVec 128 := fr.extractLsb' 192 128
  ofNest (fun l => if bit x.retired l then nestOf x.nest l else nestOf n l)

/-- R271. -/
def execRte (f : JForm) (s : State) : Out :=
  issueW (shRte f) (fun c =>
    if !c.w.inTrap then c.trap .illegalOpcode 0x02
    else if c.w.win.count .w ≠ 0 || c.w.win.count .a ≠ 0 then .pass
    else match c.readFrame with
      | .wait s1 => .hold s1
      | .fault s1 t =>
        if t.cause = .translation then
          .susp s1 { cause := t.cause, detail := t.detail, addr := t.addr, acc := 0, recPc := c.pc }
        else .trap s1 t false
      | .got s1 fr poi =>
        if poi && s1.recovers c.id.grid then .hold (s1.startRecovery c.id.grid)
        else if poi && Rec.ptrap c.g.record then .trap s1 { cause := .poison, addr := frameAddr c.g.record c.id } false
        else
          let t := if bit fr 32 then nextPc c.w.trappc else c.w.trappc
          if !legalPc t then .trap s1 { cause := .illegalPc, detail := 0x01, addr := t } false
          else .go { s := (if poi then s1.notePoison c.id.grid 1 else s1).setWarp c.id (fun x =>
                            { x with nest := framedNest x fr, inTrap := false }),
                     pc := some t }) s

/-! ### The random generator (R265-R268) -/

def low32 (x : Nat) : Nat := x % 2 ^ 32

/-- `n` rounds of the generator function on (x0, x1, x2, x3) under the round keys (a, b). -/
def rngRounds : Nat → Nat × Nat → Nat × Nat × Nat × Nat → Nat × Nat × Nat × Nat
  | 0, _, x => x
  | n + 1, (a, b), (x0, x1, x2, x3) =>
    let p := 0xD2511F53 * x0
    let q := 0xCD9E8D57 * x2
    rngRounds n (low32 (a + 0x9E3779B9), low32 (b + 0xBB67AE85))
      ((q / 2 ^ 32) ^^^ x1 ^^^ a, low32 q, (p / 2 ^ 32) ^^^ x3 ^^^ b, low32 p)

/-- Word `i` of F(k, c) (R266). -/
def rngWord (k c : BitVec 128) (i : Nat) : Nat :=
  let kw (j : Nat) : Nat := field k.toNat (32 * j) 32
  let cw (j : Nat) : Nat := field c.toNat (32 * j) 32
  let r := rngRounds 10 (kw 0, kw 1) (cw 0 ^^^ kw 2, cw 1, cw 2 ^^^ kw 3, cw 3)
  match i with
  | 0 => r.1
  | 1 => r.2.1
  | 2 => r.2.2.1
  | _ => r.2.2.2

/-- The key of a warp at its start (R265). -/
def rngKey (seed : DWord) (lin warp : Nat) : BitVec 128 :=
  BitVec.ofNat 128 (seed.toNat + (lin % 2 ^ 32) * 2 ^ 64 + ((field lin 32 27 * 32 + warp % 32) % 2 ^ 32) * 2 ^ 96)

/-- The value a lane draws (R267). -/
def rngLane (ty : Ty) (k c : BitVec 128) (l : Nat) : Nat :=
  let w := rngWord k (c + BitVec.ofNat 128 (l / 4)) (l % 4)
  if ty = .b32 then w else (fround fp32 .rne false (w / 256) (-24) false).bits

/-- R267. The counter read is the one that R268 lets it see, and its advance is in place at once. -/
def execRng (f : RForm) (s : State) : Out :=
  issueW (shRng f) (fun c =>
    if c.chk && (c.w.specUncovered .key || c.w.specUncovered .ctr) then stallTrap c 0x09
    else if !c.anylive then c.done []
    else
      let ctr := c.w.readSpec .ctr
      let key := c.w.readSpec .key
      c.doneWith (fun x => { x with ctr := ctr + 8, specs := x.specs.filter (fun q => q.spec ≠ .ctr) })
        (outV (c.regwrite f.g) (opndNum f.d) false (rngLane f.ty key ctr))) s

def genSel (f : RForm) : SpecId := if f.sub = 0 then .ctr else .key

/-- R268. -/
def execCtrget (f : RForm) (s : State) : Out :=
  issueW (shCtrget f) (fun c =>
    if c.chk && c.w.specUncovered (genSel f) then stallTrap c 0x09
    else
      let x := (c.w.readSpec (genSel f)).toNat
      let d := opndNum f.d
      c.done (outS c.anyActive d true (x % 2 ^ 64) ++ outS c.anyActive (d + 2) true (x / 2 ^ 64))) s

/-- R268. `.add` reads CTR as `CTRGET` does. -/
def execCtrset (f : RForm) (s : State) : Out :=
  issueW (shCtrset f) (fun c =>
    let add := f.opx == 1
    if c.chk && add && c.w.specUncovered .ctr then stallTrap c 0x09
    else if !c.anyActive then c.done []
    else
      let a := opndNum f.a
      let v : BitVec 128 := c.sreg64 (a + 2) ++ c.sreg64 a
      let v1 := if add then c.w.readSpec .ctr + v else v
      c.doneWith (fun x => x.writeSpec (genSel f) v1 f.h.wo)) s

/-! ### Clocks and counters (R263, R264) -/

/-- R263: the core's count of clks since it last left reset or PARK. -/
def execClock (f : RForm) (s : State) : Out :=
  issueW (shClock f) (fun c => c.done (outS c.anyActive (opndNum f.d) true ((c.clk - (c.s.die c.die).clk0) % 2 ^ 64))) s

def execGtime (f : RForm) (s : State) : Out :=
  issueW (shClock f) (fun c => c.done (outS c.anyActive (opndNum f.d) true c.s.gtime.toNat)) s

/-- A counter of R264; an index that the table does not list reads 0. -/
def Core.counter (k : Core) (i : Nat) : DWord := if i ≤ 9 then tget 0 k.pm i else 0

def execPmrd (f : RForm) (s : State) : Out :=
  issueW (shPmrd f) (fun c =>
    c.done (outS c.anyActive (opndNum f.d) true ((c.s.core c.blk.core).counter (c.uni32 f.a % 256)).toNat)) s

/-! ### The instruction boundary (R274, R276) -/

/-- R274: the first pending trap of rows 1 and 2 is taken; the others but POISON are discarded on entry. -/
def execPendingTrapTaken (s : State) : Out :=
  .next (match s.warp? s.on.w with
    | some (b, x) =>
      if !x.trapDue (s.clkOf (dieOfCore b.core)) then s
      else match x.due with
        | some p => (s.setWarp s.on.w (fun x => { x with pend := x.pend.erase p })).takeTrap s.on.w p.info
            (if p.row1 then p.tpc else x.pc) p.row1 p.fpc
        | none => s
    | none => s)

/-- R276: a serviced warp may issue its instruction again. -/
def execWarpReissue (s : State) : Out :=
  .next (s.setWarp s.on.w (fun x => match x.susp with
    | some u => if u.serviced && x.running && !x.held then { x with susp := none } else x
    | none => x))

/-! ### Instruction fetch (R81, R83, R369, R401) -/

/-- What a fetch of a code block comes to. -/
inductive Fetched where
  | wait (s : State)
  | fault (s : State) (t : TrapInfo)
  | got (s : State) (code : VReg)
deriving DecidableEq, Repr

/-- The code block of a PC, read at the die's point of coherence or at a peer. `num` numbers a peer request. -/
def State.fetchCode (s : State) (a : Agent) (b : Block) (g : Grid) (pc : DWord) (num : Nat) : Fetched :=
  let poison : TrapInfo := { cause := .poison, addr := BitVec.ofNat 64 (pc.toNat / 128 * 128) }
  let own := PeerOwner.op a num
  match s.xlat b.core g.ctx b.id (Rec.scrb g.record) pc 12 .fetch with
  | (s, .error t) => if t.held then .wait s else .fault s t
  | (s, .ok (.scratch k o)) => .got s (((s.block? k).map (fun x => x.sline (o / 128))).getD 0)
  | (s, .ok (.peer dev pa)) =>
    match (s.outOf own).find? (fun o => o.op == .read (pa / 128) 3 false && o.dev == dev) with
    | none => .wait (s.peerSend own (dieOfCore b.core) dev (pa / 128) (.read (pa / 128) 3 false))
    | some o => match o.answer with
      | none => .wait s
      | some (.ok, data, _) => .got (s.dropOut own) data
      | some _ => .fault (s.dropOut own) poison
  | (s, .ok (.mem pa)) =>
    let line := pa / 128
    if s.locked line then .wait s
    else match s.pocRead? (dieOfCore b.core) line (BitVec.allOnes 128) false with
      | none => .wait (s.requestLine (dieOfCore b.core) line)
      | some (_, _, true) => .fault s poison
      | some (data, _, false) => .got s data

/-- A fault of a warp's fetch: a translation fault suspends it, any other traps at the fetched PC (R83). -/
def State.fetchFault (s : State) (w : WarpId) (t : TrapInfo) (pc : DWord) : State :=
  if t.cause = .translation then
    s.suspend w { cause := t.cause, detail := t.detail, addr := t.addr, acc := Acc.fetch.code, recPc := pc }
  else s.takeTrap w t pc

/-- The places of the frame lines whose walk had to wait, or a fault (R269, R442). -/
def State.framePlaces (s : State) (b : Block) (g : Grid) (ls : List (DWord × Option Loc × VReg)) :
    State × Except TrapInfo (List (DWord × Option Loc × VReg)) :=
  ls.foldl (fun (p : State × Except TrapInfo (List (DWord × Option Loc × VReg))) l =>
    match p.2, l.2.1 with
    | .error t, _ => (p.1, .error t)
    | .ok a, some _ => (p.1, .ok (a ++ [l]))
    | .ok a, none => match p.1.xlat b.core g.ctx b.id (Rec.scrb g.record) l.1 128 .write with
      | (s, .ok x) => (s, .ok (a ++ [(l.1, some x, l.2.2)]))
      | (s, .error t) => (s, if t.held then .ok (a ++ [l]) else .error t)) (s, .ok [])

/-- Writes the lines of a trap frame that had to wait: those of memory once they can be, those at a peer by requests, whose
answers are taken once all are there; a failed one sets POIS (R402, R403). The handler's first word is fetched after that
(R269); a frame that cannot be written stops the warp (R275). -/
def State.sendFrame (s : State) (w : WarpId) (b : Block) (g : Grid) (x : Warp) : State :=
  let own := PeerOwner.op (.warp w) x.win.num
  let peer (l : DWord × Option Loc × VReg) : Option (Nat × Nat) := match l.2.1 with
    | some (.peer d pa) => some (d, pa / 128)
    | _ => none
  match s.framePlaces b g x.frame with
  | (s, .error t) => (s.setWarp w (fun x => { x with frame := [], inTrap := false, pc := x.trappc })).stopWarp w t x.trappc
  | (s, .ok ls) =>
    let s1 := s.frameWrite b w x.trappc ls
    let rest := ls.filter (fun l => !(s.lineNow b l.2.1))
    let s2 := rest.foldl (fun s l => match peer l with
      | some (d, n) => if (s.outLine own d n).isSome then s
          else s.peerSend own (dieOfCore b.core) d n (.write n l.2.2 (BitVec.allOnes 128) 0 0 false)
      | none => s) s1
    let answered (l : DWord × Option Loc × VReg) : Bool := match peer l with
      | some (d, n) => (s2.outLine own d n).any (fun o => o.answer.isSome)
      | none => false
    if rest.all answered then
      ((if (s2.outOf own).any PeerOut.failed then s2.setPois w.grid else s2).dropOut own).setWarp w (fun x => { x with frame := [] })
    else s2.setWarp w (fun x => { x with frame := rest })

/-- R81, R83: an agent that may issue has the code block of its PC fetched. -/
def execInstructionFetchReturn (a : Agent) (s : State) : Out :=
  .next (match s.block? a.blockId, s.grid? a.blockId.grid with
    | some b, some g =>
      let clk := s.clkOf (dieOfCore b.core)
      (match a with
       | .warp w =>
         (match s.warp? w with
          | some (_, x) =>
            if !x.canIssue clk then s
            else if !x.frame.isEmpty then s.sendFrame w b g x
            else (match s.fetchCode a b g x.pc x.win.num with
              | .wait s => s
              | .fault s t => s.fetchFault w t x.pc
              | .got s d => s.setWarp w (fun x => { x with ibuf := some (x.pc.toNat / 128, d) }))
          | none => s)
       | .seq i =>
         (match b.seq with
          | some q =>
            if !q.canIssue clk then s
            else (match s.fetchCode a b g q.pc q.win.num with
              | .wait s => s
              | .fault s t => s.streamTrap i t q.pc Acc.fetch.code
              | .got s d => s.setSeq i (fun q => { q with ibuf := some (q.pc.toNat / 128, d) }))
          | none => s))
    | _, _ => s)

end Sys2Proof.Machine
end

