-- ==== Sys2Proof/Machine/Placement.lean ====
section
/-! DEFINITION. The residency of blocks (R18, R208, R320), where a block goes (R357-R359), its start (R13, R36, R265),
and the modes of SRAM banks (R319-R326). -/

namespace Sys2Proof.Machine

/-! ### Banks (R319-R324) -/

def Core.modeOf (k : Core) (b : Nat) : BankMode := (k.modes[b]?).getD .off
def Core.setMode (k : Core) (b : Nat) (m : BankMode) : Core := { k with modes := k.modes.set b m }
def Core.isOwned (k : Core) (b : Nat) : Bool := bit k.owned b
def Core.setOwned (k : Core) (b : Nat) (o : Bool) : Core :=
  { k with owned := if o then k.owned ||| ((1 : BitVec 16) <<< b) else k.owned &&& ~~~((1 : BitVec 16) <<< b) }

/-- A bank is not under a command; the placements of the command's own clk come before it (R323). -/
def Core.untouched (k : Core) (clk b : Nat) : Bool := k.leaving.all (fun l => l.bank != b || l.since == clk)

/-- The FIFO pool: FIFO banks that no block owns. -/
def Core.pool (k : Core) (clk : Nat) : List Nat :=
  (List.range 16).filter (fun b => k.modeOf b == .fifo && !k.isOwned b && k.untouched clk b)

/-- The banks that a placement may take from CACHE mode. -/
def Core.takeable (k : Core) (clk : Nat) : List Nat :=
  (List.range 16).filter (fun b => k.modeOf b == .cache && !k.isOwned b && k.untouched clk b)

/-- A bank goes to a block; a command of the same clk on it is refused (R323). -/
def Core.own (k : Core) (b : Nat) : Core :=
  let k1 := k.setOwned b true
  if k.leaving.any (fun l => l.bank == b) then { k1 with leaving := none, busy := false, res := 1 } else k1

/-- The lines of one bank are written back; the bank is left when nothing dirty stays in it (R324). -/
def State.flushBank (s : State) (c b : Nat) : State × Bool :=
  let ls := sortNats (((s.core c).l1.filter (fun l => l.bank == b)).map (fun l => l.line))
  let s1 := ls.foldl (fun s n => s.wbLine c n) s
  if (s1.core c).l1.any (fun l => l.bank == b && l.dirty != 0) then (s1, false)
  else (s1.setCore c (fun k => { k with l1 := k.l1.filter (fun l => l.bank != b) }), true)

/-- Takes `n` banks from CACHE mode for a block's scratchpad, the lowest first, passing over one that holds a pinned
sector; the banks in grant order. -/
def State.takeBanks (s : State) (c n : Nat) : State × List Nat :=
  ((s.core c).takeable (s.clkOf (dieOfCore c))).foldl (fun (a : State × List Nat) b =>
    if n ≤ a.2.length then a
    else
      let r := a.1.flushBank c b
      if r.2 then (r.1.setCore c (fun k => (k.setMode b .scratch).own b), a.2 ++ [b]) else (r.1, a.2)) (s, [])

/-- A block's banks go back: its scratchpad to CACHE mode, its FIFO banks to the pool (R320). -/
def State.freeBanks (s : State) (b : Block) : State :=
  s.setCore b.core (fun k =>
    let k1 := b.banks.foldl (fun k n => (k.setMode n .cache).setOwned n false) k
    b.fifoBanks.foldl (fun k n => k.setOwned n false) k1)

/-! ### Residency (R18, R208) -/

/-- Scratchpad banks that a record needs. -/
def scratchBanks (r : VReg) : Nat := (Rec.scrb r + 32767) / 32768

/-- Warps of a block in a quadrant (R11). -/
def perQuad (nw q0 q : Nat) : Nat := ((List.range nw).filter (fun w => (q0 + w) % 4 == q)).length

/-- The launch record of a resident block. -/
def State.recordOf (s : State) (b : Block) : VReg := ((s.grid? b.id.grid).map (fun g => g.record)).getD 0

def State.onCore (s : State) (c : Nat) : List Block := s.blocks.filter (fun b => b.core == c)

def sumNat (l : List Nat) : Nat := l.foldl (· + ·) 0

/-- Warp slots in use in a quadrant. -/
def Block.slotsIn (b : Block) (q : Nat) : Nat :=
  ((b.warps.zip (List.range b.warps.length)).filter (fun p => (b.q0 + p.2) % 4 == q && !p.1.freed)).length

/-- Quadrant `q` of core `c` takes `n` more warps of a block of record `r`. -/
def State.quadFits (s : State) (c : Nat) (r : VReg) (q n : Nat) : Bool :=
  let bs := s.onCore c
  let v := sumNat (bs.map (fun b => Rec.nV (s.recordOf b) * perQuad b.warps.length b.q0 q))
  let e := sumNat (bs.map (fun b => if perQuad b.warps.length b.q0 q = 0 then 0 else Rec.nredd (s.recordOf b)))
  n == 0 || (decide (sumNat (bs.map (fun b => b.slotsIn q)) + n ≤ 64) && decide (v + Rec.nV r * n ≤ 4096) &&
    decide (e + Rec.nredd r ≤ 512))

/-- The quadrant q0 with which a block of record `r` fits on core `c` (R359). -/
def State.fits (s : State) (c : Nat) (r : VReg) : Option Nat :=
  let bs := s.onCore c
  let k := s.core c
  let clk := s.clkOf (dieOfCore c)
  let sWords := sumNat (bs.map (fun b => Rec.nS (s.recordOf b) * b.warps.length))
  let tiles := sumNat (bs.map (fun b => Rec.nacc (s.recordOf b)))
  let streams := (bs.filter (fun b => match b.seq with
    | some q => !q.ended
    | none => false)).length
  if 262144 < sWords + Rec.nS r * Rec.nwarps r ∨ 256 < tiles + Rec.nacc r ∨ (Rec.mstr r = true ∧ 4 ≤ streams) ∨
      (k.takeable clk).length < scratchBanks r ∨ (k.pool clk).length < Rec.nfifo r then none
  else (List.range 4).find? (fun q0 => (List.range 4).all (fun q => s.quadFits c r q (perQuad (Rec.nwarps r) q0 q)))

/-- A die is parked, or on its way there (R442). -/
def Die.parking (d : Die) : Bool := d.pcur == 6 || (d.pbusy && d.ptgt == 6)

/-- A core that placement may use: not absent, its die not parked (R439, R442). -/
def State.usableCore (s : State) (c : Nat) : Bool := !(s.core c).fused && !(s.die (dieOfCore c)).parking

/-! ### The start of a block (R13, R36, R265) -/

/-- The lanes of warp `w` that carry a thread of a block of `t` threads, and the helpers beside them. -/
def realLanes (t w : Nat) : Mask := ofMask (fun l => decide (32 * w + l < t))
def helperLanes (t w : Nat) : Mask := ofMask (fun l => !(decide (32 * w + l < t)) && decide (32 * w + l / 4 * 4 < t))

def startWarp (g : Grid) (lin w slot : Nat) : Warp :=
  let t := Rec.nthr g.record
  { pc := Rec.entry g.record, retired := ~~~(realLanes t w ||| helperLanes t w), helper := helperLanes t w,
    mode := if Rec.chk g.record then 1 else 0, key := rngKey (Rec.seed g.record) lin w, slot := slot }

/-- The lowest free slots of each quadrant for a block's warps, in ascending warp order. -/
def State.freeSlots (s : State) (c q0 nw : Nat) : List Nat :=
  let used (q : Nat) : List Nat := (s.onCore c).flatMap (fun b =>
    ((b.warps.zip (List.range b.warps.length)).filter (fun p => (b.q0 + p.2) % 4 == q && !p.1.freed)).map (fun p => p.1.slot))
  let free (q : Nat) : List Nat := (List.range 64).filter (fun i => !(used q).contains i)
  (List.range nw).map (fun w => ((free ((q0 + w) % 4))[w / 4]?).getD 63)

/-- Sequencer `n` of R248: the stream takes part. -/
def seqParty (r : VReg) (n : Nat) : Bool := Rec.mstr r && bit (Rec.seqmask r) n

/-- A numbered barrier at block start (R42, R222). -/
def startBar (r : VReg) (n : Nat) : NBar :=
  if n < Rec.nbar r then { exp := Rec.nwarps r + b2n (seqParty r n), seqp := seqParty r n } else {}

/-- The lowest stream slot of a core that is free. -/
def State.freeStream (s : State) (c : Nat) : Nat :=
  let used := (s.onCore c).filterMap (fun b => match b.seq with
    | some q => if q.ended then none else some b.slot
    | none => none)
  ((List.range 4).find? (fun i => !used.contains i)).getD 0

/-- A block as it starts. -/
def State.startBlock (s : State) (g : Grid) (lin c q0 portion : Nat) (banks fifo : List Nat) : Block :=
  let r := g.record
  { id := ⟨g.id, lin⟩, core := c, q0 := q0, portion := portion,
    warps := ((s.freeSlots c q0 (Rec.nwarps r)).zip (List.range (Rec.nwarps r))).map (fun p => startWarp g lin p.2 p.1),
    bars := (List.range 16).map (startBar r), banks := banks, fifoBanks := fifo, fifos := fifo.map (fun _ => []),
    seq := if Rec.mstr r then some { pc := Rec.stream r, chk := Rec.chk r } else none,
    slot := s.freeStream c }

/-- The parties of a new block join the cluster's and the die portion's barriers (R225). -/
def Grid.join (g : Grid) (lin portion : Nat) : Grid :=
  let n := Rec.nwarps g.record
  let c := clusterOf g lin
  { g with cbars := tset {} c { (g.cbar c) with exp := (g.cbar c).exp + n } g.cbars,
           dbars := g.dbars.modify portion (fun b => { b with exp := b.exp + n }) }

/-- All reservations of a block granted on a core, or none of them (R357). -/
def State.grant (s : State) (g : Grid) (lin c portion : Nat) : Option State :=
  match s.fits c g.record with
  | none => none
  | some q0 =>
    let r := s.takeBanks c (scratchBanks g.record)
    if r.2.length < scratchBanks g.record then none
    else
      let fifo := ((r.1.core c).pool (s.clkOf (dieOfCore c))).take (Rec.nfifo g.record)
      let s1 := r.1.setCore c (fun k => fifo.foldl Core.own k)
      some { s1 with blocks := s1.blocks ++ [s1.startBlock g lin c q0 portion r.2 fifo] }

/-! ### Where a block goes (R358, R359) -/

/-- Blocks of a grid. -/
def Grid.total (g : Grid) : Nat := g.gx * Rec.gy g.record * Rec.gz g.record

/-- The address of a block's first tile (R358). -/
def Grid.hintAddr (g : Grid) (lin : Nat) : DWord := Rec.hint g.record + BitVec.ofNat 64 (128 * Rec.hstr g.record * lin)

/-- The walk of a block's hint reads a line that is held (R385, R442): its placement waits. -/
def State.hintHeld (s : State) (g : Grid) (lin : Nat) : Bool :=
  Rec.hint g.record != 0 && (match s.unitPlace g.ctx (g.hintAddr lin) with
    | .error t => t.held
    | .ok _ => false)

/-- The home line of a block's first tile, when it lies in HBM4E or LPDDR6 (R344, R358). Only a fault of R369 or R371 fails
the hint. -/
def State.hintLine (s : State) (g : Grid) (lin : Nat) : Option Nat :=
  if Rec.hint g.record = 0 then none
  else match s.unitPlace g.ctx (g.hintAddr lin) with
    | .ok (.mem pa) => if tierOf pa == some 0 || tierOf pa == some 1 then some (pa / 128) else none
    | _ => none

/-- UCIe crossings between two dies (R336). -/
def crossings (d e : Nat) : Nat := min (d - e + (e - d)) 2

/-- The die of a block or of the cluster that it leads (R358). -/
def Grid.dieFor (g : Grid) (home : Option Nat) (lin : Nat) : Nat :=
  let ds := g.diesOf
  match home with
  | none => (ds[lin * ds.length / max 1 g.total]?).getD 0
  | some line =>
    let d := homeDie line
    (ds.foldl (fun (a : Option Nat) e => match a with
      | none => some e
      | some x => if crossings d e < crossings d x then some e else some x) none).getD 0

/-- The portion of a die in a grid. -/
def Grid.portionOf (g : Grid) (d : Nat) : Nat := (g.diesOf.filter (fun e => decide (e < d))).length

/-- Mesh hops between a core and the slice of a line's index (R337). -/
def State.hops (s : State) (c : Nat) (line : Nat) : Nat :=
  let k := s.core c
  let sl := homeSlice line
  let x := sl % 8 + 2
  let y := 2 * (sl / 8)
  (k.locx.toNat - x + (x - k.locx.toNat)) + (k.locy.toNat - y + (y - k.locy.toNat))

/-- Resident warps of a core. -/
def State.warpsOn (s : State) (c : Nat) : Nat :=
  sumNat ((s.onCore c).map (fun b => (b.warps.filter (fun w => !w.freed)).length))

/-- The order of R359 among candidates: hops, resident warps, number. -/
def State.corePref (s : State) (home : Option Nat) (c : Nat) : Nat × Nat :=
  ((match home with
    | some line => s.hops c line
    | none => 0), s.warpsOn c)

def better (a b : Nat × Nat) : Bool := decide (a.1 < b.1) || (a.1 == b.1 && decide (a.2 < b.2))

/-- The cores of a die in the order in which R359 tries them, without those of `excl`. -/
def State.coreOrder (s : State) (d : Nat) (home : Option Nat) (excl : List Nat) : List Nat :=
  let cs := ((List.range 48).map (fun i => 48 * d + i)).filter (fun c => s.usableCore c && !excl.contains c)
  cs.foldl (fun (l : List Nat) c =>
    let p := s.corePref home c
    (l.takeWhile (fun x => !(better p (s.corePref home x)))) ++ c :: l.dropWhile (fun x => !(better p (s.corePref home x)))) []

/-- One block granted on the best core of a die: the state and the core. -/
def State.placeOn (s : State) (g : Grid) (lin d : Nat) (excl : List Nat) : Option (State × Nat) :=
  let home := s.hintLine g lin
  if s.hintHeld g lin then none else (s.coreOrder d home excl).findSome? (fun c => (s.grant g lin c (g.portionOf d)).map (fun t => (t, c)))

/-- `n` blocks of one cluster from `lin` on, rank by rank. -/
def State.placeRanks (s : State) (g : Grid) (lin d : Nat) (excl : List Nat) : Nat → Option State
  | 0 => some s
  | n + 1 => match s.placeOn g lin d excl with
    | none => none
    | some (t, c) => (t.setGrid g.id (fun x => x.join lin (g.portionOf d))).placeRanks g (lin + 1) d (c :: excl) n

/-- The cluster whose first block is `lin`. -/
def State.placeCluster (s : State) (g : Grid) (lin : Nat) : Option State :=
  s.placeRanks g lin (g.dieFor (s.hintLine g lin) lin) [] (Rec.clus g.record)

/-- Every cluster of a cooperative grid. -/
def State.placeAllFrom (s : State) (g : Grid) (lin : Nat) : Nat → Option State
  | 0 => some s
  | n + 1 => match s.placeCluster g lin with
    | none => none
    | some t => t.placeAllFrom g (lin + Rec.clus g.record) n

/-- A grid has a block to place now: it runs, it is not being ended, saved or restored. -/
def State.wantsPlace (s : State) (g : Grid) : Bool :=
  g.state == .running && !g.ending && !g.recover && decide (g.nextBlock < g.total) &&
  (match s.front.job with
   | some j => j.grid != g.id
   | none => true)

/-- The next blocks of a grid placed: a cluster, or the whole of a cooperative grid. -/
def State.placeNext (s : State) (g : Grid) : Option State :=
  if !s.wantsPlace g then none
  else if Rec.coop g.record then
    (s.placeAllFrom g 0 (g.total / Rec.clus g.record)).map (fun t => t.setGrid g.id (fun x => { x with nextBlock := g.total }))
  else (s.placeCluster g g.nextBlock).map (fun t =>
    t.setGrid g.id (fun x => { x with nextBlock := g.nextBlock + Rec.clus g.record }))

/-- Grid `a` comes before `b` in the dispatchers' order: by PRIO, then by launch (R354). -/
def State.before (s : State) (a b : Grid) : Bool :=
  let i (g : Grid) : Nat := (s.grids.takeWhile (fun x => x.id != g.id)).length
  decide (Rec.prio b.record < Rec.prio a.record) || (Rec.prio a.record == Rec.prio b.record && decide (i a < i b))

/-- The dies that waiting cooperative grids hold against a grid (R357). -/
def State.heldDies (s : State) (g : Grid) : List Nat :=
  (s.grids.filter (fun x => x.id != g.id && Rec.coop x.record && s.wantsPlace x &&
    (!(Rec.coop g.record) || s.before x g))).flatMap (fun x => x.diesOf)

/-- A grid's next block is held by no waiting cooperative grid. -/
def State.free? (s : State) (g : Grid) : Bool :=
  let h := s.heldDies g
  if Rec.coop g.record then g.diesOf.all (fun d => !h.contains d)
  else !(h.contains (g.dieFor (s.hintLine g g.nextBlock) g.nextBlock))

/-! ### Queues (R345-R351) -/

def queueReady (q : Queue) (n : Nat) : Bool := decide (q.snoop.toNat % 2 = 1) != (n / 2 ^ q.qlog.toNat % 2 == 1)

/-- The head record is ready: by its lap in a host queue (R350), written by `LAUNCH` in a device queue (R361). -/
def Queue.ready (q : Queue) : Bool := if q.devq then q.tail != q.head else queueReady q q.head.toNat

def State.gridsOf (s : State) (qn : Nat) : List Grid := s.grids.filter (fun g => gridQueue g.id == qn)

/-- QSTATE of an enabled queue, as its grid and its head record stand. -/
def State.queueState (s : State) (qn : Nat) : BitVec 3 :=
  let q := s.queue qn
  match s.gridsOf qn with
  | g :: _ =>
    if g.state = .saved then 6
    else if Rec.coop g.record && decide (g.nextBlock < g.total) then 4
    else if q.ready && !q.disabling then 2 else 5
  | [] => if q.disabling then 0 else if q.ready then 3 else 1

/-- The line of a queue's head slot. -/
def Queue.headLine (q : Queue) : Nat := q.slotPa q.head.toNat / 128

/-- The head slot's line as its home has it; while it is held (R385, R442), one that is not ready (R350). -/
def State.headCopy (s : State) (q : Queue) : VReg :=
  if s.lineBusy q.headLine then BitVec.ofNat 1024 (q.head.toNat / 2 ^ q.qlog.toNat % 2) else (s.homeRead q.headLine).1

/-- The front end holds a copy of the head slot's line. -/
def State.watch (s : State) (qn : Nat) : State := s.setQueue qn (fun q => { q with snoop := s.headCopy q })

/-- QSTATE after a change; a queue that was to be disabled is, once it holds no grid. -/
def State.settleQueue (s : State) (qn : Nat) : State :=
  let q := s.queue qn
  if q.qstate = 0 then s
  else
    let st := s.queueState qn
    s.setQueue qn (fun q => { q with qstate := st, disabling := q.disabling && st != 0 })

/-- R357: the dispatchers place a grid's next blocks, in the order of R354. -/
def State.placeBlocks (s : State) (g : Grid) : State :=
  if !(s.free? g) || s.grids.any (fun x => s.before x g && s.free? x && (s.placeNext x).isSome) then s
  else ((s.placeNext g).map (fun t => t.settleQueue (gridQueue g.id))).getD s

/-! ### Bank commands (R321-R324) -/

/-- Sectors of a bank whose write-back awaits the host. -/
def Core.pinnedIn (k : Core) (b : Nat) : Nat :=
  sumNat ((k.l1.filter (fun l => l.bank == b)).map (fun l => (l.info.filter (fun p => p.2.pinned)).length))

/-- A bank command of a core: the target mode is 0 OFF, 1 CACHE, 3 FIFO. The change itself takes effect in a later clk
(R322, R324). RES reads 0 while an accepted command runs, and where several codes apply 3 comes before 1 before 2 (DESIGN
CHOICE, log 107). -/
def State.bankCmd (s : State) (c b tm : Nat) : State :=
  let k := s.core c
  let m := k.modeOf b
  let res (k : Core) (r : Nat) : Core :=
    { k with res := BitVec.ofNat 3 r, lbank := BitVec.ofNat 4 b, bank := BitVec.ofNat 4 b, tmode := BitVec.ofNat 2 tm }
  let change (m : BankMode) : State := s.setCore c (fun k =>
    { res k 0 with leaving := some { bank := b, goal := m, since := s.clkOf (dieOfCore c) }, busy := true })
  if k.busy then s.setCore c (fun k => { k with res := 3, lbank := BitVec.ofNat 4 b })
  else if k.isOwned b then s.setCore c (fun k => res k 1)
  else match m, tm with
    | .cache, 0 => change .off
    | .cache, 3 => change .fifo
    | .off, 1 => change .cache
    | .fifo, 1 => change .cache
    | _, _ => s.setCore c (fun k => res k 2)

/-- The commands act on the core and bank that the turn names. -/
def execBankToOff (s : State) : Out := .next (s.served (s.bankCmd s.on.n s.on.m 0))
def execBankToCache (s : State) : Out := .next (s.served (s.bankCmd s.on.n s.on.m 1))
def execBankToFifo (s : State) : Out := .next (s.served (s.bankCmd s.on.n s.on.m 3))

/-- R322, R324: in a clk after the command a bank that leaves CACHE mode is written back and takes its new mode, and
another takes it at once; a sector that cannot be written back keeps it, and only then RES is 4. Its 4 and 0 replace the 3
of a command that was refused meanwhile, whose bank LBANK keeps (DESIGN CHOICE, log 107). -/
def execBankModeChange (s : State) : Out :=
  let c := s.on.n
  .next (match (s.core c).leaving with
    | none => s
    | some l =>
      let r := s.flushBank c l.bank
      if s.clkOf (dieOfCore c) ≤ l.since then s
      else if r.2 then r.1.setCore c (fun k =>
        { k.setMode l.bank l.goal with leaving := none, busy := false, res := 0 })
      else r.1.setCore c (fun k => if k.pinnedIn l.bank = 0 then k else { k with res := 4 }))

end Sys2Proof.Machine
end

