-- ==== Sys2Proof/Machine/Lifecycle.lean ====
section
/-! DEFINITION. The ends: of a warp's slot and of a block (R17, R320), the merge of the staged reductions (R208, R313),
the completion of a grid (R314, R317, R356), and the host's end command (R363). -/

namespace Sys2Proof.Machine

/-! ### Warps and blocks (R17) -/

/-- R17: a terminated warp's slot is freed once every path counter is 0 and its drained contributions are home. -/
def execWarpSlotFree (s : State) : Out :=
  .next (s.setWarp s.on.w (fun x => if x.terminated && x.win.ops.isEmpty && x.spills.isEmpty then { x with freed := true } else x))

/-- No engine operation of a block is in flight. -/
def State.engIdle (s : State) (b : BlockId) : Bool := s.eng.all (fun e => e.block != b)

/-- The stream of a block has ended, or has stopped with nothing outstanding. -/
def Block.streamOver (b : Block) : Bool :=
  match b.seq with
  | some q => q.ended || (q.stopped && q.win.ops.isEmpty)
  | none => true

/-- The block ends: every warp has terminated and is free, the stream has ended, its copies are done. The blocks of a die
with a die-level fault never end (R449). -/
def State.blockEnds (s : State) (b : Block) : Bool :=
  !(s.die (dieOfCore b.core)).dieflt && !b.frozen &&
  b.warps.all (fun x => x.terminated && x.freed) &&
  (match b.seq with
   | some q => q.ended
   | none => true) && s.engIdle b.id

/-- The resident blocks of a block's cluster satisfy `p`: they are resident together (R225). -/
def State.clusterAll (s : State) (g : Grid) (b : Block) (p : Block → Bool) : Bool :=
  s.blocks.all (fun k => k.id.grid != g.id || clusterOf g k.id.block != clusterOf g b.id.block || p k)

/-- Something of a block stopped on a trap or by command. -/
def Block.hasStopped (b : Block) : Bool :=
  b.warps.any (fun x => x.stopped) || (match b.seq with
    | some q => q.stopped
    | none => false)

/-- Nothing of a block runs any more: each warp has terminated or stopped, with nothing outstanding. -/
def State.blockOver (s : State) (b : Block) : Bool :=
  b.warps.all (fun x => (x.terminated && x.freed) || (x.stopped && x.win.ops.isEmpty)) && b.streamOver && s.engIdle b.id

/-- Every block of a grid that will be placed has been. -/
def State.allPlaced (s : State) (g : Grid) : Bool :=
  g.ending || (g.state == .running && g.nextBlock == g.total && g.savedBlocks.isEmpty &&
    s.front.job.all (fun j => j.grid != g.id))

/-- The blocks of a grid that are over but hold a stopped warp or stream are freed together, once all of them are
(R275, R356). -/
def State.stoppedFree (s : State) (g : Grid) : Bool :=
  s.allPlaced g && s.blocks.all (fun b => b.id.grid != g.id || s.blockOver b)

/-- A block leaves its core: its banks and every reservation are free, and what stopped in it marks the grid. -/
def State.removeBlock (s : State) (b : Block) : State :=
  let s1 := if b.warps.any (fun x => x.stopped) then s.endCode b.id.grid 0x10 else s
  let s2 := match b.seq with
    | some q => if q.stopped then s1.endCode b.id.grid 0x11 else s1
    | none => s1
  { (s2.freeBanks b) with blocks := s2.blocks.filter (fun x => x.id != b.id) }

/-- R17, R320: a block ends. The blocks of a cluster, which are resident together, are freed only once each of them ends
(R225; DEDUCED, log 106). -/
def execBlockEnd (s : State) : Out :=
  .next (match s.block? s.on.block, s.grid? s.on.w.grid with
    | some b, some g =>
      if g.recover then s
      else if (s.blockEnds b && s.clusterAll g b s.blockEnds) ||
          (!(s.clusterAll g b (fun k => !k.hasStopped)) && s.stoppedFree g) then
        (s.removeBlock b).setGrid g.id (fun x => { x with endedBlocks := x.endedBlocks ++ [b.id.block] })
      else s
    | _, _ => s)

/-! ### The kernel's end (R208, R313, R314) -/

/-- No block of a grid is resident or to come. -/
def State.blocksGone (s : State) (g : Grid) : Bool :=
  s.blocks.all (fun b => b.id.grid != g.id) && s.allPlaced g

/-- R208: at kernel end a home slice (numbered 0 to 127 over the dies) merges the grid's staged partials, once it can
perform them. -/
def execReddMerge (g : BitVec 32) (slice : Nat) (s : State) : Out :=
  .next (match s.grid? g with
    | some gr =>
      if !(s.blocksGone gr) || gr.recover then s
      else
        let lines := (s.mergeOf g slice).map (fun p => p.pa / 128)
        if lines.any (fun l => s.locked l || s.parked? l) then s
        else if lines.any s.atPeer then lines.foldl (fun s l => if s.atPeer l then s.homeFill l 0 else s) s
        else s.reddMergeSlice g slice
    | none => s)

/-- The dirty L1 sectors that `p` selects: core, line, sector. -/
def State.dirtySects (s : State) (p : SectInfo → Bool) : List (Nat × L1Line × Nat) :=
  (s.cores.zip (List.range s.cores.length)).flatMap (fun k =>
    k.1.l1.flatMap (fun l => ((List.range 4).filter (fun i => l.dirtyIn i != 0 && (l.sect i).any p)).map (fun i => (k.2, l, i))))

/-- The dirty sectors that a grid's stores left last. -/
def State.dirtyOf (s : State) (g : BitVec 32) : List (Nat × L1Line × Nat) := s.dirtySects (fun inf => inf.warp.grid == g)

/-- The dirty sectors that the end of a grid orders: those its warps have stored to, read or received (R314). -/
def State.orderedOf (s : State) (g : BitVec 32) : List (Nat × L1Line × Nat) :=
  s.dirtySects (fun inf => inf.warp.grid == g || inf.readers.any (fun w => w.grid == g))

/-- A record of this eviction is already on its way or waits. -/
def State.evictionReported (s : State) (g : BitVec 32) (c line i : Nat) : Bool :=
  let w : Waiter := .eviction c line i g
  s.fq.pending.any (fun r => r.waiter == w) || s.fq.waiting.any (fun p => p.2.waiter == w)

/-- The record of a sector that the kernel boundary cannot write back (R316, R317). -/
def evictionRec (g : BitVec 32) (c line i : Nat) (inf : SectInfo) (t : TrapInfo) : FaultRec :=
  { kind := 1, cause := t.cause.code, detail := t.detail, grid := g, block := inf.warp.block, warp := inf.warp.warp, core := c,
    engine := 0, pc := inf.pc, addr := t.addr, acc := 1, waiter := .eviction c line i g }

/-- The write-backs of the kernel boundary; a sector whose page refuses it is pinned and reported once. A line under a
Castle lock waits. -/
def State.flushGrid (s : State) (g : BitVec 32) : State :=
  let ps := (s.orderedOf g).filter (fun p => !(s.locked p.2.1.line) && !(s.wbWaits p.2.1 p.2.2))
  let s1 := ps.foldl (fun s p =>
    match s.wbFault p.2.1 p.2.2, p.2.1.sect p.2.2 with
    | some t, some inf =>
      let s1 := s.pinSector p.1 p.2.1.line p.2.2
      if s1.evictionReported g p.1 p.2.1.line p.2.2 then s1
      else s1.report (evictionRec g p.1 p.2.1.line p.2.2 inf t)
    | _, _ => s) s
  let ok := ps.filter (fun p => (s.wbFault p.2.1 p.2.2).isNone)
  let lines := ok.foldl (fun a p => if a.contains (p.1, p.2.1.line) then a else a ++ [(p.1, p.2.1.line)]) []
  lines.foldl (fun s n => s.wbSects n.1 n.2 ((ok.filter (fun p => p.1 == n.1 && p.2.1.line == n.2)).map (fun p => p.2.2))) s1

/-- Writes of a grid that have not reached their home. -/
def State.msgsOf (s : State) (g : BitVec 32) : Bool :=
  s.msgs.any (fun m => m.grid == some g && m.put.isSome && m.dst == homeDie m.line)

/-- What R314 asks beside the blocks' ends: no engine operation, plan or staged partial of the grid is left. -/
def State.gridIdle (s : State) (g : BitVec 32) : Bool :=
  s.eng.all (fun e => e.block.grid != g) && s.fab.plans.all (fun p => p.grid != g) && s.staged.all (fun p => p.grid != g)

/-- The address of a completion record. -/
def State.completionAt (s : State) (qn : Nat) (n : BitVec 26) : Nat :=
  (s.queue qn).cbase.toNat + 32 * (n.toNat % 2 ^ (s.queue qn).qlog.toNat)

/-- A completion record waits: something holds the line it goes to (R385, R442). -/
def State.completionHeld (s : State) (qn : Nat) (n : BitVec 26) : Bool :=
  let l := s.completionAt qn n / 128
  s.locked l || s.parked? l

/-- A completion record, and what goes with every one of them: as a release at `.sys` it recalls what the host's caches
hold (R304, R314), DONE advances and the interrupt is raised (R356). -/
def State.writeCompletion (s : State) (qn : Nat) (n : BitVec 26) (bs : List Byte) : State :=
  let q := s.queue qn
  let s1 := (s.recall 4).devBytes none (s.completionAt qn n) bs
  let s2 := s1.setQueue qn (fun q => { q with done := n + 1 })
  if q.irq then s2.irq qn else s2

/-- The 32 bytes of a completion record. -/
def completionBytes (id : BitVec 32) (status : Byte) (spill pois : Bool) (nspill : Nat) (sizev : Word) (ts : DWord) (dur var : Nat) :
    List Byte :=
  bytesLE 4 id.toNat ++ bytesLE 4 (status.toNat + 256 * b2n spill + 512 * b2n pois) ++ bytesLE 4 nspill ++
    bytesLE 4 sizev.toNat ++ bytesLE 8 ts.toNat ++ bytesLE 4 dur ++ bytesLE 4 var

/-- The status that a grid completes with. -/
def Grid.finalStatus (g : Grid) : Byte := if g.ending then 0x14 else g.status

/-- The completion record of a grid. -/
def State.gridRecord (s : State) (g : Grid) : List Byte :=
  let ts := g.tstart.getD 0
  let dur := if g.tstart.isSome then min (s.gtime - ts).toNat 0xFFFFFFFF else 0
  completionBytes g.id g.finalStatus g.spill g.pois g.nspill g.sizev ts dur g.variant

/-- The Rook service learns how the update grid of a block ended (R424). -/
def State.rookEnded (s : State) (r : Option (Nat × Word)) (g : BitVec 32) (st : Byte) : State :=
  match r with
  | some (i, b) => s.setFab (fun f => { f with ends := f.ends ++ [{ region := i, blk := b.toNat, grid := g, status := st }] })
  | none => s

/-- A grid is complete: its record is written, its queue goes on, and a rollback grid's log is idle again (R367). -/
def State.completeGrid (s : State) (g : Grid) : State :=
  let qn := gridQueue g.id
  let s1 := s.writeCompletion qn (g.id.setWidth 26) (s.gridRecord g)
  let s2 := { s1 with grids := s1.grids.filter (fun x => x.id != g.id) }
  let s3 := if Rec.rbk g.record then s2.setQctx qn (fun q => { q with rbst := 0, reln := false }) else s2
  (s3.rookEnded g.rookRegion g.id g.finalStatus).settleQueue qn

/-- R356: a grid completes after the write-backs, merges and engine operations of R314. -/
def execGridComplete (s : State) : Out :=
  .next (match s.grid? s.on.w.grid with
    | none => s
    | some g =>
      if !(s.blocksGone g) || g.recover || !(s.gridIdle g.id) || s.completionHeld (gridQueue g.id) (g.id.setWidth 26) then s
      else
        let s1 := s.flushGrid g.id
        if !(s1.orderedOf g.id).isEmpty || s1.msgsOf g.id then s1 else s1.completeGrid g)

/-! ### The end command (R362, R363) -/

/-- An operation that an end drops: a kick not taken yet, the lines of an `ASTQ`. -/
def OpKind.dropped : OpKind → Bool
  | .kick .. | .astq .. => true
  | _ => false

/-- Park-buffer bytes that a stream's `ASTQ` stores hold. -/
def Win.parkBytes (wn : Win) : Nat :=
  sumNat (wn.ops.map (fun o => if o.done then 0 else match o.kind with
    | .astq _ n => n
    | _ => 0))

/-- A window without what an end drops. -/
def Win.cut (wn : Win) : Win := { wn with ops := retireGo [] (wn.ops.filter (fun o => !o.kind.dropped)) }

def Warp.cut (x : Warp) : Warp := { x with win := x.win.cut }
def Seq.cut (q : Seq) : Seq := { q with win := q.win.cut }
def Block.cut (b : Block) : Block := { b with warps := b.warps.map Warp.cut, seq := b.seq.map Seq.cut }

/-- The agent that a record waits for belongs to a grid. -/
def State.waiterOf (s : State) (g : BitVec 32) : Waiter → Bool
  | .warp x => x.grid == g
  | .line _ b _ _ => b.grid == g
  | .engine id => s.eng.any (fun e => e.id == id && e.block.grid == g)
  | _ => false

/-- No agent of a grid waits for an answer any more. -/
def State.dropWaiters (s : State) (g : BitVec 32) : State :=
  let one (r : FaultRec) : FaultRec := if s.waiterOf g r.waiter then { r with waiter := .nobody } else r
  s.setFq (fun q => { q with pending := q.pending.map one, waiting := q.waiting.filter (fun p => !(s.waiterOf g p.2.waiter)) })

/-- The requests of an engine operation of a grid. -/
def State.outOfGrid (s : State) (g : BitVec 32) (o : PeerOut) : Bool :=
  match o.owner with
  | .engine id => s.eng.any (fun e => e.id == id && e.block.grid == g)
  | _ => false

/-- The park-buffer bytes of a grid's streams are free again. -/
def State.freePark (s : State) (g : BitVec 32) : State :=
  (s.blocks.filter (fun b => b.id.grid == g)).foldl (fun s b => match b.seq with
    | some q => s.setCore b.core (fun k => { k with park := k.park - q.win.parkBytes })
    | none => s) s

/-- Kicks, copies in flight and parked lines of a grid are dropped. -/
def State.dropWork (s : State) (g : BitVec 32) : State :=
  let s1 := (s.dropWaiters g).freePark g
  let s2 := s1.setFab (fun f => { f with rookOwn := f.rookOwn.filter (fun r => r.w.grid != g),
                                         out := f.out.filter (fun o => !(s.outOfGrid g o)) })
  { s2 with blocks := s2.blocks.map (fun b => if b.id.grid = g then b.cut else b),
            eng := s2.eng.filter (fun e => e.block.grid != g) }

/-- A running save is given up: STATUS 3 and ELAPSED of its header are written (R363). -/
def State.abandonSave (s : State) (g : BitVec 32) : State :=
  match s.front.job with
  | some j =>
    if j.grid = g then
      let s1 := (s.devBytes none (j.csa.toNat + 4) (bytesLE 4 3)).devBytes none (j.csa.toNat + 0x38) (bytesLE 8 (s.now - j.startNs))
      { s1 with front := { s1.front with job := none, cbusy := false } }
    else s
  | none => s

/-- A running restore is given up: what it has placed stays and stops with the grid, the reservations of the other blocks
are free, and the area keeps RSTAT (R363). -/
def State.abandonRestore (s : State) (g : BitVec 32) : State :=
  match s.front.restore with
  | some j =>
    if j.grid = g then
      let bs := s.blocks.filter (fun b => b.id.grid == g && b.frozen)
      let s1 := bs.foldl (fun s b => { (s.freeBanks b) with blocks := s.blocks.filter (fun x => x.id != b.id) }) s
      { s1 with front := { s1.front with restore := none, cbusy := false } }
    else s
  | none => s

/-- Every warp and stream of a grid stops; blocks not placed never are. -/
def State.endGrid (s : State) (g : BitVec 32) : State :=
  (((((s.stopGrid g).dropWork g).abandonSave g).abandonRestore g).setGrid g (fun x => { x with ending := true, savedBlocks := [], recover := false })).settleQueue
    (gridQueue g)

/-- R363: the end command. -/
def State.endCmd (s : State) : State :=
  let g := s.front.cmdgrid
  if (s.grid? g).isNone then { s with front := { s.front with cres := 2 } }
  else { (s.endGrid g) with front := { (s.endGrid g).front with cres := 0 } }

def execGridEnd (s : State) : Out := .next (s.served s.endCmd)

end Sys2Proof.Machine
end

