-- ==== Sys2Proof/Machine/Launch.lean ====
section
/-! DEFINITION. Launch queues and the launch of grids (R344-R355). -/

namespace Sys2Proof.Machine

/-! ### Queues (R345, R346, R348) -/

/-- Both bases of a queue are aligned and lie in the memory that R345 names. -/
def Queue.basesOk (q : Queue) : Bool :=
  let n := 2 ^ q.qlog.toNat
  decide (1 ≤ q.qlog.toNat) && decide (q.qlog.toNat ≤ 16) && q.qbase.toNat % (128 * n) == 0 && q.cbase.toNat % (32 * n) == 0 &&
    (tierOf q.qbase.toNat == some 0 || tierOf q.qbase.toNat == some 1) && (tierOf q.cbase.toNat).isSome

def State.enableQueue (s : State) (qn : Nat) : State :=
  let q := s.queue qn
  if q.qstate ≠ 0 ∨ q.basesOk = false then s.setQueue qn (fun q => { q with efail := true })
  else
    ((s.setQueue qn (fun q => { q with head := 0, done := 0, tail := 0, efail := false, qstate := 1, disabling := false,
                                       rook := [] })).watch qn).settleQueue qn

def State.disableQueue (s : State) (qn : Nat) : State :=
  let q := s.queue qn
  if q.qstate = 0 then s else (s.setQueue qn (fun q => { q with disabling := true })).settleQueue qn

/-- R346: the command acts on the queue that the turn names. -/
def execQueueEnable (s : State) : Out := .next (s.served (s.enableQueue s.on.n))
def execQueueDisable (s : State) : Out := .next (s.served (s.disableQueue s.on.n))

/-- R348: the invalidation of the held line carries the new line. -/
def execLaunchSlotSnoop (s : State) : Out :=
  .next (s.served (if (s.queue s.on.n).qstate = 0 || s.lineBusy (s.queue s.on.n).headLine then s else (s.watch s.on.n).settleQueue s.on.n))

/-! ### The checks of a record (R343, R355) -/

/-- Reserved bits of the record: lowest bit and count. -/
def recReserved : List (Nat × Nat) :=
  [(21, 11), (8 * 8 + 24, 8), (8 * 0x0C + 20, 12), (8 * 0x38 + 31, 1)] ++ (List.range 4).map (fun v => (8 * (0x64 + 8 * v) + 31, 1))

def recBad1 (r : VReg) : Bool :=
  recReserved.any (fun p => field r.toNat p.1 p.2 != 0) || decide (4 < Rec.nvar r) || Rec.ndep r == 3

def between (lo x hi : Nat) : Bool := decide (lo ≤ x) && decide (x ≤ hi)

/-- Declarations within their limits. -/
def recLimits (r : VReg) : Bool :=
  between 1 (Rec.nthr r) 1024 && between 0 (Rec.nbar r) 16 && between 1 (Rec.nV r / 8) 32 && between 1 (Rec.nS r / 32) 32 &&
  between 0 (Rec.nfifo r) 8 && between 0 (Rec.nacc r) 64 && between 0 (Rec.nbobj r) 64 && between 0 (Rec.nredd r) 256 &&
  between 0 (Rec.scrb r) 524288 && Rec.tb r != 0

/-- Fields that another field makes zero. -/
def recZeros (r : VReg) (rook : Bool) : Bool :=
  (Rec.mstr r || (Rec.seqmask r == 0 && Rec.sofs r == 0)) && (Rec.trapv r || Rec.tofs r == 0) && (rook || !Rec.rkr r) &&
  (Rec.nvar r == 0 || Rec.gx r == 0) && (Rec.nvar r != 0 || Rec.sizew r == 0) &&
  (List.range 4).all (fun v => if v < Rec.nvar r then Rec.vcap r v != 0 else (Rec.vcap r v == 0 && Rec.vgx r v == 0)) &&
  (decide (1 ≤ Rec.ndep r) || Rec.dep r 0 == 0) && (decide (2 ≤ Rec.ndep r) || Rec.dep r 1 == 0)

/-- Grid dimensions, for the `%nblocks.x` chosen (`none` where no variant was). -/
def recDims (r : VReg) (gx : Option Nat) : Bool :=
  decide (1 ≤ Rec.gy r) && decide (1 ≤ Rec.gz r) && (match gx with
    | some x => decide (1 ≤ x) && x * Rec.gy r * Rec.gz r % Rec.clus r == 0
    | none => true)

def recPcs (r : VReg) : Bool :=
  legalPc (Rec.entry r) && (!Rec.mstr r || legalPc (Rec.stream r)) && (!Rec.trapv r || legalPc (Rec.handler r))

/-- Banks that could serve as CACHE ways, and FIFO banks, of a core with no block on it. -/
def Core.cacheable (k : Core) : Nat := (k.modes.filter (fun m => m == .cache || m == .scratch)).length
def Core.fifoCount (k : Core) : Nat := (k.modes.filter (fun m => m == .fifo)).length

/-- A free core grants one block; only banks can be short (R18 with the limits of R343). -/
def Core.couldHold (k : Core) (r : VReg) : Bool :=
  !k.fused && decide (scratchBanks r ≤ k.cacheable) && decide (Rec.nfifo r ≤ k.fifoCount)

/-- 0x06: some allowed die has cores for one cluster. -/
def State.clusterFits (s : State) (g : Grid) : Bool :=
  g.diesOf.any (fun d => decide (Rec.clus g.record ≤ ((List.range 48).filter (fun i => (s.core (48 * d + i)).couldHold g.record)).length))

/-- The device with every core free: what 0x07 asks about. -/
def Core.emptied (k : Core) : Core :=
  { k with modes := k.modes.map (fun m => if m == .scratch then .cache else m), owned := 0, l1 := [], leaving := none }
def Die.awake (d : Die) : Die := { d with pcur := 0, pbusy := false }
def State.emptied (s : State) : State :=
  { s with blocks := [], cores := s.cores.map Core.emptied, dies := s.dies.map Die.awake }

/-- 0x07: a cooperative grid can be resident with every core free. -/
def State.coopFits (s : State) (g : Grid) : Bool :=
  !Rec.coop g.record || ({ s.emptied with grids := [g] }.placeAllFrom g 0 (g.total / Rec.clus g.record)).isSome

/-! ### Dependences and variants (R352, R353) -/

def depQueue (d : Word) : Nat := (d.extractLsb' 26 6).toNat
def depSeq (d : Word) : BitVec 26 := d.extractLsb' 0 26

/-- The dependences of a record; a reserved count names none, and is refused by R355. -/
def recDeps (r : VReg) : List Word := if Rec.ndep r = 3 then [] else (List.range (Rec.ndep r)).map (Rec.dep r)

/-- A dependence of a record of queue `qn` is met. -/
def State.depMet (s : State) (qn : Nat) (d : Word) : Bool :=
  depQueue d == qn || decide (((s.queue (depQueue d)).done - depSeq d - 1).toNat < 2 ^ 25)

def State.depDisabled (s : State) (qn : Nat) (d : Word) : Bool := depQueue d != qn && (s.queue (depQueue d)).qstate == 0

/-- The first dependence, in their order, on which a record is refused or waits (R352). -/
def State.openDep (s : State) (qn : Nat) (r : VReg) : Option Word :=
  (recDeps r).find? (fun d => s.depDisabled qn d || !(s.depMet qn d))

/-- Capacities ascend and every variant has blocks. -/
def variantsOk (r : VReg) : Bool :=
  (List.range (Rec.nvar r)).all (fun v => Rec.vgx r v != 0 && (v == 0 || decide (Rec.vcap r (v - 1) < Rec.vcap r v)))

def variantFor (r : VReg) (size : Nat) : Option Nat := (List.range (Rec.nvar r)).find? (fun v => decide (size ≤ Rec.vcap r v))

/-! ### What the front end reads (R344) -/

/-- A read of the front end: bytes of one line at its home or at a peer. -/
inductive FrontRead where
  | wait (s : State)
  | fault
  | got (data : VReg) (poisoned : Bool)
deriving DecidableEq, Repr

/-- The read of a line for an owner of requests: the front end, or a launch of the Rook service (R428). -/
def State.readBy (s : State) (own : PeerOwner) (ctx : Nat) (va : DWord) : FrontRead :=
  match s.unitXlat ctx va .read with
  | .error t => if t.held then .wait s else .fault
  | .ok (.scratch _ _) => .fault
  | .ok (.mem pa) =>
    if s.locked (pa / 128) || s.parked? (pa / 128) then .wait s
    else if s.atPeer (pa / 128) then .wait (s.homeFill (pa / 128) 0)
    else .got (s.homeRead (pa / 128)).1 (s.homeRead (pa / 128)).2.2
  | .ok (.peer dev pa) =>
    let op : PeerOp := .read (pa / 128) 3 false
    match (s.outOf own).find? (fun o => o.op == op && o.dev == dev) with
    | none => .wait (s.peerSend own 0 dev (pa / 128) op)
    | some o => match o.answer with
      | none => .wait s
      | some (.ok, d, _) => .got d false
      | some _ => .fault

def State.frontRead (s : State) (qn ctx : Nat) (va : DWord) : FrontRead := s.readBy (.front qn) ctx va

/-- The constant set, a list of lines read so far (R344). -/
inductive Consts where
  | wait (s : State)
  | bad
  | got (ls : List VReg)
deriving DecidableEq, Repr

def State.constsBy (s : State) (own : PeerOwner) (ctx : Nat) (va : DWord) : Consts :=
  (List.range 4).foldl (fun a i => match a with
    | .got ls => match s.readBy own ctx (va + BitVec.ofNat 64 (128 * i)) with
      | .wait s => .wait s
      | .fault => .bad
      | .got d p => if p then .bad else .got (ls ++ [d])
    | o => o) (.got [])

def State.readConsts (s : State) (qn ctx : Nat) (va : DWord) : Consts := s.constsBy (.front qn) ctx va

/-- Constant words by number; words that are 0 are not listed. -/
def constTable (ls : List VReg) : List (Nat × Word) :=
  (List.range 128).foldl (fun t n => tset 0 n (lane ((ls[n / 32]?).getD 0) (n % 32)) t) []

/-! ### The launch (R347, R351-R355) -/

/-- What the head record of a queue comes to. -/
inductive Launching where
  | no
  | wait (s : State)
  | refuse (code : Byte) (sizev : Word)
  | go (g : Grid)
deriving DecidableEq, Repr

/-- The head record of a queue, as the front end holds it. -/
def State.headRecord (s : State) (qn : Nat) : VReg :=
  let q := s.queue qn
  if q.devq then (s.homeRead q.headLine).1 else q.snoop

def gridIdOf (qn : Nat) (n : BitVec 26) : BitVec 32 := (BitVec.ofNat 6 qn) ++ n

/-- The grid that a record would make. -/
def State.gridOf (s : State) (qn : Nat) (r : VReg) (gx variant : Nat) (sizev : Word) : Grid :=
  let q := s.queue qn
  let rk := (q.rook.find? (fun p => p.1 == q.head)).map Prod.snd
  { id := gridIdOf qn q.head, record := r, gx := gx, variant := variant, sizev := sizev,
    rook := match rk with
      | some (_, b) => if Rec.rkr r then b else 0xFFFFFFFF
      | none => 0xFFFFFFFF,
    ctx := (s.qctx qn).qctx.toNat, dbars := List.replicate 4 {}, rookRegion := rk }

/-- The size word and the variant it selects (R353): a wait, a refusal (`none`), or variant and size. -/
inductive Sized where
  | wait (s : State)
  | bad (sizev : Word)
  | got (variant : Nat) (sizev : Word)
deriving DecidableEq, Repr

def State.readSize (s : State) (qn : Nat) (r : VReg) : Sized :=
  if Rec.nvar r = 0 then .got 0 0
  else if (Rec.sizew r).toNat % 4 ≠ 0 then .bad 0
  else match s.frontRead qn (s.qctx qn).qctx.toNat (Rec.sizew r) with
    | .wait s => .wait s
    | .fault => .bad 0
    | .got d _ =>
      let sz := lane d ((Rec.sizew r).toNat % 128 / 4)
      match (if variantsOk r then variantFor r sz.toNat else none) with
      | some v => .got v sz
      | none => .bad sz

/-- The codes 0x01 to 0x07 on a grid whose `%nblocks.x` is known, or is not (`sized = false`). -/
def State.check1 (s : State) (g : Grid) (sized rook : Bool) : Byte :=
  let r := g.record
  if recBad1 r then 0x01
  else if !(recLimits r) || !(recZeros r rook) then 0x02
  else if !(recDims r (if sized then some g.gx else none)) then 0x03
  else if !(recPcs r) then 0x04
  else if Rec.scrb r < 16 * Rec.nbobj r then 0x05
  else if !(s.clusterFits g) then 0x06
  else if sized && !(s.coopFits g) then 0x07
  else 0x00

/-- Misaligned bases of 0x0A. -/
def recBases (r : VReg) : Bool := (Rec.kconst r).toNat % 128 == 0 && (Rec.tsa r).toNat % 512 == 0

/-- Steps 1 to 4 of R351 on the head record of a queue. -/
def State.launching (s : State) (qn : Nat) : Launching :=
  let q := s.queue qn
  if q.qstate = 0 || q.disabling || !q.ready || !(s.gridsOf qn).isEmpty then .no
  else if q.devq && s.lineBusy q.headLine then .wait (if s.atPeer q.headLine then s.homeFill q.headLine 0 else s)
  else
    let r := s.headRecord qn
    let rook := q.rook.any (fun p => p.1 == q.head)
    match s.openDep qn r with
    | some d =>
      if !(s.depDisabled qn d) then .no
      else
        let c := s.check1 (s.gridOf qn r (Rec.gx r) 0 0) (Rec.nvar r == 0) rook
        if c ≠ 0 then .refuse c 0
        else if !(variantsOk r) then .refuse 0x08 0
        else if !(recBases r) then .refuse 0x0A 0
        else .refuse 0x0B 0
    | none => match s.readSize qn r with
      | .wait s => .wait s
      | .bad sz =>
        let c := s.check1 (s.gridOf qn r 0 0 sz) false rook
        .refuse (if c ≠ 0 then c else 0x08) sz
      | .got v sz =>
        let g := s.gridOf qn r (if Rec.nvar r = 0 then Rec.gx r else Rec.vgx r v) v sz
        let c := s.check1 g true rook
        if Rec.coop g.record && (List.range g.total).any (s.hintHeld g) then .wait s
        else if c ≠ 0 then .refuse c sz
        else if !(recBases r) then .refuse 0x0A sz
        else match s.readConsts qn g.ctx (Rec.kconst r) with
          | .wait s => .wait s
          | .bad => .refuse 0x0A sz
          | .got ls => .go { g with konst := constTable ls }

/-- HEAD passes a record; the front end holds the next slot's line. -/
def State.nextHead (s : State) (qn : Nat) : State :=
  ((s.setQueue qn (fun q => { q with head := q.head + 1, rook := q.rook.filter (fun p => p.1 != q.head) })).dropOut
    (.front qn)).watch qn

/-- A grid's start acquires at `.sys` on every die of its portions (R314). -/
def State.startAcquire (s : State) (g : Grid) : State :=
  g.diesOf.foldl (fun s d => ((List.range 48).foldl (fun s i => s.setCore (48 * d + i) cleanL1) s).dropCopies d) s

/-- The undo log of a queue as a grid starts with it: empty; a rollback grid logs, unless the log has no room (R367,
R394). -/
def QueueCtx.fresh (q : QueueCtx) (rbk again : Bool) : QueueCtx :=
  { q with ulused := 0, ulpois := [], rbst := if !rbk then 0 else if q.ulsize = 0 then 2 else 1, reln := again }

/-- Step 5 of R351. -/
def State.launchGrid (s : State) (qn : Nat) (g : Grid) : State :=
  let s1 := { (s.nextHead qn) with grids := s.grids ++ [g] }
  let s2 := s1.setQctx qn (fun q => q.fresh (Rec.rbk g.record) false)
  { ((s2.startAcquire g).settleQueue qn) with front := { s.front with lastQueue := qn } }

/-- The completion record of a queue's head slot waits. -/
def State.refusalHeld (s : State) (qn : Nat) : Bool := s.completionHeld qn (s.queue qn).head

/-- A refused record's completion. -/
def State.refuseRecord (s : State) (qn : Nat) (code : Byte) (sizev : Word) : State :=
  let n := (s.queue qn).head
  let rk := ((s.queue qn).rook.find? (fun p => p.1 == n)).map Prod.snd
  ((((s.writeCompletion qn n (completionBytes (gridIdOf qn n) code false false 0 sizev 0 0 0))).nextHead qn).rookEnded rk
    (gridIdOf qn n) code).settleQueue qn

/-- The queue that R354 takes next: the highest PRIO, then the lowest number above the one that launched last. -/
def State.nextLaunch (s : State) : Option Nat :=
  let can := (List.range 64).filterMap (fun q => match s.launching q with
    | .go g => some (q, Rec.prio g.record)
    | _ => none)
  let top := can.foldl (fun m p => max m p.2) 0
  (List.range 64).findSome? (fun i =>
    let q := (s.front.lastQueue + 1 + i) % 64
    if can.any (fun p => p.1 == q && p.2 == top) then some q else none)

/-- R351: the head record of the queue that the turn names is refused or launched. -/
def execGridLaunch (s : State) : Out :=
  let qn := s.on.n
  .next (match s.launching qn with
    | .no => s
    | .wait s1 => s1
    | .refuse c sz => if s.refusalHeld qn then s else s.refuseRecord qn c sz
    | .go g => if s.nextLaunch = some qn then s.launchGrid qn g else s)

end Sys2Proof.Machine
end

