-- ==== Sys2Proof/Machine/Save.lean ====
section
/-! DEFINITION. Pre-emption, the context save area and restore (R37-R45, R259, R278-R284, R362, R363). -/

namespace Sys2Proof.Machine

/-! ### Records (R38-R42, R280, R281) -/

def pad128 (bs : List Byte) : List Byte := bs ++ List.replicate ((128 - bs.length % 128) % 128) 0
def up128 (n : Nat) : Nat := (n + 127) / 128 * 128

/-- Bytes of a warp record and of a block record. -/
def warpSize (r : VReg) : Nat := up128 (384 + 4 * Rec.nS r + 136 * Rec.nV r)
def scratchLines (r : VReg) : Nat := (Rec.scrb r + 127) / 128
def blockHead (r : VReg) : Nat := 512 + (if Rec.mstr r then 512 else 0) + 4096 * Rec.nacc r
def blockSize (r : VReg) : Nat := up128 (blockHead r + 136 * scratchLines r)
def wholeSize (r : VReg) : Nat := blockSize r + Rec.nwarps r * warpSize r

/-- The word of INTRAP, SUSP, FORCED, BWV and BWN. -/
def warpFlags (x : Warp) : Nat :=
  let bw : Nat := match x.wait with
    | some (.numbered n _) => 8 + 256 * n
    | _ => 0
  b2n x.inTrap + 2 * b2n x.susp.isSome + 4 * b2n x.forced + bw

/-- The PC of a record: that of a releasing instruction where the warp is suspended at it (R278, R316). -/
def Warp.savedPc (x : Warp) : DWord := ((x.susp.bind (fun u => u.at_)).map Prod.snd).getD x.pc

def warpHeader (r : VReg) (x : Warp) (i : Nat) : List Byte :=
  padTo 256 (bytesLE 4 (1 + 65536 * i) ++ bytesLE 4 (Rec.nV r / 8 + 256 * (Rec.nS r / 32)) ++ bytesLE 8 x.savedPc.toNat ++
    bytesLE 8 0 ++ bytesLE 8 x.stack.length ++ padTo 128 (x.stack.flatMap (fun a => bytesLE 8 a.toNat)) ++
    bytesLE 4 x.fpst.toNat ++ bytesLE 4 x.mode.toNat ++ bytesLE 4 x.trapcause.toNat ++ bytesLE 4 (warpFlags x) ++
    bytesLE 8 x.trappc.toNat ++ bytesLE 8 x.trapaddr.toNat ++ bytesLE 16 x.key.toNat ++ bytesLE 16 x.ctr.toNat)

def warpRecord (r : VReg) (x : Warp) (i : Nat) : List Byte :=
  pad128 (warpHeader r x i ++
    (List.range (Rec.nS r)).flatMap (fun n => bytesLE 4 (tget 0 x.s n).toNat) ++
    (List.range 8).flatMap (fun n => bytesLE 4 (tget 0 x.k n).toNat) ++
    bytesLE 16 x.nest.toNat ++ bytesLE 4 x.retired.toNat ++ bytesLE 4 x.helper.toNat ++ bytesLE 8 0 ++ List.replicate 64 0 ++
    (List.range (Rec.nV r)).flatMap (fun n => bytesLE 128 (tget 0 x.v n).toNat) ++
    (List.range (Rec.nV r)).flatMap (fun n => bytesLE 8 (tget eInit x.e n).toNat))

def barBytes (b : NBar) : List Byte :=
  bytesLE 4 (b.exp + 256 * b.arr + 2 ^ 16 * b2n b.phase + 2 ^ 17 * b2n b.fallen + 2 ^ 18 * b2n b.seqp + 2 ^ 19 * b2n b.seqa) ++
    bytesLE 4 b.amask.toNat ++ bytesLE 4 b.torem ++ bytesLE 4 0

def cbarBytes (b : CBar) : List Byte :=
  bytesLE 4 (b.exp % 65536 + 65536 * (b.arr % 65536)) ++ bytesLE 4 (b2n b.phase + 2 * b2n b.fallen) ++ bytesLE 4 b.torem ++ bytesLE 4 0

/-- The slot before a PC: a stream that has issued `MEND` is saved there. -/
def prevPc (pc : DWord) : DWord := if pc.toNat % 128 = 0 then pc - 20 else pc - 12

def seqPc (b : Block) : Nat :=
  match b.seq with
  | some q => (if q.ending then prevPc q.pc else q.pc).toNat
  | none => 0

def blockHeader (g : Grid) (b : Block) : List Byte :=
  let r := g.record
  let lin := b.id.block
  padTo 256 (bytesLE 4 (2 + 65536 * (Rec.nwarps r - 1) + 2 ^ 24 * b2n (Rec.mstr r)) ++ bytesLE 4 (Rec.nacc r + 256 * Rec.nbar r) ++
    bytesLE 4 (blockX g lin) ++ bytesLE 4 (blockY g lin) ++ bytesLE 4 (blockZ g lin) ++ bytesLE 4 (lin % Rec.clus r) ++
    bytesLE 4 (lin / Rec.clus r) ++ bytesLE 4 b.portion ++ bytesLE 8 (seqPc b) ++ bytesLE 8 0 ++ bytesLE 4 (Rec.scrb r) ++
    bytesLE 4 (Rec.nthr r))

def blockRecord (g : Grid) (b : Block) : List Byte :=
  let r := g.record
  pad128 (blockHeader g b ++
    (if Rec.mstr r then (List.range 64).flatMap (fun n => bytesLE 8 (tget 0 b.m n).toNat) else []) ++
    (List.range 16).flatMap (fun n => if n < Rec.nbar r then barBytes (b.bar n) else List.replicate 16 0) ++
    (List.range (32 * Rec.nacc r)).flatMap (fun n => bytesLE 128 (tget 0 b.acc n).toNat) ++
    (List.range (scratchLines r)).flatMap (fun n => bytesLE 128 (b.sline n).toNat ++ bytesLE 8 (b.sside n).toNat))

/-- A block record followed by its warp records (R37). -/
def wholeRecord (g : Grid) (b : Block) : List Byte :=
  blockRecord g b ++ (b.warps.zip (List.range b.warps.length)).flatMap (fun p => warpRecord g.record p.1 p.2)

/-- The cluster indices of a list of blocks, ascending. -/
def clustersOf (g : Grid) (ls : List Nat) : List Nat := dedup (sortNats (ls.map (clusterOf g)))

/-- Offset of the first block record. -/
def blkOff (ncl : Nat) : Nat := up128 (0x100 + 32 * ncl)

def saveHeader (g : Grid) (status : Nat) (ls : List Nat) (elapsed : Nat) : List Byte :=
  let n := ls.length
  let cl := (clustersOf g ls).length
  padTo 256 (bytesLE 4 3 ++ bytesLE 4 status ++ bytesLE 4 g.id.toNat ++ bytesLE 4 0 ++ bytesLE 8 n ++
    bytesLE 8 (blkOff cl + n * wholeSize g.record) ++ bytesLE 8 0x100 ++ bytesLE 4 cl ++ bytesLE 4 0 ++ bytesLE 8 (blkOff cl) ++
    bytesLE 8 elapsed ++ (List.range 4).flatMap (fun d => cbarBytes (g.dbar d)))

def clusterEntry (g : Grid) (c : Nat) : List Byte := padTo 16 (bytesLE 4 c) ++ cbarBytes (g.cbar c)

/-! ### The pre-emption command (R278, R362, R363) -/

def State.setFront (s : State) (f : FrontEnd → FrontEnd) : State := { s with front := f s.front }
def State.setCres (s : State) (n : Nat) : State := s.setFront (fun f => { f with cres := BitVec.ofNat 3 n })

/-- CMDCSA is aligned and in HBM4E. -/
def csaOk (a : DWord) : Bool := a.toNat % 4096 == 0 && tierOf a.toNat == some 0

/-- Every warp of a grid counts its instructions from the command on (R43). -/
def State.restartCount (s : State) (g : BitVec 32) : State :=
  s.mapWarps (fun b => b.id.grid == g) (fun x => { x with sinceCmd := 0 })

def State.preemptCmd (s : State) : State :=
  let f := s.front
  if f.cbusy then s.setCres 1
  else match s.grid? f.cmdgrid with
    | none => s.setCres 2
    | some g =>
      if !csaOk f.cmdcsa then s.setCres 3
      else if g.state = .saved then s.setCres 4
      else
        let s1 := (s.devBytes none f.cmdcsa.toNat (bytesLE 4 3 ++ bytesLE 4 0 ++ bytesLE 4 g.id.toNat ++ bytesLE 4 0)).restartCount g.id
        s1.setFront (fun f => { f with cres := 0, cbusy := true,
                                       job := some { grid := g.id, csa := f.cmdcsa, startNs := s.now, deadline := f.cmddl.toNat } })

def execGridPreempt (s : State) : Out := .next (s.served s.preemptCmd)

/-- A warp that stops at once: asleep, held at a barrier, or suspended (R278). -/
def Warp.atOnce (x : Warp) : Bool :=
  x.sleep != 0 || x.susp.isSome || (match x.wait with
    | some (.path _ _) => false
    | some _ => true
    | none => false)

/-- A warp held at a second arrival in the current phase (R223, R225): its word is an arrival on a barrier that its bit
is already set for. -/
def State.secondArrival (s : State) (w : WarpId) : Bool :=
  match s.warp? w, s.grid? w.grid with
  | some (b, x), some g =>
    let c : Ctx := ⟨s, w, b, x, g, s.clkOf (dieOfCore b.core)⟩
    (match (fetched x.ibuf x.pc).map decodeWord with
     | some (.bar f) | some (.bara f) => bit (b.bar (c.uni32 f.a)).amask w.warp
     | some (.cbara _) => x.cArr
     | some (.dbara _) => x.dArr
     | _ => false)
  | _, _ => false

/-- A warp stops: its results are written and it issues no more. FORCED is set where that is no quiet point, and stays
set (R43, log 81). -/
def Warp.hold (x : Warp) : Warp := { x.flush with held := true, sleep := 0, forced := x.forced || !x.quiet, ibuf := none }

/-- The boundary the warp has reached takes no trap, and no POISON is pending that the stop would lose (R274). While its
wait holds, the warp has reached none. -/
def Warp.canStop (x : Warp) : Bool :=
  x.running && !x.held && x.frame.isEmpty && !x.poisonDue &&
    (x.due.isNone || x.susp.isSome || x.sleep != 0 || waitHolds x.win x.wait)

/-- R43, R278: a warp stops at a quiet point, or at once where R278 says so. -/
def execWarpQuietStop (s : State) : Out :=
  let w := s.on.w
  .next (match s.warp? w with
    | some (_, x) =>
      if s.stopping w.grid && x.canStop && (x.atOnce || s.secondArrival w || x.quiet) then s.setWarp w Warp.hold else s
    | none => s)

/-- R43, R364: after 64 further instructions, or at once while a retraining is active, a warp stops at the next
boundary. -/
def execWarpForcedStop (s : State) : Out :=
  let w := s.on.w
  .next (match s.warp? w with
    | some (_, x) =>
      if s.stopping w.grid && x.canStop && (decide (64 ≤ x.sinceCmd) || s.front.rstate == 2) then s.setWarp w Warp.hold else s
    | none => s)

/-- R259: a stream stops where no M result is uncovered or marked WO; a wait is left to be executed again. -/
def execSequencerStop (s : State) : Out :=
  let b := s.on.block
  .next (match s.seq? b with
    | some (k, q) =>
      if s.stopping b.grid && q.run.isNone && q.win.quiet && !q.held then
        s.setBlock b (fun x =>
          let r := flushM k.m q.win
          { x with m := r.1, seq := some { q with win := r.2, wait := none, held := true, ibuf := none } })
      else s
    | none => s)

/-! ### Saving (R44, R278, R280) -/

/-- A block has stopped and has nothing outstanding. A warp that has stopped under R275 is saved with its results written,
like any other; restored, it runs and meets its trap again (DESIGN CHOICE, log 109). -/
def State.drained (s : State) (b : Block) : Bool :=
  let clk := s.clkOf (dieOfCore b.core)
  b.warps.all (fun x => (x.held || x.terminated || x.stopped) && x.win.ops.isEmpty && x.spills.isEmpty) &&
  (match b.seq with
   | some q => (q.held || q.ended || q.stopped) && q.win.ops.isEmpty && !(q.busy.any (fun t => t.pending clk))
   | none => true) && s.engIdle b.id

/-- A phase whose time-out is over and whose flag is still to fall (R227). -/
def NBar.due (k : NBar) : Bool := k.begun && k.torem == 0 && !k.fallen
def CBar.due (k : CBar) : Bool := k.begun && k.torem == 0 && !k.fallen

/-- No flag of a barrier of the grid is about to fall. -/
def State.noFlagDue (s : State) (g : BitVec 32) : Bool :=
  s.blocks.all (fun b => b.id.grid != g || b.bars.all (fun k => !k.due)) &&
    (s.grid? g).all (fun x => x.cbars.all (fun p => !p.2.due) && x.dbars.all (fun k => !k.due))

/-- Every resident block of a grid is ready to be saved, and none of them ends instead. -/
def State.readyToSave (s : State) (g : BitVec 32) : Bool :=
  s.blocks.all (fun b => b.id.grid != g || (s.drained b && !(s.blockEnds b && (s.grid? g).all (fun gr => s.clusterAll gr b s.blockEnds)))) && s.noFlagDue g

/-- What a block's warps leave behind before the save: REDD entries drained as at a `.dev` release, dirty bytes written
back. -/
def State.settleBlock (s : State) (b : Block) : State :=
  b.warpIds.foldl (fun s w => (s.reddDrain w).releaseWb b.core w) s

/-- Every block of a grid so. -/
def State.settleGrid (s : State) (g : BitVec 32) : State :=
  (s.blocks.filter (fun b => b.id.grid == g)).foldl State.settleBlock s

/-- A record's bytes all lie in HBM4E. -/
def inHbmRange (pa n : Nat) : Bool := tierOf pa == some 0 && tierOf (pa + n - 1) == some 0

/-- A record written, or the fault that its write met. -/
def State.saveBytes (s : State) (pa : Nat) (bs : List Byte) : State :=
  if inHbmRange pa bs.length then s.devBytes none pa bs
  else s.setFront (fun f => { f with job := f.job.map (fun j => { j with failed := true }) })

/-- The blocks whose records a job writes: the resident ones once all have stopped. -/
def State.jobBlocks (s : State) (j : SaveJob) : List Nat :=
  j.blocks.getD (sortNats ((s.blocks.filter (fun b => b.id.grid == j.grid)).map (fun b => b.id.block)))

/-- A retraining that is active holds every record write (R364). -/
def State.savesHeld (s : State) : Bool := s.front.rstate == 2

/-- Where a job writes a block's records. -/
def State.recordAt (s : State) (j : SaveJob) (g : Grid) (b : Block) : Nat :=
  let ls := s.jobBlocks j
  j.csa.toNat + (blkOff (clustersOf g ls).length + (ls.takeWhile (fun n => n != b.id.block)).length * wholeSize g.record)

/-- R278: a block's records are written and its resources freed. -/
def State.saveBlock (s : State) (j : SaveJob) (g : Grid) (b : Block) : State :=
  let s1 := s.setFront (fun f => { f with job := some { j with blocks := some (s.jobBlocks j) } })
  let s2 := (s1.saveBytes (s.recordAt j g b) (wholeRecord g b)).freeBanks b
  let gone (w : Waiter) : Bool := match w with
    | .warp x => x.blockId == b.id
    | _ => false
  let s3 := s2.setFq (fun q => { q with
    pending := q.pending.map (fun r => if gone r.waiter then { r with waiter := .nobody } else r),
    waiting := q.waiting.filter (fun p => !gone p.2.waiter) })
  { s3 with blocks := s3.blocks.filter (fun x => x.id != b.id),
            grids := s3.grids.map (fun x => if x.id = g.id then
              { x with savedBlocks := x.savedBlocks ++ [(b.id.block, b.portion)] } else x) }

def execBlockSave (s : State) : Out :=
  .next (match s.front.job, s.block? s.on.block, s.grid? s.on.w.grid with
    | some j, some b, some g =>
      if s.rangeBusy (s.recordAt j g b) (wholeSize g.record) then s.rangeFill (s.recordAt j g b) (wholeSize g.record)
      else if s.stopping g.id && j.grid == g.id && s.readyToSave g.id && !s.savesHeld then
        -- A drain that spills is waited for first.
        let s1 := s.settleGrid g.id
        if s1.readyToSave g.id then s1.saveBlock j g b else s1
      else s
    | _, _, _ => s)

/-- R278, R280: with no block of the grid left the cluster table and the header are completed. -/
def execSaveComplete (s : State) : Out :=
  .next (match s.front.job with
    | some j => match s.grid? j.grid with
      | some g =>
        if s.blocks.any (fun b => b.id.grid == g.id) || s.savesHeld ||
            s.rangeBusy j.csa.toNat (blkOff (clustersOf g (j.blocks.getD [])).length) then s
        else
          let ls := j.blocks.getD []
          let elapsed := s.now - j.startNs
          let s1 := s.saveBytes (j.csa.toNat + 0x100) ((clustersOf g ls).flatMap (clusterEntry g))
          let bad := match s1.front.job with
            | some k => k.failed
            | none => false
          let st := if bad then 3 else if j.deadline = 0 ∨ elapsed ≤ j.deadline then 1 else 2
          let s2 := (s1.devBytes none j.csa.toNat (saveHeader g st ls elapsed)).setGrid g.id (fun x => { x with state := .saved })
          (s2.setFront (fun f => { f with job := none, cbusy := false })).settleQueue (gridQueue g.id)
      | none => s
    | none => s)

/-! ### The check of a save area (R283) -/

/-- The bytes of a save area, read at their homes. -/
structure Area where
  mem : List Host.Cell
  at_ : Nat
deriving DecidableEq, Repr

/-- `n` bytes from an offset. -/
def Area.nat (a : Area) (o n : Nat) : Nat := natLE ((List.range n).map (fun i => tget memInit a.mem (a.at_ + o + i)))
def Area.sub (a : Area) (o : Nat) : Area := { a with at_ := a.at_ + o }
/-- Bytes `[o, o+n)` are zero. -/
def Area.zero (a : Area) (o n : Nat) : Bool := (List.range n).all (fun i => tget memInit a.mem (a.at_ + o + i) == 0)

/-- Reserved fields of a numbered barrier state, and of a cluster or die one. -/
def Area.barRsv (a : Area) : Bool :=
  let w := a.nat 0 4
  field w 6 2 == 0 && field w 14 2 == 0 && field w 20 12 == 0 && a.nat 0xC 4 == 0
def Area.cbarRsv (a : Area) : Bool := field (a.nat 4 4) 2 30 == 0 && a.nat 0xC 4 == 0

/-- Reserved bits of a warp record, those inside FPST, MODE and TCAUSE among them (DEDUCED, log 78). -/
def Area.warpRsv (a : Area) (r : VReg) : Bool :=
  let nS := Rec.nS r
  field (a.nat 0 4) 21 11 == 0 && field (a.nat 4 4) 6 2 == 0 && field (a.nat 4 4) 14 18 == 0 && field (a.nat 0x10 8) 42 22 == 0 &&
  field (a.nat 0x18 8) 5 59 == 0 && BitVec.ofNat 32 (a.nat 0xA0 4) &&& ~~~((specMask .fpst).setWidth 32) == 0 &&
  field (a.nat 0xA4 4) 1 31 == 0 && field (a.nat 0xA8 4) 16 16 == 0 && field (a.nat 0xAC 4) 4 4 == 0 && field (a.nat 0xAC 4) 12 20 == 0 && a.zero 0xE0 32 &&
  a.zero (256 + 4 * nS + 56) 72 && a.zero (384 + 4 * nS + 136 * Rec.nV r) (warpSize r - (384 + 4 * nS + 136 * Rec.nV r)) &&
  (List.range 16).all (fun i => decide (i < a.nat 0x18 8 % 32) || a.nat (0x20 + 8 * i) 8 == 0)

def Area.blockRsv (a : Area) (r : VReg) : Bool :=
  field (a.nat 0 4) 21 3 == 0 && field (a.nat 0 4) 25 7 == 0 && field (a.nat 4 4) 7 1 == 0 && field (a.nat 4 4) 13 19 == 0 &&
  field (a.nat 0x14 4) 3 29 == 0 && field (a.nat 0x1C 4) 2 30 == 0 && field (a.nat 0x34 4) 11 21 == 0 && a.zero 0x38 200 &&
  (List.range 16).all (fun n => (a.sub (256 + (if Rec.mstr r then 512 else 0) + 16 * n)).barRsv) &&
  a.zero (blockHead r + 136 * scratchLines r) (blockSize r - (blockHead r + 136 * scratchLines r))

def Area.headRsv (a : Area) : Bool :=
  field (a.nat 0 4) 16 16 == 0 && field (a.nat 4 4) 2 30 == 0 && field (a.nat 0xC 4) 8 24 == 0 && a.nat 0x2C 4 == 0 &&
  (List.range 4).all (fun d => (a.sub (0x40 + 16 * d)).cbarRsv) && a.zero 0x80 128

/-- RO fields of a warp record, and its illegal values (RSTAT 0x04). -/
def Area.warpRo (a : Area) (r : VReg) (i : Nat) : Bool :=
  a.nat 0 4 == 1 + 65536 * i && a.nat 4 4 == Rec.nV r / 8 + 256 * (Rec.nS r / 32) && a.nat 0x10 8 == 0 &&
  a.nat (256 + 4 * Rec.nS r + 52) 4 == (helperLanes (Rec.nthr r) i).toNat
def Area.warpLegal (a : Area) : Bool :=
  let d := a.nat 0x18 8
  legalPc (BitVec.ofNat 64 (a.nat 8 8)) && decide (d ≤ 16) &&
    (List.range 16).all (fun i => decide (d ≤ i) || legalPc (BitVec.ofNat 64 (a.nat (0x20 + 8 * i) 8)))

/-- SEQP of the declared barriers is the launch record's, or 0 throughout once the stream has left them (log 80). -/
def Area.seqpRo (a : Area) (r : VReg) : Bool :=
  let bar (n : Nat) : Nat := a.nat (256 + (if Rec.mstr r then 512 else 0) + 16 * n) 4
  let ns := (List.range 16).filter (fun n => decide (n < Rec.nbar r))
  ns.all (fun n => pteBit (bar n) 18 == seqParty r n) || (Rec.mstr r && ns.all (fun n => !(pteBit (bar n) 18)))

/-- RO fields of block `lin` of portion `p`. -/
def Area.blockRo (a : Area) (g : Grid) (lin p : Nat) : Bool :=
  let b : Block := { id := ⟨g.id, lin⟩, core := 0, q0 := 0, portion := p, warps := [] }
  let h := blockHeader g b
  let eq (o n : Nat) : Bool := a.nat o n == natLE ((h.drop o).take n)
  eq 0 0x20 && eq 0x28 0x10 && (Rec.mstr g.record || a.nat 0x20 8 == 0) && a.seqpRo g.record &&
  (List.range 16).all (fun n => decide (n < Rec.nbar g.record) ||
    a.zero (256 + (if Rec.mstr g.record then 512 else 0) + 16 * n) 16)
def Area.blockLegal (a : Area) (r : VReg) : Bool := !Rec.mstr r || legalPc (BitVec.ofNat 64 (a.nat 0x20 8))

/-- The saved blocks of a grid in ascending order. -/
def Grid.savedList (g : Grid) : List (Nat × Nat) :=
  (sortNats (g.savedBlocks.map Prod.fst)).map (fun n => (n, ((g.savedBlocks.find? (fun p => p.1 == n)).map Prod.snd).getD 0))

/-- Each saved block with its record. -/
def Area.records (a : Area) (g : Grid) : List ((Nat × Nat) × Area) :=
  let ls := g.savedList
  let o := blkOff (clustersOf g (ls.map Prod.fst)).length
  ls.zip ((List.range ls.length).map (fun i => a.sub (o + i * wholeSize g.record)))

def Area.warpRecs (a : Area) (r : VReg) : List (Nat × Area) :=
  (List.range (Rec.nwarps r)).map (fun i => (i, a.sub (blockSize r + i * warpSize r)))

def Area.allWarps (a : Area) (g : Grid) (p : Nat → Area → Bool) : Bool :=
  (a.records g).all (fun b => (b.2.warpRecs g.record).all (fun w => p w.1 w.2))

/-- The RO fields of the header and the cluster table. -/
def Area.headRo (a : Area) (g : Grid) : Bool :=
  let ls := g.savedList.map Prod.fst
  let h := saveHeader g 0 ls 0
  let eq (o n : Nat) : Bool := a.nat o n == natLE ((h.drop o).take n)
  eq 0 4 && eq 8 4 && eq 0x10 0x20 && eq 0x30 8 &&
  ((clustersOf g ls).zip (List.range (clustersOf g ls).length)).all (fun p => a.nat (0x100 + 32 * p.2) 4 == p.1)

def Area.tableRsv (a : Area) (g : Grid) : Bool :=
  (List.range (clustersOf g (g.savedList.map Prod.fst)).length).all (fun i =>
    a.zero (0x104 + 32 * i) 12 && (a.sub (0x110 + 32 * i)).cbarRsv)

/-- RSTAT of a check, before the reservations. -/
def Area.check (a : Area) (g : Grid) : Byte :=
  let st := a.nat 4 4 % 4
  if st ≠ 1 ∧ st ≠ 2 then 0x01
  else if !(a.headRsv && a.tableRsv g && (a.records g).all (fun b => b.2.blockRsv g.record) && a.allWarps g (fun _ w => w.warpRsv g.record)) then 0x02
  else if !(a.headRo g && (a.records g).all (fun b => b.2.blockRo g b.1.1 b.1.2) && a.allWarps g (fun i w => w.warpRo g.record i)) then 0x03
  else if !((a.records g).all (fun b => b.2.blockLegal g.record) && a.allWarps g (fun _ w => w.warpLegal)) then 0x04
  else 0x00

/-! ### Loading (R45, R282) -/

/-- A table of `n` entries, entry `i` being `f i`; default entries are not listed. -/
def tableOf {α : Type} [DecidableEq α] (d : α) (n : Nat) (f : Nat → α) : List (Nat × α) :=
  (List.range n).foldl (fun t i => tset d i (f i) t) []

def Area.bar (a : Area) : NBar :=
  let w := a.nat 0 4
  { exp := field w 0 6, arr := field w 8 6, phase := field w 16 1 == 1, fallen := field w 17 1 == 1, seqp := field w 18 1 == 1,
    seqa := field w 19 1 == 1, amask := BitVec.ofNat 32 (a.nat 4 4), torem := a.nat 8 4,
    begun := field w 8 6 != 0 || field w 17 1 == 1 || a.nat 8 4 != 0 }

def Area.cbar (a : Area) : CBar :=
  { exp := a.nat 0 2, arr := a.nat 2 2, phase := a.nat 4 4 % 2 == 1, fallen := a.nat 4 4 / 2 % 2 == 1, torem := a.nat 8 4,
    begun := a.nat 2 2 != 0 || a.nat 4 4 / 2 % 2 == 1 || a.nat 8 4 != 0 }

/-- A warp of a record, on the slot that a placement gave it; `phase` gives the saved phase of each barrier. -/
def Area.warp (a : Area) (r : VReg) (slot : Nat) (phase : Nat → Bool) : Warp :=
  let nS := Rec.nS r
  let nV := Rec.nV r
  let d (o : Nat) : DWord := BitVec.ofNat 64 (a.nat o 8)
  let fl := a.nat 0xAC 4
  let bw := field fl 8 4
  let x : Warp :=
    { pc := d 8, retired := BitVec.ofNat 32 (a.nat (304 + 4 * nS) 4), helper := BitVec.ofNat 32 (a.nat (308 + 4 * nS) 4),
      slot := slot, nest := BitVec.ofNat 128 (a.nat (288 + 4 * nS) 16),
      s := tableOf 0 nS (fun i => BitVec.ofNat 32 (a.nat (256 + 4 * i) 4)),
      k := tableOf 0 8 (fun i => BitVec.ofNat 32 (a.nat (256 + 4 * nS + 4 * i) 4)),
      v := tableOf 0 nV (fun i => BitVec.ofNat 1024 (a.nat (384 + 4 * nS + 128 * i) 128)),
      e := tableOf eInit nV (fun i => BitVec.ofNat 64 (a.nat (384 + 4 * nS + 128 * nV + 8 * i) 8)),
      stack := (List.range (a.nat 0x18 8)).map (fun i => d (0x20 + 8 * i)),
      fpst := BitVec.ofNat 32 (a.nat 0xA0 4) &&& (specMask .fpst).setWidth 32,
      mode := BitVec.ofNat 32 (a.nat 0xA4 4) &&& 1,
      trapcause := BitVec.ofNat 32 (a.nat 0xA8 4) &&& 0xFFFF, trappc := d 0xB0, trapaddr := d 0xB8,
      key := BitVec.ofNat 128 (a.nat 0xC0 16), ctr := BitVec.ofNat 128 (a.nat 0xD0 16),
      inTrap := fl % 2 == 1, forced := fl / 4 % 2 == 1,
      wait := if fl / 8 % 2 = 1 then some (.numbered bw (phase bw)) else none }
  if x.realLeft then x else { x with terminated := true, freed := true }

/-- A placed block with the content of its records. -/
def Area.load (a : Area) (r : VReg) (b : Block) : Block :=
  let o := 256 + (if Rec.mstr r then 512 else 0)
  let bars := (List.range 16).map (fun n => (a.sub (o + 16 * n)).bar)
  let phase (n : Nat) : Bool := ((bars[n]?).map (fun k => k.phase)).getD false
  { b with
    bars := bars,
    m := if Rec.mstr r then tableOf 0 64 (fun n => BitVec.ofNat 64 (a.nat (256 + 8 * n) 8)) else [],
    acc := tableOf 0 (32 * Rec.nacc r) (fun n => BitVec.ofNat 1024 (a.nat (o + 256 + 128 * n) 128)),
    scratch := tableOf scratchInit (128 * scratchLines r) (fun i => BitVec.ofNat 8 (a.nat (blockHead r + 136 * (i / 128) + i % 128) 1)),
    scratchSide := tableOf sideInit (8 * scratchLines r) (fun i => BitVec.ofNat 8 (a.nat (blockHead r + 136 * (i / 8) + 128 + i % 8) 1)),
    seq := b.seq.map (fun q => { q with pc := BitVec.ofNat 64 (a.nat 0x20 8) }),
    warps := ((a.warpRecs r).zip b.warps).map (fun p => p.1.2.warp r p.2.slot phase) }

/-- A block whose reservations a restore holds: nothing of it runs yet. -/
def Block.freeze (b : Block) : Block :=
  { b with frozen := true, warps := b.warps.map (fun x => { x with held := true }), seq := b.seq.map (fun q => { q with held := true }) }

def Block.thaw (b : Block) : Block :=
  { b with frozen := false, warps := b.warps.map (fun x => { x with held := false }), seq := b.seq.map (fun q => { q with held := false }) }

/-- The reservations of saved blocks granted, with their contents, one after another; blocks of one cluster on distinct
cores of their portion's die. -/
def State.restoreBlocks (s : State) (g : Grid) : List ((Nat × Nat) × Area) → List (Nat × Nat) → Option State
  | [], _ => some s
  | ((lin, p), a) :: rest, used =>
    let cl := clusterOf g lin
    let excl := (used.filter (fun u => u.1 == cl)).map Prod.snd
    match s.placeOn g lin ((g.diesOf[p]?).getD 0) excl with
    | none => none
    | some (t, c) => (t.setBlock ⟨g.id, lin⟩ (fun b => (a.load g.record b).freeze)).restoreBlocks g rest ((cl, c) :: used)

/-- RSTAT of the header. -/
def State.setRstat (s : State) (csa : DWord) (st : Byte) : State := s.devBytes none (csa.toNat + 0xC) [st]

/-- The grid's barriers from its save area. -/
def Area.grid (a : Area) (g : Grid) : Grid :=
  let cl := clustersOf g (g.savedList.map Prod.fst)
  { g with savedBlocks := [], dbars := (List.range 4).map (fun d => (a.sub (0x40 + 16 * d)).cbar),
           cbars := (cl.zip (List.range cl.length)).foldl (fun t p => tset {} p.1 (a.sub (0x110 + 32 * p.2)).cbar t) g.cbars }

/-- The bytes of a save area of `n` bytes, as their homes return them. -/
def State.areaAt (s : State) (pa n : Nat) : Area :=
  { mem := (List.range ((n + 127) / 128)).foldl (fun m i =>
      let l := pa / 128 + i
      if s.poisoned l || (s.awayLoc l).isSome then putLine m l (s.homeRead l).1 (BitVec.allOnes 128) else m) s.mem,
    at_ := pa }

/-- Bytes of a grid's save area. -/
def areaSize (g : Grid) : Nat :=
  blkOff (clustersOf g (g.savedList.map Prod.fst)).length + g.savedList.length * wholeSize g.record

/-- The restore command (R362, R363): a restore of the grid begins. -/
def State.restoreCmd (s : State) : State :=
  let f := s.front
  if f.cbusy then s.setCres 1
  else match s.grid? f.cmdgrid with
    | none => s.setCres 2
    | some g =>
      if !csaOk f.cmdcsa then s.setCres 3
      else if g.state ≠ .saved then s.setCres 4
      else s.setFront (fun f => { f with cres := 0, cbusy := true, restore := some { grid := g.id, csa := f.cmdcsa } })

def execGridRestore (s : State) : Out := .next (s.served s.restoreCmd)

/-- No restore is in progress any more. -/
def State.restoreOver (s : State) : State := s.setFront (fun f => { f with restore := none, cbusy := false })

/-- A restore before any block is placed (R283): the area is checked whole, then every reservation is granted or none, and
RSTAT is written. -/
def State.restoreCheck (s : State) (g : Grid) (j : RestoreJob) : State :=
  if s.rangeBusy j.csa.toNat (areaSize g) then s.rangeFill j.csa.toNat (areaSize g)
  else
    let a := s.areaAt j.csa.toNat (areaSize g)
    let c := a.check g
    if c ≠ 0 then (s.setRstat j.csa c).restoreOver
    else match s.restoreBlocks g (a.records g) [] with
      | none => (s.setRstat j.csa 0x05).restoreOver
      | some t => ((t.setGrid g.id (fun x => a.grid x)).setRstat j.csa 0x00).setFront (fun f =>
          { f with restore := some { j with granted := true } })

/-- A block of a restore is placed on its core: what the core's L1 and coalescer hold is no part of its context (R44). -/
def State.thawBlock (s : State) (b : Block) : State :=
  (s.setCore b.core (fun k => { cleanL1 k with miss := k.miss.filter (fun m => m.fill.isSome) })).setBlock b.id Block.thaw

/-- The next blocks of a restore are placed: a cluster, or the whole of a cooperative grid. After the last one the grid runs
and its queue is in QSTATE 5 (R283, R363). -/
def State.restorePlace (s : State) (g : Grid) : State :=
  let ls := s.blocks.filter (fun b => b.id.grid == g.id && b.frozen)
  let first := (sortNats (ls.map (fun b => b.id.block))).head?.getD 0
  let s1 := (ls.filter (fun b => Rec.coop g.record || clusterOf g b.id.block == clusterOf g first)).foldl State.thawBlock s
  if s1.blocks.any (fun b => b.id.grid == g.id && b.frozen) then s1
  else (s1.setGrid g.id (fun x => { x with state := .running })).restoreOver.setQueue (gridQueue g.id) (fun q => { q with qstate := 5 })

/-- R357, R283: the front end places a grid's next blocks, new ones or those of a restore. -/
def execBlockPlace (s : State) : Out :=
  .next (match s.grid? s.on.w.grid with
    | none => s
    | some g => match s.front.restore with
      | some j => if j.grid ≠ g.id then s.placeBlocks g else if j.granted then s.restorePlace g else s.restoreCheck g j
      | none => s.placeBlocks g)

end Sys2Proof.Machine
end

