-- ==== Sys2Proof/Machine/Coherence.lean ====
section
/-! DEFINITION. Lines on their way: fills from memory (R334, R341, R390), the application of stamped writes (R299), the
fetch of lines from their home die (R300), the host's CXL accesses (R304), and the memory channels that a refresh
(R340) or a retraining (R364, R436, R437) holds. -/

namespace Sys2Proof.Machine

/-! ### Channels (R340, R436) -/

/-- Stack and pseudo-channel at place `i` of the 160 that die `d` serves, with position `f` hidden. -/
def pseudoOf (f d i : Nat) : Nat × Nat :=
  let gap (k : Nat) : Nat := (f + k) % 5
  let from_ (l : List (Nat × Nat × Nat)) : Nat × Nat :=
    -- Runs of pseudo-channels: stack, first, count.
    ((l.foldl (fun (a : Nat × Option (Nat × Nat)) r =>
      match a.2 with
      | some _ => a
      | none => if a.1 < r.2.2 then (a.1, some (r.1, r.2.1 + a.1)) else (a.1 - r.2.2, none)) (i, none)).2).getD (0, 0)
  match d with
  | 0 => from_ [(2 * gap 0, 0, 64), (2 * gap 0 + 1, 0, 64), (2 * gap 1, 0, 32)]
  | 1 => from_ [(2 * gap 1, 32, 32), (2 * gap 1 + 1, 0, 64), (2 * gap 2, 0, 64)]
  | 2 => from_ [(2 * gap 2 + 1, 0, 64), (2 * gap 3, 0, 64), (2 * gap 3 + 1, 0, 32)]
  | _ => from_ [(2 * gap 3 + 1, 32, 32), (2 * gap 4, 0, 64), (2 * gap 4 + 1, 0, 64)]

/-- The channel that a line's memory lies behind; CXL-attached memory has none. -/
def State.channelOf (s : State) (line : Nat) : Option Channel :=
  match tierOf (128 * line) with
  | some 0 =>
    let p := pseudoOf s.hub.hidden.toNat (homeDie line) (Config.hbmPlace line % 160)
    some (.hbm (BitVec.ofNat 4 p.1) (BitVec.ofNat 6 p.2))
  | some 1 => some (.lpddr (Config.lpddrPlace line))
  | _ => none

/-- A refresh or a retraining holds the channel. -/
def State.channelHeld (s : State) (c : Channel) : Bool :=
  s.holds.any (fun p => p.1 == c && decide (s.now < p.2)) ||
  (match c, s.front.rhold with
   | .hbm k _, some (st, _, _) => s.front.rstate == 2 && k.toNat == st
   | _, _ => false)

/-- R340: a refresh holds its pseudo-channel or channel for 120 ns. -/
def execMemoryRefresh (ch : Channel) (s : State) : Out :=
  .next { s with holds := s.holds.filter (fun p => decide (s.now < p.2) && p.1 != ch) ++ [(ch, s.now + 120)] }

/-! ### Fills (R334, R341, R390) -/

/-- The line of this device that a fill of a line reads: its current location (R383). -/
def State.currentLine (s : State) (line : Nat) : Option Nat :=
  match s.awayLoc line with
  | none => some line
  | some (.mem b) => some (b / 128)
  | some _ => none

/-- Index of the 64-KiB frame at a line, where it is counted (R390). -/
def State.frameOf (s : State) (line : Nat) : Option Nat :=
  let pa := 128 * line
  match tierOf pa with
  | some 0 => some (pa / 65536)
  | some 1 => some (9765625 + (pa - 0x010000000000) / 65536)
  | some _ =>
    if pa < 0x600000000000 then
      (if (pa - 0x400000000000) / 65536 < s.castle.hcxl0.toNat then some (25390625 + (pa - 0x400000000000) / 65536) else none)
    else if (pa - 0x600000000000) / 65536 < s.castle.hcxl1.toNat then
      some (25390625 + s.castle.hcxl0.toNat + (pa - 0x600000000000) / 65536)
    else none
  | none => none

/-- A fill caused by die `d` counts in its frame; none while the table is absent. -/
def State.countHot (s : State) (line d : Nat) : State :=
  if s.castle.hotbase = 0 then s
  else match (s.currentLine line).bind s.frameOf with
    | some f => { s with castle := { s.castle with
        hot := tset 0 (4 * f + d) (min (tget 0 s.castle.hot (4 * f + d) + 1) 0xFFFF) s.castle.hot } }
    | none => s

/-- A line set as its memory holds it: data, sidecar and poison. As a write of the line's bytes it ends the TLB entries
whose leaf lies there (R373). -/
def State.setLine (s : State) (line : Nat) (r : VReg × EReg × Bool) : State :=
  let s1 := { s with mem := putLine s.mem line r.1 (BitVec.allOnes 128), side := putSide s.side line r.2.1 0xFF,
                     poison := s.poison.filter (fun l => l != line) }
  let s2 := s1.tlbDrop line
  if r.2.2 then s2.addPoison line else s2

/-- What a fill brings from a peer: the line, once the request that this sends has been answered; a request that ends in
error brings a poisoned line (R386, R403). -/
def State.peerFill (s : State) (line dev pa : Nat) : State × Option (VReg × EReg × Bool) :=
  match s.outOf (.fill line) with
  | [] => (s.peerSend (.fill line) (hashDie line) dev (pa / 128) (.read (pa / 128) 3 true), none)
  | o :: _ => match o.answer with
    | none => (s, none)
    | some (st, data, side) => (s.dropOut (.fill line), some (if st = .ok then (data, side, false) else (0, eInit, true)))

/-- A fill of a line of die `die`: the memory at the line's current location is read, under the bytes that the motion
home holds newer. `none` while a peer has not answered. -/
def State.fillRead (s : State) (line : Nat) : State × Option (VReg × EReg × Bool) :=
  match s.awayLoc line with
  | some (.peer dev pa) =>
    let p := s.peerFill line dev pa
    (p.1, p.2.map (p.1.underNewer line))
  | _ => (s, some (s.homeRead line))

/-- R341: a fill lands in its home slice, unless a hold or a parked die keeps it (R340, R442). Loads and prefetches that
wait for the line find it there. -/
def execL2FillLand (die line : Nat) (s : State) : Out :=
  .next (match (s.die die).fills.find? (fun f => f.1 == line) with
    | none => s
    | some f =>
      let held := match ((s.currentLine line).bind s.channelOf) with
        | some c => s.channelHeld c
        | none => false
      if held || s.parked? line then s
      else
        let p := s.fillRead line
        match p.2 with
        | none => p.1
        | some r =>
          let s1 := p.1.setDie die (fun x => { x with fills := x.fills.filter (fun g => g.1 != line) })
          let s2 := if (s1.awayLoc line).isSome then s1.setLine line r else s1
          let s3 := if homeDie line = 4 then s2.noteMoved line (BitVec.allOnes 128) 0xFF
            else s2.l2Put die line (BitVec.allOnes 128) 0xFF f.2.2
          (s3.landPrefs line).countHot line f.2.1)

/-! ### Between dies (R299, R300) -/

/-- R299: the write at place `n` of the list is applied once its stamp allows it. A copy lock holds it at the home
(R385); the locks of a completion, which waits for it, do not. -/
def execCrossDieWriteApply (s : State) : Out :=
  .next (match s.msgs[s.on.n]? with
    | none => s
    | some m =>
      let home := homeDie m.line == m.dst
      if (home && s.copyLocked m.line) || (home && m.put.isSome && s.parked? m.line) then s
      else match s.applyMsg m with
        | some s1 => { s1 with msgs := s1.msgs.eraseIdx s.on.n }
        | none => s)

/-- The home can return the line to a fetch: it has applied the writes that the fetch waits for (R302, log 77). -/
def State.homeServes (s : State) (f : Fetch) : Bool :=
  let h := homeDie f.line
  reached (s.clockOf h) f.want && (h == 4 || s.l2Holds f.line (BitVec.allOnes 128) true) && !(s.locked f.line) && !(s.atPeer f.line)

/-- R300: the fetch at place `n` of the list is read at the home, then installed once the die's clock allows it. -/
def execRemoteLineFetch (s : State) : Out :=
  .next (match s.fetches[s.on.n]? with
    | none => s
    | some f =>
      match f.got with
      | none =>
        if s.lost f.line then { s with fetches := s.fetches.eraseIdx s.on.n }
        else if !(s.homeServes f) then s.homeFill f.line f.die f.cp
        else
          let r := s.homeRead f.line
          let s1 := if homeDie f.line = 4 then s.countHot f.line f.die else s
          { s1 with fetches := s1.fetches.modify s.on.n (fun f => { f with got := some (r.1, r.2.1, s.clockOf (homeDie f.line)) }) }
      | some (data, side, t) =>
        if !(reached (s.die f.die).vclk t) then s
        else
          let s1 := s.setDie f.die (fun x => { x with copies := installCopy x.copies f.line data side })
          (({ s1 with fetches := s1.fetches.eraseIdx s.on.n }).l2Put f.die f.line (BitVec.allOnes 128) 0xFF f.cp).landPrefs f.line)

/-! ### The host (R304) -/

/-- The host's caches keep a line of device memory that it has read (R304). -/
def State.hostKeep (s : State) (line : Nat) (data : VReg) : State :=
  if homed line then { s with hostCache := (line, data) :: s.hostCache.filter (fun p => p.1 != line) } else s

/-- The host's caches give up a line. -/
def State.hostDrop (s : State) (line : Nat) : State := { s with hostCache := s.hostCache.filter (fun p => p.1 != line) }

/-- R304, R444: a hub that recovers offers no CXL.mem. Otherwise a host write is applied at the line's home as a write of
the home die. -/
def execHostCxlWrite (line : Nat) (data : VReg) (mask : BitVec 128) (s : State) : Out :=
  if (tierOf (128 * line)).isNone then .fault (.noSuchAddress (128 * line))
  else .next (if s.hub.bootst = 4 || s.locked line || s.parked? line then s
    else (s.devWrite none line { data := data, mask := mask }).hostDrop line)

/-- R304, R444: a host read returns the line as the host's caches hold it, else as its home has it. -/
def execHostCxlRead (line : Nat) (s : State) : Out :=
  if (tierOf (128 * line)).isNone then .fault (.noSuchAddress (128 * line))
  else .next (match s.hostCache.find? (fun p => p.1 == line) with
    | some p => { s with hostRead := some (line, p.2) }
    | none =>
      if s.hub.bootst = 4 || s.locked line || s.parked? line then s
      else if s.atPeer line then s.homeFill line 0
      else
        let r := s.homeRead line
        ({ s with hostRead := some (line, r.1) }).hostKeep line r.1)

/-! ### Retraining (R364) -/

/-- RCMD 1. -/
def State.retrainRequest (s : State) : State :=
  if s.front.rstate = 1 ∨ s.front.rstate = 2 ∨ 10 ≤ s.front.rstack.toNat ∨ 4 ≤ s.front.rrate.toNat then
    s.setFront (fun f => { f with rref := true })
  else s.setFront (fun f => { f with rstate := 1, rcan := false, rref := false, rhold := some (f.rstack.toNat, f.rrate, 0) })

/-- RCMD 2. -/
def State.retrainCancel (s : State) : State :=
  if s.front.rstate = 1 then s.setFront (fun f => { f with rstate := 0, rcan := true, rref := false, rhold := none })
  else s.setFront (fun f => { f with rref := true })

def execRetrainRequest (s : State) : Out := .next (s.served s.retrainRequest)
def execRetrainCancel (s : State) : Out := .next (s.served s.retrainCancel)

/-- R364: a pending request becomes active once no save or restore is in progress. -/
def execRetrainActivate (s : State) : Out :=
  .next (if s.front.rstate = 1 ∧ s.front.cbusy = false then
    s.setFront (fun f => { f with rstate := 2, rhold := f.rhold.map (fun h => (h.1, h.2.1, s.now)) }) else s)

/-- R364: after 38 µs the stack runs at its new rate. -/
def execRetrainDone (s : State) : Out :=
  .next (match s.front.rhold with
    | some (st, rate, t) =>
      if s.front.rstate = 2 ∧ t + 38000 ≤ s.now then
        s.setFront (fun f => { f with rstate := 3, rhold := none, rates := f.rates.set st rate })
      else s
    | none => s)

end Sys2Proof.Machine
end

