-- ==== Sys2Proof/Machine/Castle.lean ====
section
/-! DEFINITION. The Castle engine: moves of pages with their locks, completion and abort (R380-R387), events (R388), the
hotness table (R390), and the checkpoint (R392, R393). -/

namespace Sys2Proof.Machine

def State.setCastle (s : State) (f : Castle → Castle) : State := { s with castle := f s.castle }

/-- Changes the move at place `i`. -/
def State.setMove (s : State) (i : Nat) (f : Move → Move) : State :=
  s.setCastle (fun c => { c with moves := c.moves.modify i f })

def State.csres (s : State) (n : Nat) : State := s.setCastle (fun c => { c with csres := BitVec.ofNat 4 n })

/-! ### Events (R388) -/

/-- A full ring holds the engine: an event other than a hint waits for space. -/
def Castle.ringHeld (c : Castle) : Bool := !c.hasRoom && c.events.any (fun e => !e.isHint)

/-- The 32 bytes of an event with its number. -/
def CastleEvent.toBytes (e : CastleEvent) (n : Word) : List Byte :=
  bytesLE 4 (e.kind.toNat + 256 * e.reason.toNat + 65536 * e.tier.toNat) ++ bytesLE 4 n.toNat ++ bytesLE 8 e.addr.toNat ++
    bytesLE 4 e.lback ++ bytesLE 4 e.lpois ++ bytesLE 8 e.time.toNat

/-! ### The page of a move -/

/-- The source is on this device. -/
def Move.localSrc (m : Move) : Bool :=
  match m.src with
  | .mem _ => true
  | _ => false
/-- The place lies at the key address of a moving page, where its accesses are performed (R383). -/
def Move.inPage (m : Move) : Loc → Bool
  | .mem pa => m.inKey (pa / 128)
  | _ => false

/-- Every line is at the destination. -/
def Move.allMoved (m : Move) : Bool := m.chunk == m.size / 65536 - 1 && m.moved == BitVec.allOnes 512

/-- The next line to copy: the lowest of the chunk that has not moved. -/
def Move.nextLine (m : Move) : Option Nat := ((List.range 512).find? (fun i => !(bit m.moved i))).map (fun i => 512 * m.chunk + i)

/-- One more line is at the destination. -/
def Move.mark (m : Move) (i : Nat) : Move :=
  let mv := m.moved ||| ((1 : BitVec 512) <<< (i % 512))
  let m1 := { m with lock := none, wb := m.wb.filter (fun p => p.1 != i) }
  if mv = BitVec.allOnes 512 ∧ m.chunk + 1 < m.size / 65536 then { m1 with chunk := m.chunk + 1, moved := 0 }
  else { m1 with moved := mv }

/-- The highest line at the destination. -/
def Move.lastMoved (m : Move) : Option Nat :=
  match (List.range 512).reverse.find? (fun i => bit m.moved i) with
  | some i => some (512 * m.chunk + i)
  | none => if m.chunk = 0 then none else some (512 * m.chunk - 1)

/-- The highest line at the destination is at the source again. -/
def Move.unmark (m : Move) (i : Nat) : Move :=
  let base := if i / 512 = m.chunk then m.moved else BitVec.allOnes 512
  { m with chunk := i / 512, moved := base &&& ~~~((1 : BitVec 512) <<< (i % 512)), lock := none,
           wb := m.wb.filter (fun p => p.1 != i) }

def Move.movedCount (m : Move) : Nat := 512 * m.chunk + popNat 512 m.moved.toNat

/-- CHUNK and MOVED of the record (R382). -/
def State.showProgress (s : State) (m : Move) : State :=
  (s.devBytes none (m.rec_ + 4) (bytesLE 4 m.chunk)).devBytes none (m.rec_ + 0x40) (bytesLE 64 m.moved.toNat)

/-! ### Accesses that a move carries along (R384) -/

/-- Every place of an operation under a map. -/
def Piece.mapLoc (f : DWord → Loc → Loc) (p : Piece) : Piece := { p with loc := f p.va p.loc }
def LinePut.mapLoc (f : DWord → Loc → Loc) (p : LinePut) : LinePut := { p with loc := f p.va p.loc }
def AtomPiece.mapLoc (f : DWord → Loc → Loc) (p : AtomPiece) : AtomPiece := { p with piece := p.piece.mapLoc f }
/-- Lines of a kick that stay on the device. -/
def mapLines (f : DWord → Loc → Loc) (va : DWord) (ls : List Nat) : List Nat :=
  (ls.zip (List.range ls.length)).map (fun p => match f (va + BitVec.ofNat 64 (128 * p.2)) (.mem (128 * p.1)) with
    | .mem pa => pa / 128
    | _ => p.1)
def OpKind.mapLoc (f : DWord → Loc → Loc) : OpKind → OpKind
  | .load ps w d => .load (ps.map (Piece.mapLoc f)) w d
  | .loadS p w d => .loadS (p.mapLoc f) w d
  | .loadMx ps y d m => .loadMx (ps.map (Piece.mapLoc f)) y d m
  | .store ls => .store (ls.map (LinePut.mapLoc f))
  | .storeCnt ls d n => .storeCnt (ls.map (LinePut.mapLoc f)) d n
  | .atom ps sub ty cas d => .atom (ps.map (AtomPiece.mapLoc f)) sub ty cas d
  | .redd ps sub ty => .redd (ps.map (AtomPiece.mapLoc f)) sub ty
  | .kick (.rkget va ls tag) d => .kick (.rkget va (mapLines f va ls) tag) d
  | .kick (.rkput va ls tag) d => .kick (.rkput va (mapLines f va ls) tag) d
  | k => k

/-- The entry that the move leaves, unless another agent's write stands (R387). -/
def Move.finalPte (m : Move) : Option DWord :=
  if m.leafHit then none
  else match m.phase with
    | .copying => some m.newpte
    | .aborting _ => some m.oldpte

/-- Where an access to the page that was translated under its entry is performed once the move is over: by the entry that
the move leaves, or by the leaf as another agent has written it. An address that another leaf maps to the same place keeps
it. -/
def State.placeNow (s : State) (m : Move) (ctx : Nat) (va : DWord) (l : Loc) : Loc :=
  if !(m.inPage l) then l
  else match m.finalPte, s.walk ctx va with
    | some e, .ok f =>
      if f.ea ≠ m.ptea ∧ s.leafPlace f.pte (va.toNat % pageSize f.lv) = l then l else s.leafPlace e.toNat (va.toNat % m.size)
    | some e, .error _ => s.leafPlace e.toNat (va.toNat % m.size)
    | none, .ok f => if f.ea = m.ptea then s.leafPlace f.pte (va.toNat % pageSize f.lv) else l
    | none, .error _ => l

def Win.mapLoc (f : DWord → Loc → Loc) (wn : Win) : Win :=
  { wn with ops := wn.ops.map (fun o => if o.done then o else { o with kind := o.kind.mapLoc f }) }
def Warp.mapLoc (f : DWord → Loc → Loc) (x : Warp) : Warp := { x with win := x.win.mapLoc f }
def Block.mapLoc (f : DWord → Loc → Loc) (b : Block) : Block := { b with warps := b.warps.map (Warp.mapLoc f) }

/-- Accesses translated under the moving page's entry and not yet performed go to where its lines are now. -/
def State.retranslate (s : State) (m : Move) : State :=
  { s with blocks := s.blocks.map (fun b => b.mapLoc (s.placeNow m (s.ctxOf b.id.grid))) }

/-- No request of another owner to a line of a peer is under way. -/
def State.peerQuiet (s : State) (dev line : Nat) : Bool :=
  s.fab.out.all (fun o => o.dev != dev || peerLine o.op != line || o.owner.isCastle)

/-! ### REDD entries of a page (R208, R386) -/

/-- Contributions of warps that have spilled, as partials in the order of R208. -/
def State.spillsIn (s : State) (inside : Nat → Bool) : List Staged :=
  s.blocks.flatMap (fun k => (k.warpIds.zip k.warps).flatMap (fun p => (p.2.spills.filter (fun e => inside (e.pa / 128))).map (fun e =>
    { grid := k.id.grid, pa := e.pa, ty := e.ty, op := e.op, die := dieOfCore k.core, core := k.core,
      quadrant := (k.q0 + p.1.warp) % 4, block := k.id.block, warp := p.1.warp, val := e.val })))

/-- The entries of warps and home slices for lines that leave the device, spilled ones among them, are merged at the motion
home. -/
def State.mergeEntries (s : State) (inside : Nat → Bool) : State :=
  let has (x : Warp) : Bool := x.redd.any (fun e => inside (e.pa / 128))
  let s1 := (s.warpIds.filter (fun w => match s.warp? w with
    | some (_, x) => has x
    | none => false)).foldl (fun s w => s.reddDrain w) s
  let s2 := (s1.mapWarps (fun _ => true) (fun x => { x with spills := x.spills.filter (fun e => !(inside (e.pa / 128))) })).mergePartials
    (s1.spillsIn inside)
  { s2 with staged := s2.staged.filter (fun p => !(inside (p.pa / 128))) }.mergePartials
    (s2.staged.filter (fun p => inside (p.pa / 128)))

/-- The entries for a page that stays on the device follow it. -/
def State.moveEntries (s : State) (m : Move) (b : Nat) : State :=
  let mv (pa : Nat) : Nat := if m.inKey (pa / 128) then b + (pa - 128 * m.keyLine) else pa
  { s with staged := s.staged.map (fun p => { p with pa := mv p.pa }),
           blocks := s.blocks.map (fun k => { k with warps := k.warps.map (fun x =>
             { x with redd := x.redd.map (fun e => { e with pa := mv e.pa }),
                      spills := x.spills.map (fun e => { e with pa := mv e.pa }) }) }) }

/-! ### The start of a move (R381, R382, R384) -/

def moveSize (code : Nat) : Nat := if code = 0 then 2 ^ 16 else if code = 1 then 2 ^ 21 else 2 ^ 30

/-- Reserved bits of the record: lowest bit and count. -/
def moveReserved : List (Nat × Nat) :=
  [(5, 27), (8 * 4 + 14, 18), (8 * 8 + 47, 17), (8 * 0x10 + 47, 17), (8 * 0x18 + 10, 6), (8 * 0x18 + 26, 38),
   (8 * 0x20 + 47, 17), (8 * 0x38, 64), (8 * 0x80, 1024)]

/-- A leaf that the engine accepts, without its level (R382). -/
def State.leafOk (s : State) (e size : Nat) : Bool :=
  pteBit e 0 && pteBit e 1 && !(pteBit e 7) && field e 57 7 == 0 && decide (pteKind e < 2) &&
    (pteKind e == 1 || ptePeer e == 0) && pteAddr e % size == 0 &&
    (pteKind e == 1 && ptePeer e != s.fab.fabid.toNat || (tierOf (pteAddr e)).isSome)

/-- A page at a device's own or a peer's address. -/
def State.pageLoc (s : State) (remote : Bool) (dev pa : Nat) : Loc :=
  if remote && dev != s.fab.fabid.toNat then .peer dev pa else .mem pa

/-- The destination of a move serves (code 4 of CSRES). -/
def destOk (src dst : Loc) (size : Nat) : Bool :=
  match src, dst with
  | .peer _ _, .peer _ _ => false
  | _, .peer _ b => b % size == 0 && decide (b + size ≤ 2 ^ 47)
  | .mem a, .mem b => b % size == 0 && (tierOf b).isSome && tierOf (b + size - 1) == tierOf b &&
      (decide (a + size ≤ b) || decide (b + size ≤ a))
  | _, .mem b => b % size == 0 && (tierOf b).isSome && tierOf (b + size - 1) == tierOf b
  | _, _ => false

def pteWith (e kind peer addr : Nat) : Nat := e % 32 + kind * 32 + addr / 256 * 256 + peer * 2 ^ 47

/-- CSREC names a place for a record. -/
def Castle.recOk (c : Castle) : Bool := c.csrec.toNat % 256 == 0 && tierOf c.csrec.toNat == some 0

/-- Command 1. -/
def State.moveCmd (s : State) : State :=
  let r := s.castle.csrec.toNat
  if 16 ≤ s.castle.moves.length then s.csres 1
  else if !s.castle.recOk then s.csres 2
  else if (s.move? r).isSome then s.csres 8
  else
    let rec_ := s.readNat r 256
    let sz := field rec_ 2 2
    if sz = 3 ∨ moveReserved.any (fun p => field rec_ p.1 p.2 != 0) then s.csres 7
    else
      let size := moveSize sz
      let ptea := field rec_ (8 * 8) 47
      let e := if (tierOf ptea).isNone || ptea % 8 != 0 then 0 else s.readNat ptea 8
      if !(s.leafOk e size) then s.csres 3
      else
        let drem := pteBit rec_ 4
        let dstPa := field rec_ (8 * 0x10) 47
        let dpeer := field rec_ (8 * 0x18) 10
        let src := s.pageLoc (pteKind e == 1) (ptePeer e) (pteAddr e)
        let dst := s.pageLoc drem dpeer dstPa
        if !(destOk src dst size) then s.csres 4
        else
          let new := if drem then pteWith e 1 dpeer dstPa else pteWith e 0 0 dstPa
          let head := bytesLE 4 (rec_ % 2 ^ 32 / 4 * 4 + 1) ++ bytesLE 4 0
          let s1 := (s.devBytes none r head).devBytes none (r + 0x1A) (bytesLE 2 (if pteKind e = 1 then ptePeer e else 0))
          let s2 := (s1.devBytes none (r + 0x20) (bytesLE 8 (pteAddr e) ++ bytesLE 8 e ++ bytesLE 8 new)).devBytes none (r + 0x40)
            (bytesLE 64 0)
          let s3 := s2.devBytes none ptea (bytesLE 8 (pteWith e 2 0 r))
          let m : Move := { rec_ := r, size := size, ptea := ptea, oldpte := BitVec.ofNat 64 e, newpte := BitVec.ofNat 64 new,
                            src := src, dst := dst }
          (s3.setCastle (fun c => { c with moves := c.moves ++ [m] })).csres 0

/-! ### Copying lines (R384, R387) -/

/-- A line with its sidecar written to a place of this device, poisoned if `poi`. -/
def State.castleLine (s : State) (line : Nat) (d : VReg × EReg × Bool) : State :=
  let s1 := s.devLine none line d.1 d.2.1
  if d.2.2 then s1.addPoison line else s1

/-- A line with its sidecar written at a peer: the bytes that a mask names, or the poisoned line. -/
def lineWrite (line : Nat) (d : VReg × EReg × Bool) (n : BitVec 128 × BitVec 8 := (BitVec.allOnes 128, 0xFF)) : PeerOp :=
  if d.2.2 then .poison line else .write line d.1 n.1 d.2.1 n.2 false

/-- One exchange of a move with a peer: sent now, still waiting, or answered. -/
inductive Exchange where
  | wait (s : State)
  | answered (s : State) (ok : Bool) (data : VReg) (side : EReg)
deriving DecidableEq, Repr

def State.castlePeer (s : State) (m : Move) (dev : Nat) (op : PeerOp) : Exchange :=
  match (s.outOf (.castle m.rec_)).find? (fun o => o.op == op) with
  | none => .wait (s.peerSend (.castle m.rec_) (hashDie m.keyLine) dev (peerLine op) op)
  | some o => match o.answer with
    | none => .wait s
    | some (st, data, side) => .answered (s.dropOut (.castle m.rec_)) (st == .ok) data side

/-- Begins an abort (R387); the first reason stands. -/
def State.abortMove (s : State) (i : Nat) (why : Byte) (bad : List Nat) : State :=
  match s.castle.moves[i]? with
  | none => s
  | some m => (s.dropOut (.castle m.rec_)).setMove i (fun m =>
      { m with phase := match m.phase with
                 | .copying => .aborting why
                 | p => p,
               lock := none, allLocked := none, bad := m.bad ++ bad })

/-- Every moved line is poisoned at the source at once: the destination is unreachable. A peer that is the source takes
the poison by writes of its own. -/
def State.loseMoved (s : State) (i : Nat) : State :=
  match s.castle.moves[i]? with
  | none => s
  | some m =>
    let js := (List.range m.lines).filter m.movedLine
    let s1 := match m.src with
      | .mem _ => js.foldl (fun (s : State) j => s.addPoison (m.keyLine + j)) s
      | .peer p a => js.foldl (fun (s : State) j =>
          s.peerSend (.castle m.rec_) (hashDie m.keyLine) p (a / 128 + j) (.poison (a / 128 + j))) s
      | .scratch _ _ => s
    let s2 := s1.setMove i (fun m => { m with poisoned := m.poisoned + js.length, chunk := 0, moved := 0,
                                              wb := m.wb.filter (fun p => !js.contains p.1) })
    match s2.castle.moves[i]? with
    | none => s2
    | some m => s2.showProgress m

/-- The line under the lock is at the destination. -/
def State.lineMoved (s : State) (i j : Nat) : State :=
  let s1 := s.setMove i (fun m => m.mark j)
  match s1.castle.moves[i]? with
  | none => s1
  | some m => s1.showProgress m

/-- A line at its motion home, whole: a peer that holds it is asked for it. -/
def State.motionRead (s : State) (line : Nat) : State × Option (VReg × EReg × Bool) :=
  if s.atPeer line then s.fillRead line else (s, some (s.homeRead line))

/-- Copies the locked line `j` forward: read with its sidecar at its motion home, written to the destination; a poisoned
line stays poisoned. -/
def State.copyForward (s : State) (i : Nat) (m : Move) (j : Nat) : State :=
  match s.motionRead (m.keyLine + j) with
  | (s, none) => s
  | (s, some r) => match m.dst with
    | .mem b =>
      (if m.localSrc then s.castleLine (b / 128 + j) r else s.setLine (m.keyLine + j) r).lineMoved i j
    | .peer p b => match s.castlePeer m p (lineWrite (b / 128 + j) r) with
      | .wait s => s
      | .answered s ok _ _ => if ok then s.lineMoved i j else (s.abortMove i 2 []).loseMoved i
    | .scratch _ _ => s

/-- The line under the lock is at the source again. -/
def State.lineBack (s : State) (i j : Nat) (lost : Bool) : State :=
  let s1 := s.setMove i (fun m => { (m.unmark j) with back := m.back + b2n (!lost), poisoned := m.poisoned + b2n lost })
  match s1.castle.moves[i]? with
  | none => s1
  | some m => s1.showProgress m

/-- Writes back what the cores hold dirty of a line. -/
def State.wbEverywhere (s : State) (line : Nat) : State :=
  (List.range s.cores.length).foldl (fun s c => if ((s.core c).l1? line).isSome then s.wbLine c line else s) s

def State.dirtyAnywhere (s : State) (line : Nat) : Bool :=
  s.cores.any (fun k => match k.l1? line with
    | some l => l.dirty != 0
    | none => false)

/-- Copies the locked line `j` back; one that cannot be read at the destination is poisoned at the source (R387). -/
def State.copyBack (s : State) (i : Nat) (m : Move) (j : Nat) : State :=
  let bad := m.bad.contains j
  match (if bad then (s, some (0, eInit, true)) else s.motionRead (m.keyLine + j)) with
  | (s, none) => s
  | (s, some r) => match m.src with
    | .peer p a => match s.castlePeer m p (lineWrite (a / 128 + j) r) with
      | .wait s => s
      | .answered s ok _ _ => s.lineBack i j (!ok || r.2.2)
    | _ => (s.setLine (m.keyLine + j) r).lineBack i j r.2.2

/-- The line that a move handles next. -/
def Move.turnLine (m : Move) : Option Nat :=
  match m.phase with
  | .copying => if m.leafHit then none else m.nextLine
  | .aborting _ => m.lastMoved

/-- A lock can be taken: requests to the line at a source peer have ended. -/
def State.lockable (s : State) (m : Move) (j : Nat) : Bool :=
  match m.src with
  | .peer p a => s.peerQuiet p (a / 128 + j)
  | _ => true

/-- A die is parked, or on its way in or out. -/
def State.anyParked (s : State) : Bool := s.dies.any (fun d => d.pcur == 6 || (d.pbusy && d.ptgt == 6))

/-- A step of the move on its lines from `j` on waits for a parked die: one that is home to the record, the leaf entry or one
of the lines, at either end (R442). -/
def State.moveParked (s : State) (m : Move) (j n : Nat) : Bool :=
  s.anyParked && (s.parked? (m.rec_ / 128) || s.parked? (m.ptea / 128) || [m.src, m.dst].any (fun l => match l with
    | .mem a => (List.range n).any (fun i => s.parked? (a / 128 + j + i))
    | _ => false))

/-- The copy lock of the move at place `i` is released; its line is copied again. -/
def State.unlockLine (s : State) (i : Nat) (m : Move) : State :=
  (s.dropOut (.castle m.rec_)).setMove i (fun m => { m with lock := none })

/-- R384, R387: the move at place `n` takes the lock of its next line, or copies the line that it holds, within LMAX. -/
def execCastleLineCopy (s : State) : Out :=
  let i := s.on.n
  .next (State.sendUnlocked (match s.castle.moves[i]? with
    | none => s
    | some m =>
      if s.castle.ringHeld || m.allLocked.isSome then s
      else match m.lock with
        | none => match m.turnLine with
          | some j => if s.lockable m j then s.setMove i (fun m => { m with lock := some (j, s.moveClk m) }) else s
          | none => s
        | some (j, t) =>
          if t + m.lmax ≤ s.moveClk m then s.unlockLine i m
          else if s.moveParked m j 1 then s
          else match m.phase with
            | .copying => s.copyForward i m j
            | .aborting _ => s.copyBack i m j))

/-- R384, R385: a copy not finished within LMAX is abandoned; its line is copied again. -/
def execLineLockTimeout (s : State) : Out :=
  let i := s.on.n
  .next (State.sendUnlocked (match s.castle.moves[i]? with
    | none => s
    | some m => match m.lock with
      | some (_, t) => if t + m.lmax ≤ s.moveClk m then s.unlockLine i m else s
      | none => s))

/-! ### Completion (R384) -/

/-- The move is ready to complete: every line is at its final place. -/
def Move.canComplete (m : Move) : Bool :=
  match m.phase with
  | .copying => m.allMoved && !m.leafHit
  | .aborting _ => m.lastMoved.isNone

/-- Writes on their way to lines of the page. -/
def State.writesComing (s : State) (m : Move) : Bool :=
  s.msgs.any (fun q => q.put.isSome && q.dst == homeDie q.line && m.inKey q.line)

/-- The lines of the page that some L1 holds. -/
def State.l1Lines (s : State) (m : Move) : List Nat :=
  sortNats (s.cores.flatMap (fun k => (k.l1.map (fun l => l.line)).filter m.inKey))

/-- Every cached copy of the page is dropped. -/
def State.dropPage (s : State) (m : Move) : State :=
  { s with cores := s.cores.map (fun k => { k with l1 := k.l1.filter (fun l => !(m.inKey l.line)),
                                                   miss := k.miss.filter (fun e => !(m.inKey e.line)),
                                                   prefs := k.prefs.filter (fun p => !(m.inKey p.1)) }),
           dies := s.dies.map (fun d => { d with copies := d.copies.filter (fun c => !(m.inKey c.line)),
                                                 l2 := d.l2.filter (fun l => !(m.inKey l.line)),
                                                 fills := d.fills.filter (fun f => !(m.inKey f.1)) }),
           fetches := s.fetches.filter (fun f => !(m.inKey f.line)),
           hostCache := s.hostCache.filter (fun p => !(m.inKey p.1)),
           fab := { s.fab with out := s.fab.out.filter (fun o => match o.owner with
             | .fill line => !(m.inKey line)
             | _ => true) } }

/-- What the writes back to the destination come to. -/
inductive Flushed where
  | wait (s : State)
  | lost (s : State)
  | done (s : State)
deriving DecidableEq, Repr

/-- The write that takes the newer bytes of line `j` to its current location at a peer. -/
def State.newerOut (s : State) (m : Move) (p : Nat × BitVec 128 × BitVec 8) : Option (Nat × PeerOp) :=
  match m.away p.1 with
  | some (.peer dev a) => some (dev, lineWrite (a / 128) (s.plainRead (m.keyLine + p.1)) p.2)
  | _ => none

/-- The lines that the motion home holds newer go to their current locations. -/
def State.flushBack (s : State) (m : Move) : Flushed :=
  let own := PeerOwner.castle m.rec_
  let s1 := m.wb.foldl (fun s p => match m.away p.1 with
    | some (.mem b) => s.castleLine (b / 128) (s.homeRead (m.keyLine + p.1))
    | _ => match s.newerOut m p with
      | some (dev, op) =>
        if (s.outOf own).any (fun o => o.op == op) then s else s.peerSend own (hashDie m.keyLine) dev (peerLine op) op
      | none => s) s
  let outs := s1.outOf own
  if (m.wb.filterMap (s1.newerOut m)).any (fun x => !(outs.any (fun o => o.op == x.2))) || outs.any (fun o => o.answer.isNone) then
    .wait s1
  else if m.phase == .copying && outs.any PeerOut.failed then .lost (s1.dropOut own)
  else .done (s1.dropOut own)

def Move.event (m : Move) : CastleEvent :=
  match m.phase with
  | .copying => { kind := 1, addr := BitVec.ofNat 64 m.rec_ }
  | .aborting why => { kind := 2, reason := why, addr := BitVec.ofNat 64 m.rec_, lback := m.back, lpois := m.poisoned }

def Move.endState (m : Move) : Nat :=
  match m.phase with
  | .copying => 2
  | .aborting _ => 3

/-- The entry is written, the locks are released, and the move is over. -/
def State.finishMove (s : State) (i : Nat) (m : Move) : State :=
  let s1 := (s.dropPage m).setCastle (fun c => { c with moves := c.moves.eraseIdx i })
  let s2 := match m.finalPte with
    | some e => s1.devBytes none m.ptea (bytesLE 8 e.toNat)
    | none => s1
  let s3 := match m.phase, m.src, m.dst with
    | .copying, .mem _, .mem b => s2.moveEntries m b
    | _, _, _ => s2
  let s4 := s3.retranslate m
  (s4.devBytes none m.rec_ (bytesLE 1 (s4.readNat m.rec_ 1 / 4 * 4 + m.endState))).castleEvent m.event

/-- The home lines of staged and drained `REDD` entries that a completion applies first, because their page leaves the
device, and that a peer still holds. -/
def State.entriesAway (s : State) (m : Move) : List Nat :=
  let of_ (pa : Nat) : Bool := m.inKey (pa / 128) && s.atPeer (pa / 128)
  (s.staged.filter (fun p => of_ p.pa)).map (fun p => p.pa / 128) ++
    s.blocks.flatMap (fun k => k.warps.flatMap (fun x => ((x.redd ++ x.spills).filter (fun e => of_ e.pa)).map (fun e => e.pa / 128)))

/-- The page goes to a peer, or back to one. -/
def Move.leaves (m : Move) : Bool :=
  match m.phase, m.src, m.dst with
  | .copying, _, .peer _ _ => true
  | .aborting _, .peer _ _, _ => true
  | _, _, _ => false

/-- Under the locks: dirty L1 bytes are written back, writes on their way arrive, `REDD` entries of a page that leaves
the device are merged, and the current locations take what the motion homes hold newer. -/
def State.completeMove (s : State) (i : Nat) (m : Move) : State :=
  let ls := s.l1Lines m
  let s1 := ls.foldl State.wbEverywhere s
  if ls.any s1.dirtyAnywhere || s1.writesComing m then s1
  else
    let far := if m.leaves then s1.entriesAway m else []
    if !far.isEmpty then far.foldl (fun s l => s.homeFill l (hashDie l)) s1
    else
      let s2 := if m.leaves then s1.mergeEntries m.inKey else s1
      match s2.castle.moves[i]? with
      | none => s2
      | some m => match s2.flushBack m with
        | .wait s => s
        | .lost s => (s.abortMove i 2 []).loseMoved i
        | .done s => s.finishMove i m

/-- The completion locks of the move at place `i` are released; it is tried again. -/
def State.unlockPage (s : State) (i : Nat) (m : Move) : State :=
  (s.dropOut (.castle m.rec_)).setMove i (fun m => { m with allLocked := none })

/-- R384: the move at place `n` takes every lock of its page, then completes within CMAX. -/
def execCastleMoveComplete (s : State) : Out :=
  let i := s.on.n
  .next (State.sendUnlocked (match s.castle.moves[i]? with
    | none => s
    | some m =>
      if s.castle.ringHeld || !m.canComplete || m.lock.isSome then s
      else match m.allLocked with
        | some t =>
          if t + cmax ≤ s.moveClk m then s.unlockPage i m else if s.moveParked m 0 m.lines then s else s.completeMove i m
        | none =>
          if (match m.src with
              | .peer p a => (s.fab.out.any (fun o => o.dev == p && !o.owner.isCastle && decide (a / 128 ≤ peerLine o.op) &&
                  decide (peerLine o.op < (a + m.size) / 128)))
              | _ => false) then s
          else s.setMove i (fun m => { m with allLocked := some (s.moveClk m) })))

/-- R384, R385: a completion whose flush has not ended within CMAX releases its locks. -/
def execCompletionLockTimeout (s : State) : Out :=
  let i := s.on.n
  .next (State.sendUnlocked (match s.castle.moves[i]? with
    | none => s
    | some m => match m.allLocked with
      | some t => if t + cmax ≤ s.moveClk m then s.unlockPage i m else s
      | none => s))

/-! ### Aborts (R387) -/

/-- Command 2. -/
def State.abortCmd (s : State) : State :=
  if !s.castle.recOk then s.csres 2
  else match s.castle.moves.findIdx? (fun m => m.rec_ == s.castle.csrec.toNat) with
    | some i => (s.abortMove i 3 []).csres 0
    | none => s.csres 5

/-- R387: the move at place `i` aborts: lines cannot be read at the destination, the destination is out of reach, or
another agent has written the leaf entry. -/
def execCastleAbort (i : Nat) (why : AbortWhy) (unreadable : List Nat) (s : State) : Out :=
  .next (State.sendUnlocked (match s.castle.moves[i]? with
    | none => s
    | some m => match why with
      | .destError => s.abortMove i 1 unreadable
      | .destUnreachable => (s.abortMove i 2 []).loseMoved i
      | .leafWritten => if m.leafHit then s.abortMove i 4 [] else s))

/-! ### Hotness (R390) -/

/-- Frames that the table holds. -/
def Castle.frames (c : Castle) : Nat := 25390625 + c.hcxl0.toNat + c.hcxl1.toNat

/-- The counters (frame · 4 + die) that hold a value, in the table or pending. -/
def State.hotKeys (s : State) : List Nat :=
  let b := s.castle.hotbase.toNat
  sortNats ((s.mem.filterMap (fun p =>
    if b ≤ p.1 ∧ p.1 < b + 8 * s.castle.frames then some ((p.1 - b) / 2) else none)) ++ s.castle.hot.map Prod.fst)

/-- Writes every counter, its pending count added and the sum shifted right. The host caches none of their old values: they
are visible to it after the event. -/
def State.writeHot (s : State) (shift : Nat) : State :=
  let b := s.castle.hotbase.toNat
  let s1 := if b = 0 then s else
    s.hotKeys.foldl (fun s k =>
      let n := min (s.readNat (b + 2 * k) 2 + tget 0 s.castle.hot k) 0xFFFF >>> shift
      s.devBytes none (b + 2 * k) (bytesLE 2 n)) s
  (((s1.recall 4).setCastle (fun c => { c with hot := [] })).castleEvent { kind := 4 }).csres 0

/-- Commands 4 and 5. -/
def State.hotSync (s : State) : State := s.writeHot 0
def State.hotDecay (s : State) : State := s.writeHot (min s.castle.dshift.toNat 16)

/-! ### The checkpoint (R392, R393) -/

/-- Lines of HBM4E and of both tiers. -/
def hbmLines : Nat := 5000000000
def imageLines : Nat := 13000000000
/-- Bytes of each half of the image. -/
def halfBytes : Nat := 884000000000

/-- Line `n` of the image's data area. -/
def imageLine (n : Nat) : Nat := if n < hbmLines then n else 0x010000000000 / 128 + (n - hbmLines)

/-- Address of 512-byte group `g` of the image. -/
def Castle.groupPa (c : Castle) (g : Nat) : Nat := (if g % 2 = 0 then c.ckdst0 else c.ckdst1).toNat + 512 * (g / 2)

def halfOk (dst : DWord) (lo hi : Nat) : Bool := dst.toNat % 512 == 0 && decide (lo ≤ dst.toNat) && decide (dst.toNat + halfBytes ≤ hi)

/-- Command 3. -/
def State.checkpointCmd (s : State) : State :=
  if s.castle.ckbusy then s.csres 1
  else if !(halfOk s.castle.ckdst0 0x400000000000 0x600000000000 && halfOk s.castle.ckdst1 0x600000000000 0x800000000000) then
    s.csres 6
  else (s.setCastle (fun c => { c with ckbusy := true, ckGroup := 0, ckdone := 0, ckpois := 0 })).csres 0

/-- A line as the checkpoint reads it: at the motion home when a move has taken its page there; a line that lies at a
peer is read from the range that held it. -/
def State.imageRead (s : State) (line : Nat) : VReg × EReg × Bool :=
  match s.castle.moves.findSome? (fun m => match m.src, m.dst with
    | .mem a, .mem b =>
      if b / 128 ≤ line ∧ line < (b + m.size) / 128 ∧ m.movedLine (line - b / 128) = true then some (a / 128 + (line - b / 128))
      else none
    | _, _ => none) with
  | some k => s.homeRead k
  | none => s.homeRead line

/-- Runs of 64 lines in the image. -/
def imageRuns : Nat := imageLines / 64

/-- A line of the image written as data bytes alone: it clears a poisoned line's poison, and its sidecar then reads 0x7F
(R391). -/
def State.imageWrite (s : State) (line : Nat) (data : VReg) (poi : Bool) : State :=
  let s1 := s.devWrite none line { data := data, mask := BitVec.allOnes 128, side := eInit,
                                   sideMask := if s.poison.contains line then 0xFF else 0 }
  if poi then s1.addPoison line else s1

/-- A lock or a parked die holds a line that the next run reads (R385, R442). -/
def State.runHeld (s : State) : Bool :=
  (s.anyParked || !s.castle.moves.isEmpty) && (List.range 64).any (fun k =>
    let l := imageLine (64 * s.castle.ckGroup + k)
    s.locked l || s.parked? l)

/-- One run: 64 lines to their groups, and their sidecars to the group of the sidecar area. -/
def State.copyRun (s : State) : State :=
  let u := s.castle.ckGroup
  if !s.castle.ckbusy || s.castle.ringHeld || decide (imageRuns ≤ u) || s.runHeld then s
  else
    let rs := (List.range 64).map (fun k => s.imageRead (imageLine (64 * u + k)))
    let s1 := (rs.zip (List.range 64)).foldl (fun s p =>
      s.imageWrite (s.castle.groupPa (16 * u + p.2 / 4) / 128 + p.2 % 4) p.1.1 p.1.2.2) s
    let s2 := (List.range 4).foldl (fun s k =>
      s.imageWrite (s.castle.groupPa (imageLines / 4 + u) / 128 + k)
        (BitVec.ofNat 1024 (packNat 64 (fun j => ((rs[16 * k + j]?).map (fun r => r.2.1.toNat)).getD 0) 16)) false) s1
    let bad := (rs.filter (fun r => r.2.2)).length
    s2.setCastle (fun c => { c with ckGroup := u + 1, ckdone := c.ckdone + 64, ckpois := c.ckpois + BitVec.ofNat 32 bad })

def copyRuns : Nat → State → State
  | 0, s => s
  | n + 1, s => copyRuns n s.copyRun

/-- R392: the command ends with an event. -/
def execCheckpointDone (s : State) : Out :=
  .next (if s.castle.ckbusy && decide (imageRuns ≤ s.castle.ckGroup) then
    (s.setCastle (fun c => { c with ckbusy := false })).castleEvent { kind := 3 } else s)

/-! ### Commands (R381, R388) -/

/-- A command of CSCMD as the engine carries it out; other codes are ignored. -/
def State.runCastle (s : State) (n : Nat) : State :=
  match n with
  | 1 => s.moveCmd
  | 2 => s.abortCmd
  | 3 => s.checkpointCmd
  | 4 => s.hotSync
  | 5 => s.hotDecay
  | _ => s

/-- A command waits for a line that something holds: the record or leaf entry of a move, a counter of the table (R385,
R442). -/
def State.cmdHeld (s : State) (n : Nat) (csrec : DWord) : Bool :=
  (n == 1 && s.castle.recOk && (s.rangeBusy csrec.toNat 256 ||
    s.lineBusy (field (s.readNat csrec.toNat 256) (8 * 8) 47 / 128))) ||
  ((n == 4 || n == 5) && s.castle.hotbase != 0 && s.hotKeys.any (fun k => s.lineBusy ((s.castle.hotbase.toNat + 2 * k) / 128)))

/-- A command: a full event ring holds it until space frees (R388, log 89). -/
def State.castleCmd (s : State) (n : Nat) : State :=
  if s.castle.ringHeld || !s.castle.cmds.isEmpty || s.cmdHeld n s.castle.csrec then s.setCastle (fun c => { c with cmds := c.cmds ++ [(n, c.csrec)] }) else s.runCastle n

def execCastleMove (s : State) : Out := .next (s.served (s.castleCmd 1))
def execCastleAbortCmd (s : State) : Out := .next (s.served (s.castleCmd 2))
def execCheckpoint (s : State) : Out := .next (s.served (s.castleCmd 3))
def execHotnessSync (s : State) : Out := .next (s.served (s.castleCmd 4))
def execHotnessDecay (s : State) : Out := .next (s.served (s.castleCmd 5))

/-- The commands that waited run in order, each at its CSREC, until the ring holds the engine again. -/
def runHeld : List (Nat × DWord) → State → State
  | [], s => s
  | p :: rest, s =>
    if s.castle.ringHeld || s.cmdHeld p.1 p.2 then s
    else
      let r := s.castle.csrec
      let s1 := (s.setCastle (fun c => { c with cmds := rest, csrec := p.2 })).runCastle p.1
      runHeld rest (s1.setCastle (fun c => { c with csrec := r }))

/-- The slot of the next event. -/
def Castle.slot (c : Castle) : Nat := c.cebase.toNat + 32 * (c.cetail.toNat % 2 ^ c.celog.toNat)

/-- The oldest event goes to the ring where there is room; hints that find it full are dropped. -/
def State.writeEvent (s : State) : State :=
  match s.castle.events with
  | [] => s
  | e :: rest =>
    let n := s.castle.cetail
    if !s.castle.hasRoom then s.setCastle (fun c => { c with events := c.events.filter (fun e => !e.isHint) })
    else if s.locked (s.castle.slot / 128) || s.parked? (s.castle.slot / 128) then s
    else (s.devBytes none s.castle.slot (e.toBytes n)).setCastle (fun c => { c with events := rest, cetail := n + 1 })

/-- R388: the oldest event is written; commands that waited for it follow. -/
def execCastleEventWrite (s : State) : Out :=
  let s1 := s.writeEvent
  .next (runHeld s1.castle.cmds s1)

end Sys2Proof.Machine
end

