-- ==== Sys2Proof/Machine/Control.lean ====
section
/-! DEFINITION. Group 0: transfers, calls and returns (R105), divergence (R107), `EXIT` (R110), `YIELD` (R111) and
`SLEEP` (R112). -/

namespace Sys2Proof.Machine

/-! ### Transfers (R103-R106) -/

/-- R86: an issue slot and its stall count, in either stream. -/
def execNop (f : JForm) (s : State) : Out :=
  match s.cur with
  | some (.warp w) => .next (runWarp (shNop f) (fun _ => none) (fun c => c.done []) w s)
  | some (.seq b) => .next (runSeq (shNop f) (fun c => .go { s := c.s }) b s)
  | none => .refused .noIssuer

/-- R105. -/
def execBra (f : JForm) (s : State) : Out := issueW (shBra f) (fun c => c.jump (jTargetPc c.pc f.x)) s

/-- The tested value of R103. -/
def brTest (c : Ctx) : Opnd → Nat
  | .k n => (c.kreg n.toNat &&& c.live).toNat
  | o => c.uni32 o

def execBrz (f : JForm) (s : State) : Out :=
  issueW (shBrz f) (fun c => if brTest c f.a = 0 then c.jump (jTargetPc c.pc f.x) else c.done []) s

def execBrnz (f : JForm) (s : State) : Out :=
  issueW (shBrz f) (fun c => if brTest c f.a ≠ 0 then c.jump (jTargetPc c.pc f.x) else c.done []) s

/-- The check of R82 on a register or stack target. -/
def targetCheck (t : DWord) : Option TrapInfo :=
  if legalPc t then none else some { cause := .illegalPc, detail := 0x01, addr := t }

def execJmpi (f : RForm) (s : State) : Out :=
  issueW (shJmpi f) (fun c => c.jump (c.uni64 f.a)) s (fun c => targetCheck (c.uni64 f.a))

/-- The push of `CALL` and `CALLI` (R35). The detail of CALL_OVERFLOW is 0 (DESIGN CHOICE, log 85: no rule gives one). -/
def pushTo (c : Ctx) (t : DWord) : Body :=
  if 16 ≤ c.w.stack.length then c.trap .callOverflow
  else .go { s := c.s.setWarp c.id (fun x => { x with stack := x.stack ++ [nextPc c.pc] }), pc := some t }

def execCall (f : JForm) (s : State) : Out := issueW (shBra f) (fun c => pushTo c (jTargetPc c.pc f.x)) s

def execCalli (f : RForm) (s : State) : Out :=
  issueW (shJmpi f) (fun c => pushTo c (c.uni64 f.a)) s (fun c => targetCheck (c.uni64 f.a))

/-- R35, R82, R105: an empty stack and an illegal popped address raise ILLEGAL_PC with the depth unchanged. -/
def execRet (f : JForm) (s : State) : Out :=
  issueW (shPlainJ f) (fun c =>
    .go { s := c.s.setWarp c.id (fun x => { x with stack := x.stack.dropLast }), pc := some (c.w.stack.getLast?.getD 0) }) s
    (fun c => match c.w.stack.getLast? with
      | none => some { cause := .illegalPc, detail := 0x01 }
      | some t => targetCheck t)

/-! ### Divergence (R107) -/

/-- The new counters, or `none` when a lane that is not retired would exceed 15 (R16). `f` takes a lane and its
counter. -/
def nestMap (x : Warp) (f : Nat → Nat → Nat) : Option (BitVec 128) :=
  let g (l : Nat) : Nat := if bit x.retired l then nestOf x.nest l else f l (nestOf x.nest l)
  if (List.range 32).all (fun l => decide (g l ≤ 15)) then some (ofNest g) else none

/-- A divergence step, with the target taken when no lane is live afterwards. The detail of NEST_OVERFLOW is 0 (DESIGN
CHOICE, log 85: no rule gives one). -/
def diverge (c : Ctx) (f : Nat → Nat → Nat) (target : Option DWord) : Body :=
  match nestMap c.w f with
  | none => c.trap .nestOverflow
  | some n =>
    let w : Warp := { c.w with nest := n }
    .go { s := c.s.setWarp c.id (fun x => { x with nest := n }), pc := if w.live == 0 then target else none }

def execIfc (f : JForm) (s : State) : Out :=
  issueW (shIf f) (fun c =>
    let cond := c.guard f.g
    diverge c (fun l n => if 0 < n then n + 1 else if bit cond l then 0 else 1) (some (jTargetPc c.pc f.x))) s

def execElsec (f : JForm) (s : State) : Out :=
  issueW (shBra f) (fun c =>
    diverge c (fun _ n => if n = 0 then 1 else if n = 1 then 0 else n) (some (jTargetPc c.pc f.x))) s

def execEndif (f : JForm) (s : State) : Out := issueW (shPlainJ f) (fun c => diverge c (fun _ n => n - 1) none) s

def execLoop (f : JForm) (s : State) : Out :=
  issueW (shPlainJ f) (fun c => diverge c (fun _ n => if 0 < n then n + 1 else 0) none) s

def execBreakc (f : JForm) (s : State) : Out :=
  issueW (shBreak f) (fun c =>
    let cond := c.guard f.g
    diverge c (fun l n => if n = 0 ∧ bit cond l then f.x.toNat + 1 else n) none) s

def execEndl (f : JForm) (s : State) : Out :=
  issueW (shBra f) (fun c =>
    if c.anylive then c.jump (jTargetPc c.pc f.x) else diverge c (fun _ n => n - 1) none) s

/-! ### Ending, yielding, sleeping (R17, R110-R112) -/

/-- R110: retires the lanes; the warp ends with its last real lane (R17), leaving its barriers (R224) and draining its
REDD entries (R208). -/
def execExit (f : JForm) (s : State) : Out :=
  issueW (shExit f) (fun c =>
    let m := c.regwrite f.g
    let s1 := c.s.setWarp c.id (fun x => { x with retired := x.retired ||| m })
    match s1.warp? c.id with
    | some (_, x) => .go { s := if x.realLeft then s1 else s1.terminate c.id }
    | none => .go { s := s1 }) s

/-- R111: the warps of the quadrant that are ready now issue once first. -/
def execYield (f : JForm) (s : State) : Out :=
  issueW (shPlainJ f) (fun c =>
    c.doneWith (fun x => { x with yieldTo := c.s.ready.filter (fun w => w != c.id) })) s

/-- R112. -/
def execSleep (f : IForm) (s : State) : Out :=
  issueW (shSleep f) (fun c => c.doneWith (fun x => { x with sleep := if f.x = 0 then 0 else f.x.toNat + 2 })) s

/-- R112: the last clk of a sleep has passed. -/
def execSleepExpire (s : State) : Out :=
  .next (s.setWarp s.on.w (fun x => if x.sleep = 1 then { x with sleep := 0 } else x))

/-- R85: an opcode that R84 does not assign raises ILLEGAL_OPCODE, detail 0x00, at its row of R90. -/
def execUnassignedOpcodeIssue (_raw : IWord) (s : State) : Out :=
  let t : TrapInfo := { cause := .illegalOpcode }
  match s.cur with
  | some (.warp w) => .next (match s.warp? w with
    | some (b, x) => if x.canIssue (s.clkOf (dieOfCore b.core)) && !(s.stopDue w x) then s.takeTrap w t x.pc else s
    | none => s)
  | some (.seq b) => .next (match s.seq? b with
    | some (blk, q) => if q.canIssue (s.clkOf (dieOfCore blk.core)) then s.streamTrap b t q.pc else s
    | none => s)
  | none => .refused .noIssuer

end Sys2Proof.Machine
end

