-- ==== Sys2Proof/Machine/Exchange.lean ====
section
/-! DEFINITION. Group 5: lane exchange, votes, reductions and scans (R178-R187). -/

namespace Sys2Proof.Machine

/-- Lanes that take part (R179). -/
def Ctx.part (c : Ctx) (g : Guard) : Mask := c.live &&& c.guard g

/-- A value per lane in the lanes of a mask, of the type's width. -/
def Ctx.doneX (c : Ctx) (m : Mask) (f : RForm) (g : Nat → Nat) : Body :=
  c.done (outV m (opndNum f.d) (tyWide f.ty) g)

/-! ### Quads (R180) -/

def execQswz (f : RForm) (s : State) : Out :=
  issueW (shQswz f) (fun c =>
    let a := c.vecN f.ty f.a
    let pat := (smask f).toNat
    c.doneX (c.regwrite f.g) f (fun l => a (4 * (l / 4) + field pat (2 * (l % 4)) 2))) s

def execQbcst (f : RForm) (s : State) : Out :=
  issueW (shQbcst f) (fun c =>
    let a := c.vecN f.ty f.a
    let b := c.vecN .n32 f.b
    c.doneX (c.regwrite f.g) f (fun l => a (4 * (l / 4) + b l % 4))) s

/-! ### Shuffles (R181, R182) -/

/-- The source lane of `SHFL`. -/
def shflSrc (mode size l b : Nat) : Nat :=
  let base := l - l % size
  let i := l % size
  match mode with
  | 0 => base + b % size
  | 1 => if i < b then l else l - b
  | 2 => if size ≤ i + b then l else l + b
  | _ => base + (i ^^^ (b % size))

def execShfl (f : RForm) (s : State) : Out :=
  issueW (shShfl f) (fun c =>
    let a := c.vecN f.ty f.a
    let b := c.vecN .n32 f.b
    let live := c.live
    c.doneX (c.part f.g) f (fun l =>
      let j := shflSrc f.sub.toNat (32 >>> f.opx.toNat) l (b l)
      if bit live j then a j else a l)) s

/-- A value of the 64-lane concatenation, or the lane's own. -/
def twoSrc (live : Mask) (a b : Nat → Nat) (j l : Nat) : Nat :=
  if bit live (j % 32) then (if j < 32 then a j else b (j - 32)) else a l

def execShflx (f : RForm) (s : State) : Out :=
  issueW (shShflx f) (fun c =>
    let a := c.vecN f.ty f.a
    let b := c.vecN f.ty f.b
    let i := c.vecN .n32 f.c
    let live := c.live
    c.doneX (c.part f.g) f (fun l => twoSrc live a b (i l % 64) l)) s

def execShfld (f : RForm) (s : State) : Out :=
  issueW (shShfld f) (fun c =>
    let a := c.vecN f.ty f.a
    let b := c.vecN f.ty f.b
    let k := c.uni32 f.c % 32
    let live := c.live
    c.doneX (c.part f.g) f (fun l => twoSrc live a b (l + k) l)) s

/-! ### Votes and counts (R183-R185) -/

/-- The condition per lane of a K or V operand. -/
def Ctx.condOf (c : Ctx) : Opnd → Mask
  | .k n => c.kreg n.toNat
  | o => let v := c.vecN .n32 o; ofMask (fun l => v l != 0)

/-- A uniform result in S, or in K as `kv` (R179). -/
def Ctx.doneSK (c : Ctx) (f : RForm) (x : Nat) (kv : Mask) : Body :=
  c.done (match f.d with
    | .k n => outK (if c.anyActive then BitVec.allOnes 32 else 0) n.toNat kv
    | o => outS c.anyActive (opndNum o) false x)

def execBallot (f : RForm) (s : State) : Out :=
  issueW (shBallot f) (fun c =>
    let m := c.part f.g &&& c.condOf f.a
    c.doneSK f m.toNat m) s

/-- All lanes of a list agree on a value. -/
def allSame (ls : List Nat) (v : Nat → Nat) : Bool :=
  match ls with
  | [] => true
  | l :: rest => rest.all (fun k => v k == v l)

def execVote (f : RForm) (s : State) : Out :=
  issueW (shVote f) (fun c =>
    let p := c.part f.g
    let k := c.condOf f.a
    let r : Bool := match f.sub.toNat with
      | 0 => p &&& k != 0
      | 1 => p &&& ~~~k == 0
      | _ => (match f.a with
        | .k _ => p &&& k == 0 || p &&& ~~~k == 0
        | o => allSame (lanesOf p) (c.vecN .n32 o))
    c.doneSK f (b2n r) (if r then BitVec.allOnes 32 else 0)) s

def execMbcnt (f : RForm) (s : State) : Out :=
  issueW (shMbcnt f) (fun c =>
    let m := (c.maskOf f.a).toNat
    let b := c.vecN .n32 f.b
    c.doneX (c.part f.g) f (fun l => popNat 32 (m % 2 ^ (l + f.sub.toNat)) + b l)) s

def execCmprs (f : RForm) (s : State) : Out :=
  issueW (shCmprs f) (fun c =>
    let a := c.vecN f.ty f.a
    let sel := lanesOf (c.live &&& c.maskOf f.b)
    let m := c.part f.g &&& BitVec.ofNat 32 (2 ^ sel.length - 1)
    c.doneX m f (fun i => a ((sel[i]?).getD 0))) s

/-! ### Reductions and scans (R186, R187) -/

/-- A value on the way through a tree: exact integer or FP32 bits, with the flags met. -/
structure RedVal where
  v : Int
  fl : Flags
deriving DecidableEq, Repr

/-- The operation of two values. -/
def redOp (sub : Nat) (t : Ty) (rnd : Rnd) (x y : RedVal) : RedVal :=
  let fp (r : FRes) : RedVal := ⟨(r.bits : Int), x.fl ||| y.fl ||| r.fl⟩
  let nt (n : Nat) : RedVal := ⟨(n : Int), 0⟩
  match sub with
  | 0 => if t = .f32 then fp (fadd fp32 rnd (fdecode fp32 x.v.toNat) (fdecode fp32 y.v.toNat)) else ⟨x.v + y.v, 0⟩
  | 1 => if t = .f32 then fp (fminmax fp32 false x.v.toNat y.v.toNat) else ⟨if y.v < x.v then y.v else x.v, 0⟩
  | 2 => if t = .f32 then fp (fminmax fp32 true x.v.toNat y.v.toNat) else ⟨if x.v < y.v then y.v else x.v, 0⟩
  | 3 => nt (x.v.toNat &&& y.v.toNat)
  | 4 => nt (x.v.toNat ||| y.v.toNat)
  | _ => nt (x.v.toNat ^^^ y.v.toNat)

/-- `empty(op)`. -/
def redEmpty (sub : Nat) (t : Ty) : Int :=
  match sub with
  | 1 => if t = .f32 then (fp32.infBits false : Int) else tyHi t
  | 2 => if t = .f32 then (fp32.infBits true : Int) else tyLo t
  | 3 => ((2 ^ tyW t - 1 : Nat) : Int)
  | _ => 0

/-- A lane's value as it enters. -/
def redIn (t : Ty) (x : Nat) : Int := if t = .f32 then (x : Int) else tyVal t x

/-- The register value of a result: integer sums reduce once, at the end (R116). -/
def redOut (sub : Nat) (t : Ty) (sat : Bool) (v : Int) : Nat :=
  if t = .f32 then v.toNat else if sub = 0 then ireduce t sat v else wrapW (tyW t) v

def comb (op : RedVal → RedVal → RedVal) : Option RedVal → Option RedVal → Option RedVal
  | some x, some y => some (op x y)
  | some x, none => some x
  | none, y => y

/-- One level of the tree. -/
def pairs (op : RedVal → RedVal → RedVal) : List (Option RedVal) → List (Option RedVal)
  | x :: y :: rest => comb op x y :: pairs op rest
  | l => l

/-- The fixed binary tree over 32 values. -/
def redTree (op : RedVal → RedVal → RedVal) (t : List (Option RedVal)) : Option RedVal :=
  let f := pairs op
  ((f (f (f (f (f t)))))[0]?).getD none

/-- One step of a scan at distance `k`. -/
def scanStep (op : RedVal → RedVal → RedVal) (k : Nat) (t : List (Option RedVal)) : List (Option RedVal) :=
  ((List.replicate (min k t.length) none ++ t).zip t).map (fun (p : Option RedVal × Option RedVal) => comb op p.1 p.2)

def scanAll (op : RedVal → RedVal → RedVal) (t : List (Option RedVal)) : List (Option RedVal) :=
  [1, 2, 4, 8, 16].foldl (fun t k => scanStep op k t) t

/-- The values that enter: those of the lanes that take part. -/
def Ctx.redLanes (c : Ctx) (f : RForm) : List (Option RedVal) :=
  let a := c.vecN f.ty f.a
  let p := c.part f.g
  (List.range 32).map (fun l => if bit p l then some ⟨redIn f.ty (a l), 0⟩ else none)

/-- The results and flags; FP32 forms are under R164. -/
def Ctx.doneRed (c : Ctx) (f : RForm) (fl : Flags) (out : List Result) : Body :=
  if f.ty = .f32 then c.doneFp 10 fl out else c.done out

def execWred (f : RForm) (s : State) : Out :=
  issueW (shWred f) (fun c =>
    let sub := f.sub.toNat
    let r := redTree (redOp sub f.ty f.rnd) (c.redLanes f)
    let x := redOut sub f.ty f.sat ((r.map (fun v => v.v)).getD (redEmpty sub f.ty))
    let w := tyWide f.ty
    c.doneRed f ((r.map (fun v => v.fl)).getD 0) (match f.d with
      | .s n => outS c.anyActive n.toNat w x
      | o => outV (c.part f.g) (opndNum o) w (fun _ => x))) s

def execWscan (f : RForm) (s : State) : Out :=
  issueW (shWscan f) (fun c =>
    let sub := f.sub.toNat
    let t := scanAll (redOp sub f.ty f.rnd) (c.redLanes f)
    let at_ (l : Nat) : Option RedVal :=
      if f.opx = 1 then (if l = 0 then none else (t[l - 1]?).getD none) else (t[l]?).getD none
    let fl := t.foldl (fun a v => a ||| ((v.map (fun v => v.fl)).getD 0)) (0 : Flags)
    c.doneRed f fl (outV (c.part f.g) (opndNum f.d) (tyWide f.ty)
      (fun l => redOut sub f.ty f.sat (((at_ l).map (fun v => v.v)).getD (redEmpty sub f.ty))))) s

end Sys2Proof.Machine
end

