-- ==== Sys2Proof/Machine/Rook.lean ====
section
/-! DEFINITION. The Rook parameter service (R421-R432): regions, puts and gets, the sum of a block, its update grid,
mirroring, publication and failover. -/

namespace Sys2Proof.Machine

/-! ### Regions and their memory (R421, R422) -/

def State.region (s : State) (i : Nat) : RookRegion := (s.fab.regions[i]?).getD {}
def State.setRegion (s : State) (i : Nat) (f : RookRegion → RookRegion) : State :=
  s.setFab (fun x => { x with regions := x.regions.modify i f })

def RookRegion.expect (r : RookRegion) : Nat := popNat 32 r.cmask.toNat
/-- Slot of a contributor (R422). -/
def RookRegion.slotOf (r : RookRegion) (c : Nat) : Nat := popNat 32 (r.cmask.toNat % 2 ^ c)
def RookRegion.bstr (r : RookRegion) : Nat := 66048 + 16384 * r.expect
def RookRegion.blockVa (r : RookRegion) (b : Nat) : Nat := r.base.toNat + b * r.bstr
def RookRegion.pubVa (r : RookRegion) (b n : Nat) : Nat := r.pubbase.toNat + 8192 * b + 4096 * (n % 2)
def RookRegion.stateVa (r : RookRegion) (b : Nat) : Nat := r.swbase.toNat + 64 * b

/-- A region address in HBM4E, in the context of the region's queue. -/
def State.rkPa (s : State) (i va : Nat) (acc : Acc) : Option Nat :=
  match s.unitXlat (s.qctx (s.region i).uq.toNat).qctx.toNat (BitVec.ofNat 64 va) acc with
  | .ok (.mem pa) => if tierOf pa = some 0 then some pa else none
  | _ => none

/-- Two points of coherence have applied the same writes: a line read at one is what the other would return. -/
def State.sameClock (s : State) (d h : Nat) : Bool :=
  reached (s.die d).vclk (s.clockOf h) && reached (s.clockOf h) (s.die d).vclk

/-- A line at the point of coherence of die `d` (R296), as an engine reads it, with its poison: what the die holds of it, under that the home's,
read there at once where the clocks allow it; `none` while it has to be waited for. -/
def State.planLine (s : State) (d line : Nat) : Option (VReg × Bool) :=
  if s.locked line || s.parked? line || s.atPeer line then none
  else match s.pocRead? d line (BitVec.allOnes 128) false with
    | some r => some (r.1, r.2.2)
    | none =>
      if homeDie line = d ∨ s.sameClock d (homeDie line) = true then
        let r := s.homeRead line
        some (match (s.die d).copy? line with
          | some c => merge (byteBits c.have_) r.1 c.data
          | none => r.1, r.2.2)
      else none

/-- Lines `0` to `n - 1` from a region address. -/
def State.rkLines (s : State) (i va : Nat) : Nat → Option (List (VReg × EReg))
  | 0 => some []
  | n + 1 => match s.rkLines i va n, s.rkPa i (va + 128 * n) .read with
    | some ls, some pa => some (ls ++ [((s.homeRead (pa / 128)).1, (s.homeRead (pa / 128)).2.1)])
    | _, _ => none

/-- Lines written from a region address on; the sidecars too where `sides`. -/
def State.rkWrite (s : State) (i va : Nat) (sides : Bool) (ls : List (VReg × EReg)) : Option State :=
  ((ls.zip (List.range ls.length)).foldl (fun (a : Option State) p => match a with
    | none => none
    | some s => (s.rkPa i (va + 128 * p.2) .write).map (fun pa =>
        s.devWrite none (pa / 128) { data := p.1.1, mask := BitVec.allOnes 128, side := p.1.2,
                                     sideMask := if sides then 0xFF else 0 })) (some s))

/-! ### The state word (R423) -/

/-- A state word; `state` as R423 numbers it. -/
structure RkBlock where
  step : Nat
  state : Nat
  dlx : Bool := false
  part : Bool := false
  skipd : Bool := false
  expect : Nat
  recv : Nat := 0
  rbmp : Nat := 0
  hbmp : Nat := 0
  dlt : Nat := 0
  pstep : Nat
  dup : Nat := 0
  stale : Nat := 0
  far : Nat := 0
  late : Nat := 0
  ugrid : Nat := 0
  ustat : Nat := 0
deriving DecidableEq, Repr

def RkBlock.ofNat (x : Nat) : RkBlock :=
  let f (off lo n : Nat) : Nat := field x (8 * off + lo) n
  { step := f 0 0 48, state := f 0 48 3, dlx := f 0 51 1 == 1, part := f 0 52 1 == 1, skipd := f 0 53 1 == 1,
    expect := f 8 0 6, recv := f 8 8 6, rbmp := f 0xC 0 32, hbmp := f 0x10 0 32, dlt := f 0x18 0 64, pstep := f 0x20 0 48,
    dup := f 0x28 0 16, stale := f 0x28 16 16, far := f 0x2C 0 16, late := f 0x2C 16 16, ugrid := f 0x30 0 32,
    ustat := f 0x34 0 8 }

def RkBlock.toBytes (b : RkBlock) : List Byte :=
  padTo 64 (bytesLE 8 (b.step % 2 ^ 48 + b.state * 2 ^ 48 + b2n b.dlx * 2 ^ 51 + b2n b.part * 2 ^ 52 + b2n b.skipd * 2 ^ 53) ++
    bytesLE 4 (b.expect + 256 * b.recv) ++ bytesLE 4 b.rbmp ++ bytesLE 4 b.hbmp ++ bytesLE 4 0 ++ bytesLE 8 b.dlt ++
    bytesLE 8 (b.pstep % 2 ^ 48) ++ bytesLE 4 (b.dup + 65536 * b.stale) ++ bytesLE 4 (b.far + 65536 * b.late) ++
    bytesLE 4 b.ugrid ++ bytesLE 1 b.ustat)

namespace RkState

def idle : Nat := 0
def gathering : Nat := 1
def complete : Nat := 2
def updating : Nat := 3
def published : Nat := 4
def failed : Nat := 5

end RkState

/-- STEP of IDLE with every field reset (R424). -/
def RookRegion.fresh (r : RookRegion) : RkBlock :=
  { step := r.rstep.toNat, state := RkState.idle, expect := r.expect, pstep := (r.rstep - 1).toNat }

/-- The state of a block: its word, FAILED with 0x49 once the word could not be written (R421). -/
def State.rkBlock? (s : State) (i b : Nat) : Option RkBlock :=
  (s.rkPa i ((s.region i).stateVa b) .read).map (fun pa =>
    let x := RkBlock.ofNat (field (s.homeRead (pa / 128)).1.toNat (8 * (pa % 128)) 512)
    if (s.region i).dead.contains b then { x with state := RkState.failed, ustat := 0x49 } else x)

/-- The block is FAILED, or under HOLD past its deadline. -/
def RookRegion.stalls (r : RookRegion) (x : RkBlock) : Bool :=
  x.state == RkState.failed || (x.state == RkState.gathering && x.dlx && r.policy == 0)

/-- A state word written as one unit. A block whose word cannot be written is FAILED (R421). -/
def State.setRk (s : State) (i b : Nat) (x : RkBlock) : State :=
  match s.rkPa i ((s.region i).stateVa b) .write with
  | some pa => (s.devWrite none (pa / 128) (putOf (pa % 128) x.toBytes)).setRegion i (fun r => { r with
      stalled := if r.stalls x then insertNat b r.stalled else r.stalled.filter (fun k => k != b) })
  | none => s.setRegion i (fun r => { r with stalled := insertNat b r.stalled, dead := insertNat b r.dead })

/-- A block becomes FAILED. -/
def State.failRk (s : State) (i b : Nat) (ustat : Nat) : State :=
  match s.rkBlock? i b with
  | some x => s.setRk i b { x with state := RkState.failed, ustat := ustat }
  | none => s.setRegion i (fun r => { r with stalled := insertNat b r.stalled })

/-! ### Answers (R420) -/

/-- An operation is answered: a warp's kick will take the code, a peer gets it. -/
def State.rookAnswer (s : State) (src : RookSrc) (code : Byte) : State :=
  match src with
  | .own w num => s.setFab (fun f => { f with rookOwn := f.rookOwn.map (fun r =>
      if r.w = w ∧ r.num = num then { r with status := some code } else r) })
  | .peer dev id => s.reply { dev := dev.toNat, id := id, st := .ok, code := code.toNat, station := s.stationOf 0 dev.toNat }

/-- An operation of this device that has not reached its region yet. A peer's comes as a request of the peer (R402, R408). -/
def State.rookNew (s : State) : RookSrc → Bool
  | .own w num => s.fab.rookOwn.any (fun r => r.w == w && r.num == num && !r.arrived)
  | .peer _ _ => false

def State.rookArrived (s : State) : RookSrc → State
  | .own w num => s.setFab (fun f => { f with rookOwn := f.rookOwn.map (fun r =>
      if r.w = w ∧ r.num = num then { r with arrived := true } else r) })
  | .peer _ _ => s

/-- The active region that an identifier names. -/
def State.activeRegion (s : State) (id : BitVec 16) : Option Nat :=
  (List.range 16).find? (fun i => (s.region i).rookid == id && (s.region i).role == 1)

/-- The operation of a warp that a put or get comes from. -/
def State.rookKick? (s : State) (w : WarpId) (num : Nat) : Option Kick :=
  match s.warp? w with
  | none => none
  | some (_, x) => match x.win.ops.find? (fun o => o.num == num) with
    | some { kind := .kick k _, .. } => some k
    | _ => none

/-- The lines of a put or get: a warp's as translated at issue, a peer's as its request gives them (R425, R431). -/
def State.srcLines (s : State) (src : RookSrc) (lines : List Nat) : List Nat :=
  match src with
  | .peer _ _ => lines
  | .own w num => match s.rookKick? w num with
    | some (.rkget _ ls _) | some (.rkput _ ls _) => ls
    | _ => []

/-- What the writes of an operation come to once each has been answered (R403, R406, R420). -/
def outsCode (outs : List PeerOut) : Byte :=
  if outs.any (fun o => match o.answer with
    | some (.drop, _, _) => true
    | _ => false) then 0x34
  else if outs.any PeerOut.failed then 0x30 else 0x00

/-! ### Gets and publication (R430, R431) -/

/-- The 32 lines of a published buffer go to the requester, one line unit each: a peer's as bulk writes, whose answers
the get awaits. -/
def State.serveGet (s : State) (i b t : Nat) (src : RookSrc) (lines : List Nat) : State :=
  match s.rkLines i ((s.region i).pubVa b t) 32 with
  | none => s.rookAnswer src 0x49
  | some ls =>
    let ps := ls.zip (s.srcLines src lines)
    match src with
    | .own _ _ => (ps.foldl (fun s p => s.devLine none p.2 p.1.1 p.1.2) s).rookAnswer src 0x00
    | .peer dev id =>
      if ps.isEmpty then s.rookAnswer src 0x00
      else ps.foldl (fun s p => s.peerPost (.rookGet dev.toNat id) 0 dev.toNat p.2
        (.write p.2 p.1.1 (BitVec.allOnes 128) p.1.2 0xFF true)) s

/-- A peer's get whose writes have all been answered is answered. -/
def State.settleGet (s : State) (dev id : Nat) : State :=
  let outs := s.outOf (.rookGet dev id)
  if outs.isEmpty || outs.any (fun o => o.answer.isNone) then s
  else (s.dropOut (.rookGet dev id)).rookAnswer (.peer (BitVec.ofNat 10 dev) id) (outsCode outs)

/-- The peers' gets that are done are answered. -/
def State.settleGets (s : State) : State :=
  s.fab.out.foldl (fun s o => match o.owner with
    | .rookGet dev id => s.settleGet dev id
    | _ => s) s

/-- The gets that wait for a step are served. -/
def State.serveWaiting (s : State) (i b n : Nat) : State :=
  let mine (g : RookGet) : Bool := g.region == i && g.blk == b && g.step == n
  (s.fab.gets.filter mine).foldl (fun s g => s.serveGet i b n g.src g.lines)
    (s.setFab (fun f => { f with gets := f.gets.filter (fun g => !(mine g)) }))

/-- The subscribers of a region in order: device and receive base. -/
def State.subscribers (s : State) (i : Nat) : Option (List (Nat × Nat)) :=
  (List.range (s.region i).nsub.toNat).foldl (fun a j => match a, s.rkPa i ((s.region i).subl.toNat + 16 * j) .read with
    | some l, some pa => some (l ++ [(s.readNat pa 2 % 1024, s.readNat (pa + 8) 8 % 2 ^ 47)])
    | _, _ => none) (some [])

def subLine (rb b k : Nat) : Nat := (rb + 4224 * b) / 128 + k

/-- The step word of a subscriber. -/
def stepWord (rb b n : Nat) : PeerOp :=
  let p := putOf ((rb + 4224 * b + 4096) % 128) (bytesLE 8 n)
  .write ((rb + 4224 * b + 4096) / 128) p.data p.mask 0 0 true

/-- PUBLISHED(n): the state word, the waiting gets, and the weights to every subscriber; nothing follows a state word that
could not be written (R421). -/
def State.publish (s : State) (i b : Nat) (x : RkBlock) : State :=
  let n := x.step
  let s1 := s.setRk i b { x with state := RkState.published, pstep := n }
  if (s1.region i).dead.contains b then s1
  else
  let s2 := s1.serveWaiting i b n
  match s2.subscribers i, s2.rkLines i ((s2.region i).pubVa b n) 32 with
  | some subs, some ls =>
    subs.foldl (fun s d => (ls.zip (List.range 32)).foldl (fun s p =>
      if d.1 = s.fab.fabid.toNat then s.devLine none (subLine d.2 b p.2) p.1.1 p.1.2
      else s.peerPost (.publish i b) 0 d.1 (subLine d.2 b p.2)
        (.write (subLine d.2 b p.2) p.1.1 (BitVec.allOnes 128) p.1.2 0xFF true)) s) s2
  | _, _ => s2.failRk i b 0x49

/-! ### Lines that are held (R318, R385, R442) -/

/-- A region address cannot be used now: its line, or a table line of its walk, is held. -/
def State.rkStuck (s : State) (i va : Nat) : Bool :=
  match s.unitXlat (s.qctx (s.region i).uq.toNat).qctx.toNat (BitVec.ofNat 64 va) .read with
  | .error t => t.held
  | .ok (.mem pa) => s.lineBusy (pa / 128)
  | _ => false

/-- Some line of `n` bytes from a region address cannot be used now. -/
def State.rkSpanStuck (s : State) (i va n : Nat) : Bool :=
  (List.range ((va % 128 + n + 127) / 128)).any (fun k => s.rkStuck i (va - va % 128 + 128 * k))

/-- Lines of this device that a block's publication writes beside its own: those of its subscribers and waiting gets. -/
def State.publishLines (s : State) (i b : Nat) : List Nat :=
  (((s.subscribers i).getD []).filter (fun d => d.1 == s.fab.fabid.toNat)).flatMap (fun d =>
    (List.range 34).map (subLine d.2 b)) ++
  (s.fab.gets.filter (fun g => g.region == i && g.blk == b)).flatMap (fun g => match g.src with
    | .own _ _ => s.srcLines g.src g.lines
    | .peer _ _ => [])

/-- A line can be held at all: a page moves, or a die is parked. -/
def State.mayHold (s : State) : Bool := !s.castle.moves.isEmpty || s.anyParked

/-- A memory line that the service may use for a block is held: the service waits. -/
def State.rkBusy (s : State) (i b : Nat) : Bool :=
  let r := s.region i
  s.mayHold && (s.rkSpanStuck i (r.stateVa b) 64 || s.rkSpanStuck i (r.blockVa b) r.bstr || s.rkSpanStuck i (r.pubVa b 0) 8192 ||
    s.rkSpanStuck i r.urec.toNat 128 || s.rkSpanStuck i r.subl.toNat (16 * r.nsub.toNat) ||
    (s.publishLines i b).any s.lineBusy)

/-- A put or get cannot be handled now: a line of its block, or its own lines on this device, are held. -/
def State.rookHeld (s : State) (p : RookOp) : Bool :=
  match s.activeRegion p.rook with
  | none => false
  | some i => s.rkBusy i p.blk.toNat || (s.mayHold && (match p.src with
    | .own _ _ => (s.srcLines p.src p.lines).any s.lineBusy
    | .peer _ _ => false))

/-! ### The update of a block (R424, R426-R428) -/

/-- Puts of a block that are being staged. -/
def State.staging (s : State) (i b : Nat) : List RookPut :=
  s.fab.puts.filter (fun p => p.region == i && p.blk == b && !p.held)

/-- The reads of a put's data are given up or taken. -/
def State.dropReads (s : State) (src : RookSrc) : State :=
  match src with
  | .own _ _ => s
  | .peer dev id => s.dropOut (.rookPut dev.toNat id)

/-- Puts still being staged when their block completes come too late. -/
def State.dropStaging (s : State) (i b : Nat) (x : RkBlock) : State × RkBlock :=
  let ps := s.staging i b
  let s1 := ps.foldl (fun s p => ((s.dropReads p.src).rookAnswer p.src 0x45).setRegion i (fun r => { r with latecnt := satInc r.latecnt })) s
  (s1.setFab (fun f => { f with puts := f.puts.filter (fun p => !(p.region == i && p.blk == b && !p.held)) }),
   { x with late := min (x.late + ps.length) 0xFFFF,
            rbmp := ps.foldl (fun m p => m - (if m.testBit p.contrib then 2 ^ p.contrib else 0)) x.rbmp })

def f32add (a b : Word) : Word := add32 a b
def f32mul (a b : Word) : Word := BitVec.ofNat 32 (fmul fp32 .rne (fdecode fp32 a.toNat) (fdecode fp32 b.toNat)).bits
/-- `rne_fp32(a / b)` of two small naturals. -/
def f32quot (a b : Nat) : Word := BitVec.ofNat 32 (fround fp32 .rne false (a * 2 ^ 40 / b) (-40) (a * 2 ^ 40 % b != 0)).bits

/-- One line of G from the lines of the slots, in slot order. -/
def sumLine (slots : List VReg) (scale : Option Word) : VReg :=
  ofLanes (fun l =>
    let g := match slots with
      | [] => 0
      | a :: rest => rest.foldl (fun g v => f32add g (lane v l)) (lane a l)
    match scale with
    | some f => f32mul g f
    | none => g)

/-- G of a block, or `none` where a region address does not translate. -/
def State.sumBlock (s : State) (i b : Nat) (x : RkBlock) : Option State :=
  let r := s.region i
  let ks := ((List.range 32).filter (fun c => x.rbmp.testBit c)).map r.slotOf
  let slots := ks.foldl (fun (a : Option (List (List (VReg × EReg)))) k => match a,
      s.rkLines i (r.blockVa b + 66048 + 16384 * k) 128 with
    | some l, some v => some (l ++ [v])
    | _, _ => none) (some [])
  let scale := if x.part && decide (x.recv < x.expect) then some (f32quot x.expect x.recv) else none
  match slots with
  | none => none
  | some ls =>
    s.rkWrite i (r.blockVa b + 49152) false
      ((List.range 128).map (fun j => (sumLine (ls.map (fun v => ((v[j]?).getD (0, 0)).1)) scale, 0)))

/-- The words of the update grid's constant set that the service gives (R428). -/
def RookRegion.konstWord (r : RookRegion) (b : Nat) (x : RkBlock) (k : Nat) : Word :=
  let lo (v : Nat) : Word := BitVec.ofNat 32 v
  let pub := r.pubVa b x.step
  match k with
  | 118 => lo pub | 119 => lo (pub / 2 ^ 32) | 120 => lo b | 121 => lo x.step | 122 => lo (x.step / 2 ^ 32) | 123 => lo x.recv
  | 124 => lo x.expect | 125 => lo (r.blockVa b) | 126 => lo (r.blockVa b / 2 ^ 32) | _ => lo (b2n x.part)

/-- Line `k` of the update grid's constant set: the template's words, then the service's. -/
def RookRegion.konstLine (r : RookRegion) (b : Nat) (x : RkBlock) (tmpl : VReg) (k : Nat) : VReg :=
  ofLanes (fun l => if 32 * k + l < 118 then lane tmpl l else r.konstWord b x (32 * k + l))

/-- A template that the service cannot launch. -/
def tmplBad (t : VReg) : Bool := !Rec.rkr t || Rec.mstr t || Rec.coop t || Rec.nvar t != 0

/-- The template with KCONST replaced. -/
def withKconst (t : VReg) (va : Nat) : VReg :=
  merge (((2 ^ 64 - 1 : Nat) : VReg) <<< (8 * 0x20)) t (BitVec.ofNat 1024 (va <<< (8 * 0x20)))

/-- What the service launches an update from: the template record and its constants, `wait` for them, or the status that
fails the block. -/
inductive Template where
  | wait (s : State)
  | bad (status : Byte)
  | got (record : VReg) (consts : List VReg)
deriving DecidableEq, Repr

/-- The template of a region and its constant set, at a peer too (R344), as they are now. -/
def State.template (s : State) (i b : Nat) : Template :=
  let qn := (s.region i).uq.toNat
  match s.rkLines i (s.region i).urec.toNat 1 with
  | some [(t, _)] =>
    if tmplBad t then .bad 0x02
    else if s.slotBusy qn then .wait s
    else match s.constsBy (.template i b) (s.qctx qn).qctx.toNat (Rec.kconst t) with
      | .wait s => .wait s
      | .bad => .bad 0x0A
      | .got ks => .got t ks
  | _ => .bad 0x49

/-- The update grid of a block is launched. -/
def State.launchUpdate (s : State) (i b : Nat) (x : RkBlock) (t : VReg) (ks : List VReg) : State :=
  let r := s.region i
  let qn := r.uq.toNat
  let kva := r.blockVa b + 65536
  match s.rkWrite i kva false ((List.range 4).map (fun k => (r.konstLine b x ((ks[k]?).getD 0) k, 0))) with
  | none => s.failRk i b 0x49
  | some s1 =>
    let n := (s1.queue qn).tail
    let f := s1.fillSlot qn (withKconst t kva) true
    if f.2 ≠ 0 then s1.failRk i b f.2.toNat
    else
      (f.1.setQueue qn (fun q => { q with rook := q.rook ++ [(n, i, BitVec.ofNat 32 b)] })).setRk i b
        { x with state := RkState.updating, ugrid := (gridIdOf qn n).toNat }

/-- A COMPLETE block goes on: the sum, then the update grid. -/
def State.updateRk (s : State) (i b : Nat) (x : RkBlock) : State :=
  match s.template i b with
  | .wait t => t
  | tm =>
    let s0 := s.dropOut (.template i b)
    match s0.sumBlock i b x, tm with
    | some s1, .got t ks => s1.launchUpdate i b x t ks
    | some s1, .bad st => s1.failRk i b st.toNat
    | _, _ => s0.failRk i b 0x49

/-- SKIP: the published lines carry over to the step's buffer. -/
def State.skipRk (s : State) (i b : Nat) (x0 : RkBlock) : State :=
  let r := s.region i
  let x : RkBlock := { x0 with skipd := true, part := false }
  let s0 := s.setRk i b x
  match s0.rkLines i (r.pubVa b x.pstep) 32 with
  | none => s0.failRk i b 0x49
  | some ls => match s0.rkWrite i (r.pubVa b x.step) true ls with
    | none => s0.failRk i b 0x49
    | some s1 => s1.publish i b x

/-- COMPLETE; under PARTIAL with nothing received, SKIP. -/
def State.completeRk (s : State) (i b : Nat) (x0 : RkBlock) (part : Bool) : State :=
  let d := s.dropStaging i b x0
  if part && d.2.recv == 0 then d.1.skipRk i b d.2
  else d.1.setRk i b { d.2 with state := RkState.complete, part := part }

/-- What POLICY decides at the deadline (R427). -/
def State.policyRk (s : State) (i b : Nat) (x : RkBlock) : State :=
  match (s.region i).policy.toNat with
  | 0 => (s.setRk i b x).irq (80 + i)
  | 1 => s.completeRk i b x true
  | _ => let d := s.dropStaging i b x; d.1.skipRk i b d.2

/-! ### What is due at a block before its next event (R424, R427) -/

/-- Bit `c` of a bit map is cleared. -/
def clearBit (m c : Nat) : Nat := m - (if m.testBit c then 2 ^ c else 0)

/-- Puts of a block that are held for a step, in ascending contributor order. -/
def State.heldFor (s : State) (i b n : Nat) : List RookPut :=
  (List.range 32).filterMap (fun c => s.fab.puts.find? (fun p =>
    p.region == i && p.blk == b && p.held && p.step == n && p.contrib == c))

/-- The data of an accepted put of a peer are asked for, line by line. -/
def State.askPut (s : State) (p : RookPut) : State :=
  match p.src with
  | .own _ _ => s
  | .peer dev id => p.lines.foldl (fun s l => s.peerPost (.rookPut dev.toNat id) 0 dev.toNat l (.read l 3 false)) s

/-- R424, R468: an idle block accepts the puts held for its step, in ascending contributor order. -/
def State.stageHeld (s : State) (i b : Nat) (x : RkBlock) : State :=
  let hs := s.heldFor i b x.step
  if x.state ≠ RkState.idle ∨ hs.isEmpty = true then s
  else
    let y := { x with state := RkState.gathering, dlt := (s.gtime + (s.region i).dlns.setWidth 64).toNat,
                      rbmp := hs.foldl (fun m p => clearBit m p.contrib + 2 ^ p.contrib) x.rbmp }
    hs.foldl State.askPut ((s.setRk i b y).setFab (fun f => { f with puts := f.puts.map (fun p =>
      if hs.contains p then { p with held := false } else p) }))

/-- R427: GTIME has reached the deadline of a block that gathers; puts accepted before are staged first. -/
def State.deadlineRk (s : State) (i b : Nat) (x : RkBlock) : State :=
  if x.state ≠ RkState.gathering ∨ x.dlx = true ∨ x.dlt = 0 ∨ s.gtime.toNat < x.dlt ∨ (s.region i).role ≠ 1 then s
  else
    let x1 := { x with dlx := true }
    let s1 := s.setRegion i (fun r => { r with dlcnt := satInc r.dlcnt })
    if (s.staging i b).isEmpty then (s1.setRk i b x1).policyRk i b x1
    else
      (s1.setRk i b x1).setFab (fun f => { f with puts := f.puts.map (fun p =>
        if p.region = i ∧ p.blk = b ∧ p.held = false then { p with before := true } else p) })

/-- What is due at a block by now: its held puts, then its deadline. -/
def State.settleRk (s : State) (i b : Nat) : State :=
  match s.rkBlock? i b with
  | none => s
  | some x => if x.state = RkState.idle then s.stageHeld i b x else s.deadlineRk i b x

/-! ### Puts (R425) -/

/-- Counts a drop in the block and the region. -/
def State.dropPut (s : State) (i b : Nat) (x : RkBlock) (code : Byte) : State :=
  let one (n : Nat) : Nat := min (n + 1) 0xFFFF
  match code.toNat with
  | 0x43 => (s.setRk i b { x with dup := one x.dup }).setRegion i (fun r => { r with dupcnt := satInc r.dupcnt })
  | 0x44 => (s.setRk i b { x with stale := one x.stale }).setRegion i (fun r => { r with stalecnt := satInc r.stalecnt })
  | 0x45 => (s.setRk i b { x with late := one x.late }).setRegion i (fun r => { r with latecnt := satInc r.latecnt })
  | _ => (s.setRk i b { x with far := one x.far }).setRegion i (fun r => { r with farcnt := satInc r.farcnt })

/-- Puts in the device's hold queue. -/
def State.heldPuts (s : State) : Nat := (s.fab.puts.filter (fun p => p.queued)).length

/-- A put of a contributor is decided at its block. -/
def State.decidePut (s : State) (i : Nat) (p : RookOp) (c : Nat) (x : RkBlock) : State :=
  let b := p.blk.toNat
  let t := p.step.toNat
  let n := x.step
  let put (held : Bool) : RookPut := { region := i, blk := b, step := t, contrib := c, src := p.src, held := held, queued := held, lines := p.lines }
  let drop (code : Byte) : State := (s.dropPut i b x code).rookAnswer p.src code
  if x.state = RkState.failed then s.rookAnswer p.src 0x45
  else if t < n then drop 0x44
  else if t = n then
    if x.rbmp.testBit c then drop 0x43
    else if RkState.complete ≤ x.state then drop 0x45
    else
      let x1 := { x with rbmp := x.rbmp + 2 ^ c }
      let x2 := if x.state = RkState.idle then
          { x1 with state := RkState.gathering, dlt := (s.gtime + (s.region i).dlns.setWidth 64).toNat } else x1
      ((s.setRk i b x2).setFab (fun f => { f with puts := f.puts ++ [put false] })).askPut (put false)
  else if t = n + 1 then
    if x.hbmp.testBit c then drop 0x43
    else if 1024 ≤ s.heldPuts then s.rookAnswer p.src 0x47
    else (s.setRk i b { x with hbmp := x.hbmp + 2 ^ c }).setFab (fun f => { f with puts := f.puts ++ [put true] })
  else drop 0x46

/-- A put reaches the device. -/
def State.putArrive (s : State) (p : RookOp) (c : Nat) : State :=
  let s1 := s.rookArrived p.src
  match s.activeRegion p.rook with
  | none => s1.rookAnswer p.src 0x40
  | some i =>
    let r := s.region i
    if r.nblk.toNat ≤ p.blk.toNat then s1.rookAnswer p.src 0x41
    else if !(r.cmask.toNat.testBit c) then s1.rookAnswer p.src 0x42
    else
      let s2 := s1.settleRk i p.blk.toNat
      match s2.rkBlock? i p.blk.toNat, s2.rkPa i (r.stateVa p.blk.toNat) .write with
      | some x, some _ => s2.decidePut i p c x
      | some x, none => if x.state = RkState.failed then s2.rookAnswer p.src 0x45 else s2.rookAnswer p.src 0x49
      | none, _ => s2.rookAnswer p.src 0x49

/-- R425: a put of this device reaches its region. -/
def execRookPutArrive (p : RookOp) (contrib : BitVec 5) (s : State) : Out :=
  .next (if s.rookNew p.src && !s.rookHeld p then s.putArrive p contrib.toNat else s)

/-- The 16 KiB of a put. -/
inductive PutData where
  | wait (s : State)
  | failed
  | got (ls : List VReg)
deriving DecidableEq, Repr

/-- The data of a put of this device, as the point of coherence of its warp's die has them (R307). -/
def State.ownPutData (s : State) (w : WarpId) (ls : List Nat) : PutData :=
  let d := match s.warp? w with
    | some (b, _) => dieOfCore b.core
    | none => 0
  if ls.isEmpty then .failed
  else ls.foldl (fun a l => match a with
    | .got xs => match s.planLine d l with
      | none => .wait (s.requestLine d l)
      | some (_, true) => .failed
      | some (v, false) => .got (xs ++ [v])
    | o => o) (.got [])

/-- The data of a put: a peer's come with the answers to its reads. -/
def State.putData (s : State) (p : RookPut) : PutData :=
  match p.src with
  | .own w _ => s.ownPutData w (s.srcLines p.src p.lines)
  | .peer dev id =>
    let outs := s.outOf (.rookPut dev.toNat id)
    if outs.any (fun o => o.answer.isNone) then .wait s
    else if outs.isEmpty || outs.any PeerOut.failed then .failed
    else .got (outs.map (fun o => match o.answer with
      | some (_, v, _) => v
      | none => 0))

/-- RCMD 2 (`part`) or 3 on a block: held past its deadline it completes, once the puts accepted before are staged. -/
def State.forceRk (s : State) (i b : Nat) (part : Bool) : State :=
  match s.rkBlock? i b with
  | none => s
  | some x =>
    if x.state = RkState.gathering ∧ x.dlx = true ∧ (s.region i).policy = 0 ∧ (s.region i).role = 1 then
      if (s.staging i b).any (fun p => p.before) then
        s.setRegion i (fun r => { r with forced := r.forced.filter (fun q => q.1 != b) ++ [(b, part)] })
      else if part then s.completeRk i b x true
      else let d := s.dropStaging i b x; d.1.skipRk i b d.2
    else s

/-- The deadline of a block takes effect, and the command that came while puts accepted before were still staged. -/
def State.lateRk (s : State) (i b : Nat) (x : RkBlock) : State :=
  let s1 := s.policyRk i b x
  match (s.region i).forced.find? (fun q => q.1 == b) with
  | none => s1
  | some q => (s1.setRegion i (fun r => { r with forced := r.forced.filter (fun q => q.1 != b) })).forceRk i b q.2

/-- After a put has been staged or has failed: the block completes, or its expired deadline takes effect. -/
def State.afterStaging (s : State) (i b : Nat) (wasBefore : Bool) : State :=
  match s.rkBlock? i b with
  | none => s
  | some x =>
    if x.state ≠ RkState.gathering then s
    else if x.recv = x.expect then
      (s.setRegion i (fun r => { r with forced := r.forced.filter (fun q => q.1 != b) })).completeRk i b x false
    else if wasBefore && x.dlx && (s.staging i b).all (fun p => !p.before) then s.lateRk i b x
    else s

/-- The code of a put whose block's state word is written last: 0x49 where that failed (R421). -/
def State.stagedCode (s : State) (i b : Nat) : Byte := if (s.region i).dead.contains b then 0x49 else 0x00

/-- A put is staged, or its data could not be read or written. A block that has become FAILED takes it no more (R425). -/
def State.stagePut (s : State) (i b : Nat) (p : RookPut) (x : RkBlock) : State :=
  let r := s.region i
  let s1 := (s.setFab (fun f => { f with puts := f.puts.filter (fun q => q != p) })).dropReads p.src
  if x.state = RkState.failed then s1.rookAnswer p.src 0x45
  else match s.putData p with
    | .wait t => t
    | .failed =>
      let s2 := s1.setRk i b { x with rbmp := clearBit x.rbmp p.contrib }
      (s2.rookAnswer p.src 0x30).afterStaging i b p.before
    | .got ls =>
      match s1.rkWrite i (r.blockVa b + 66048 + 16384 * r.slotOf p.contrib) false (ls.map (fun v => (v, 0))) with
      | none => (s1.rookAnswer p.src 0x49).failRk i b 0x49
      | some s2 =>
        let s3 := s2.setRk i b { x with recv := x.recv + 1 }
        (s3.rookAnswer p.src (s3.stagedCode i b)).afterStaging i b p.before

/-- A put that came from the hold queue is not the lowest contributor of those (R424). -/
def State.outOfTurn (s : State) (p : RookPut) : Bool :=
  p.queued && s.fab.puts.any (fun q =>
    q.region == p.region && q.blk == p.blk && !q.held && q.queued && decide (q.contrib < p.contrib))

/-- R424, R425: what is due at a block takes place, then the data of one of its puts are staged. `peerData` has no part
in it: the data of a peer come by read requests. -/
def execRookStagingDone (i : BitVec 4) (blk : Word) (c : BitVec 5) (_peerData : Option (List Word)) (s : State) : Out :=
  let n := i.toNat
  let b := blk.toNat
  .next (if s.rkBusy n b then s
    else
      let s1 := s.settleRk n b
      match s1.fab.puts.find? (fun p => p.region == n && p.blk == b && p.contrib == c.toNat && !p.held), s1.rkBlock? n b with
      | some p, some x => if s1.outOfTurn p then s1 else s1.stagePut n b p x
      | some p, none =>
        ((((s1.setFab (fun f => { f with puts := f.puts.filter (fun q => q != p) })).dropReads p.src).rookAnswer p.src
          0x49).failRk n b 0x49)
      | none, _ => s1)

/-! ### Deadlines and commands on held blocks (R427) -/

/-- R424, R427: what is due at a block by now takes place: its held puts are accepted, or its deadline expires. -/
def execRookDeadline (s : State) : Out :=
  .next (if s.rkBusy s.on.n s.on.m then s else s.settleRk s.on.n s.on.m)

/-- The blocks that RBLK names. -/
def State.rblkList (s : State) (i : Nat) : List Nat :=
  let r := s.region i
  if r.rblk = 0xFFFFFFFF then List.range r.nblk.toNat else if r.rblk.toNat < r.nblk.toNat then [r.rblk.toNat] else []

/-- RCMD 2 and 3: every block held past its deadline completes; a deadline that is due expires first. -/
def State.forceHeld (s : State) (i : Nat) (partial_ : Bool) : State :=
  (s.rblkList i).foldl (fun s b => (s.settleRk i b).forceRk i b partial_) s

/-- A memory line that a write of region `i`'s descriptor, or a command to it, may use is held. -/
def State.regionBusy (s : State) (i : Nat) : Bool :=
  let r := s.region i
  s.mayHold && ([r.base, r.swbase, r.pubbase, r.urec, r.subl].any (fun a => s.rkStuck i a.toNat) ||
    (List.range r.nblk.toNat).any (s.rkBusy i))

def execRookForcePartial (s : State) : Out := .next (s.served (if s.regionBusy s.on.n then s else s.forceHeld s.on.n true))
def execRookForceSkip (s : State) : Out := .next (s.served (if s.regionBusy s.on.n then s else s.forceHeld s.on.n false))

/-! ### The end of an update, the mirror, publication (R424, R429, R430) -/

/-- The bulk writes of a block's image to its mirror. -/
def State.mirrorOps (s : State) (i b : Nat) (x : RkBlock) : Option (List PeerOp) :=
  let r := s.region i
  let op (k : Nat) (d : VReg × EReg) : PeerOp :=
    .rookMirror r.rookid (BitVec.ofNat 32 b) (BitVec.ofNat 48 x.step) k d.1 d.2
  match s.rkLines i (r.blockVa b) 384, s.rkLines i (r.pubVa b x.step) 32 with
  | some ws, some ps =>
    let word : RkBlock := { x with state := RkState.published, pstep := x.step }
    some (((ws ++ ps).zip (List.range 416)).map (fun p => op p.2 p.1) ++
      [op 416 (BitVec.ofNat 1024 (natLE word.toBytes), 0)])
  | _, _ => none

def State.mirrorStart (s : State) (i b : Nat) (x : RkBlock) : State :=
  match s.mirrorOps i b x with
  | none => s.failRk i b 0x49
  | some ops => ops.foldl (fun s op => s.peerSend (.mirror i b) 0 (s.region i).mpeer.toNat 0 op) s

/-- The update grid of a block has ended. -/
def State.updateEnded (s : State) (i b : Nat) : State :=
  match s.fab.ends.find? (fun e => e.region == i && e.blk == b) with
  | none => s
  | some e =>
    let s1 := s.setFab (fun f => { f with ends := f.ends.filter (fun q => q != e) })
    match s1.rkBlock? i b with
    | none => s1.failRk i b 0x49
    | some x =>
      if x.state ≠ RkState.updating ∨ x.ugrid ≠ e.grid.toNat then s1
      else if e.status ≠ 0 then s1.failRk i b e.status.toNat
      else
        let y := { x with ustat := 0 }
        if (s1.region i).men then (s1.setRk i b y).mirrorStart i b y else s1.publish i b y

/-- R424: a COMPLETE block forms its sum and launches its update grid; the update grid of an UPDATING block has ended. -/
def execRookUpdateDone (s : State) : Out :=
  let i := s.on.n
  let b := s.on.m
  .next (if s.rkBusy i b then s
    else match s.rkBlock? i b with
      | some x => if x.state = RkState.complete then s.updateRk i b x else s.updateEnded i b
      | none => s.updateEnded i b)

/-- R429: every mirror write has been answered: the block is published, or tries again after DLNS. -/
def execRookMirrorDone (s : State) : Out :=
  let i := s.on.n
  let b := s.on.m
  let outs := s.outOf (.mirror i b)
  .next (if s.rkBusy i b || outs.isEmpty || outs.any (fun o => o.answer.isNone) then s
    else
      let s1 := s.dropOut (.mirror i b)
      if outs.any PeerOut.failed then
        s1.setFab (fun f => { f with retries := f.retries ++
          [{ region := i, blk := b, at_ := s.now + (s.region i).dlns.toNat }] })
      else match s1.rkBlock? i b with
        | some x => if x.state = RkState.updating then s1.publish i b x else s1
        | none => s1.failRk i b 0x49)

/-- R429: a mirror stream that failed starts again. -/
def execRookMirrorRetry (s : State) : Out :=
  let i := s.on.n
  let b := s.on.m
  .next (match s.fab.retries.find? (fun r => r.region == i && r.blk == b) with
    | none => s
    | some r =>
      if s.now < r.at_ ∨ s.rkBusy i b = true then s
      else
        let s1 := s.setFab (fun f => { f with retries := f.retries.filter (fun q => q != r) })
        match s1.rkBlock? i b with
        | some x => if x.state = RkState.updating then s1.mirrorStart i b x else s1
        | none => s1.failRk i b 0x49)

/-- IDLE(n + 1) (R468). -/
def RkBlock.next (x : RkBlock) : RkBlock :=
  { x with step := (x.step + 1) % 2 ^ 48, state := RkState.idle, dlx := false, part := false, skipd := false, recv := 0,
           rbmp := 0, hbmp := 0, dlt := 0 }

/-- A subscriber some line of whose weights could not be written takes no step word: it would stand with older weights
(R430). -/
def State.subFailed (s : State) (outs : List PeerOut) (b : Nat) (d : Nat × Nat) : Bool :=
  if d.1 = s.fab.fabid.toNat then (List.range 32).any (fun k => s.lost (subLine d.2 b k))
  else outs.any (fun o => o.failed && o.dev == d.1 && decide (subLine d.2 b 0 ≤ peerLine o.op) &&
    decide (peerLine o.op < subLine d.2 b 32))

/-- R424, R430: after its lines have been performed every subscriber takes its step word; then the block goes on. -/
def execRookPublishDone (s : State) : Out :=
  let i := s.on.n
  let b := s.on.m
  let outs := s.outOf (.publish i b)
  .next (match s.rkBlock? i b, s.subscribers i with
    | some x, some subs =>
      if x.state ≠ RkState.published ∨ s.rkBusy i b = true then s
      else if outs.any (fun o => o.answer.isNone) then s
      else
        let good := subs.filter (fun d => !(s.subFailed outs b d))
        let words := good.map (fun d => (d.1, stepWord d.2 b x.step))
        let remote := words.filter (fun d => d.1 != s.fab.fabid.toNat)
        if !remote.isEmpty && !(outs.any (fun o => remote.any (fun d => d.1 == o.dev && d.2 == o.op))) then
          remote.foldl (fun s d => s.peerPost (.publish i b) 0 d.1 (peerLine d.2) d.2) s
        else
          let s1 := good.foldl (fun s d => if d.1 = s.fab.fabid.toNat then
            s.devBytes none (d.2 + 4224 * b + 4096) (bytesLE 8 x.step) else s) (s.dropOut (.publish i b))
          s1.setRk i b x.next
    | some x, none => if x.state = RkState.published then (s.dropOut (.publish i b)).failRk i b 0x49 else s
    | none, _ => s)

/-! ### Gets (R431) -/

/-- A get reaches the device. -/
def State.getArrive (s : State) (p : RookOp) : State :=
  let s1 := s.rookArrived p.src
  match s.activeRegion p.rook with
  | none => s1.rookAnswer p.src 0x40
  | some i =>
    let b := p.blk.toNat
    if (s.region i).nblk.toNat ≤ b then s1.rookAnswer p.src 0x41
    else match s.rkBlock? i b with
      | none => s1.rookAnswer p.src 0x49
      | some x =>
        let t := p.step.toNat
        if t = x.pstep then s1.serveGet i b t p.src p.lines
        else if (t + 1) % 2 ^ 48 = x.pstep then
          if x.state = RkState.updating ∧ x.step = (x.pstep + 1) % 2 ^ 48 then s1.rookAnswer p.src 0x44 else s1.serveGet i b t p.src p.lines
        else if t = x.step then
          s1.setFab (fun f => { f with gets := f.gets ++ [{ region := i, blk := b, step := t, src := p.src, at_ := s.now, lines := p.lines }] })
        else s1.rookAnswer p.src (if t < x.step then 0x44 else 0x46)

/-- R431: a get of this device reaches its region. -/
def execRookGetArrive (p : RookOp) (s : State) : Out :=
  .next (if s.rookNew p.src && !s.rookHeld p then s.getArrive p else s)

/-- R431: the get at place `n` of region `i` has waited DLNS. -/
def execRookGetTimeout (i : BitVec 4) (n : Nat) (s : State) : Out :=
  .next (match (s.fab.gets.filter (fun g => g.region == i.toNat))[n]? with
    | some g =>
      if g.at_ + (s.region i.toNat).dlns.toNat ≤ s.now then
        (s.setFab (fun f => { f with gets := f.gets.filter (fun q => q != g) })).rookAnswer g.src 0x48
      else s
    | none => s)

/-! ### Reset, failover and the descriptor (R421, R424, R432) -/

/-- Everything of a region that waits is answered 0x44 or forgotten. -/
def State.clearRegion (s : State) (i : Nat) : State :=
  let s1 := (s.fab.puts.filter (fun p => p.region == i)).foldl (fun s p => (s.dropReads p.src).rookAnswer p.src 0x44) s
  let s2 := (s1.fab.gets.filter (fun g => g.region == i)).foldl (fun s g => s.rookAnswer g.src 0x44) s1
  let mine (w : PeerOwner) : Bool := match w with
    | .mirror r _ | .publish r _ | .template r _ => r == i
    | _ => false
  s2.setFab (fun f => { f with puts := f.puts.filter (fun p => p.region != i), gets := f.gets.filter (fun g => g.region != i),
                               retries := f.retries.filter (fun r => r.region != i), ends := f.ends.filter (fun e => e.region != i),
                               out := f.out.filter (fun o => !(mine o.owner)) })

/-- RCMD 4: every block is IDLE(RSTEP). -/
def State.resetRegion (s : State) (i : Nat) : State :=
  (List.range (s.region i).nblk.toNat).foldl (fun s b => s.setRk i b (s.region i).fresh)
    ((s.clearRegion i).setRegion i (fun r => { r with stalled := [], dead := [], forced := [] }))

def execRookReset (s : State) : Out := .next (s.served (if s.regionBusy s.on.n then s else s.resetRegion s.on.n))

/-- RCMD 1: a mirror becomes active, and its published blocks go on to the next step. -/
def State.activateMirror (s : State) (i : Nat) : State :=
  if (s.region i).role ≠ 2 then s
  else (List.range (s.region i).nblk.toNat).foldl (fun s b => match s.rkBlock? i b with
    | some x =>
      if x.state = RkState.published then
        s.setRk i b { x.next with pstep := x.step }
      else s
    | none => s) (s.setRegion i (fun r => { r with role := 1 }))

def execRookActivateMirror (s : State) : Out := .next (s.served (if s.regionBusy s.on.n then s else s.activateMirror s.on.n))

/-- A write of a 4- or 8-byte register access into a 32-bit or 64-bit register at `base`. -/
def put32 (old : Word) (base off : Nat) (wide : Bool) (val : DWord) : Word :=
  if off = base then lo32 val else if wide = true ∧ off + 4 = base then hi32 val else old
def put64 (old : DWord) (base off : Nat) (wide : Bool) (val : DWord) : DWord :=
  if off = base then (if wide then val else join64 (hi32 old) (lo32 val))
  else if off = base + 4 then join64 (lo32 val) (lo32 old) else old
/-- The access covers the 32-bit register at `base`. -/
def covers32 (base off : Nat) (wide : Bool) : Bool := off == base || (wide && off + 4 == base)

/-- The RW fields of a descriptor after a write. -/
def RookRegion.put (r : RookRegion) (off : Nat) (wide : Bool) (val : DWord) : RookRegion :=
  let w32 (old : Word) (base : Nat) : Word := put32 old base off wide val
  let w64 (old : DWord) (base : Nat) : DWord := put64 old base off wide val
  let w0 := w32 (BitVec.ofNat 32 (r.rookid.toNat + 65536 * r.role.toNat + 262144 * r.policy.toNat)) 0
  let mp := w32 (BitVec.ofNat 32 (r.mpeer.toNat + 1024 * b2n r.men)) 0x44
  let a57 (x : DWord) : DWord := x &&& BitVec.ofNat 64 (2 ^ 57 - 1)
  { r with
    rookid := w0.extractLsb' 0 16, role := w0.extractLsb' 16 2, policy := w0.extractLsb' 18 2,
    cmask := w32 r.cmask 4, nblk := w32 r.nblk 8, base := a57 (w64 r.base 0x10), swbase := a57 (w64 r.swbase 0x18),
    pubbase := a57 (w64 r.pubbase 0x20), urec := a57 (w64 r.urec 0x28),
    uq := (w32 (r.uq.setWidth 32) 0x30).setWidth 6, dlns := w32 r.dlns 0x34, subl := a57 (w64 r.subl 0x38),
    nsub := (w32 (r.nsub.setWidth 32) 0x40).setWidth 6, mpeer := mp.extractLsb' 0 10, men := bit mp 10,
    rstep := (w64 (r.rstep.setWidth 64) 0x48).setWidth 48, rblk := w32 r.rblk 0x6C }

/-- The checks of a descriptor write with ROLE not 0. -/
def State.descriptorOk (s : State) (i : Nat) : Bool :=
  let r := s.region i
  r.cmask != 0 && r.dlns != 0 && r.role != 3 && r.policy != 3 && r.base.toNat % 4096 == 0 && r.swbase.toNat % 64 == 0 &&
  r.pubbase.toNat % 4096 == 0 && r.urec.toNat % 128 == 0 &&
  ([r.base, r.swbase, r.pubbase, r.urec] ++ (if r.nsub = 0 then [] else [r.subl])).all (fun a => (s.rkPa i a.toNat .read).isSome)

/-- Another region that is on has the same identifier. -/
def State.sameId (s : State) (i : Nat) : List Nat :=
  (List.range 16).filter (fun j => j != i && (s.region j).role != 0 && (s.region j).rookid == (s.region i).rookid)

/-- A region turns off with RERR set. -/
def State.refuseRegion (s : State) (i : Nat) : State := s.setRegion i (fun r => { r with role := 0, rerr := true })

/-- RCMD. -/
def State.rookCmd (s : State) (i cmd : Nat) : State :=
  match cmd with
  | 1 => s.activateMirror i
  | 2 => s.forceHeld i true
  | 3 => s.forceHeld i false
  | 4 => s.resetRegion i
  | _ => s

/-- A write into the descriptor of region `i`; it is not taken while a memory line that it needs is held. -/
def State.regionWrite (s : State) (i off : Nat) (wide : Bool) (val : DWord) : State :=
  let old := (s.region i).role
  let s1 := s.setRegion i (fun r => r.put off wide val)
  if s.regionBusy i || s1.regionBusy i then s else
  let s2 :=
    if 0x50 ≤ off then s1
    else if (s1.region i).role = 0 then s1.setRegion i (fun r => { r with rerr := false })
    else if !(s1.descriptorOk i) then s1.refuseRegion i
    else match s1.sameId i with
      | [] =>
        let s2 := s1.setRegion i (fun r => { r with rerr := false })
        if old = 0 then s2.resetRegion i else s2
      | js => (js.foldl State.refuseRegion s1).refuseRegion i
  if covers32 0x68 off wide then s2.rookCmd i (put32 0 0x68 off wide val).toNat else s2

/-- R421: the host writes a region's descriptor. -/
def execRookRegionWrite (i : BitVec 4) (off : BitVec 7) (wide : Bool) (val : DWord) (s : State) : Out :=
  .next (s.served (s.regionWrite i.toNat off.toNat wide val))

end Sys2Proof.Machine
end

