-- ==== Sys2Proof/Machine/Fabric.lean ====
section
/-! DEFINITION. UALink: requests from peers and responses to our own (R398-R403), bulk admission (R404-R406), die reset,
incarnations and fences (R407-R409), key installation (R413, R414), and the descriptors of flows (R410). -/

namespace Sys2Proof.Machine

/-! ### Stations -/

/-- R399: a device without an identifier trains no station. -/
def execStationLinkChange (st : BitVec 4) (up : Bool) (s : State) : Out :=
  let m : BitVec 16 := 1 <<< st.toNat
  .next (s.setFab (fun f => { f with stup := if up then (if f.fvalid then f.stup ||| m else f.stup) else f.stup &&& ~~~m }))

/-! ### Bulk admission at the target (R404, R405) -/

def bulkRoom : Nat := 1048576

/-- The window of a reservation is open: from TG for 20,000 ns. -/
def Reservation.open_ (r : Reservation) (now : Nat) : Bool := decide (r.start ≤ now) && decide (now < r.start + 20000)

/-- Bytes set aside at a station by windows that are open. -/
def Fabric.aside (f : Fabric) (now st : Nat) : Nat :=
  sumNat ((f.rsv.filter (fun r => r.station == st && r.open_ now)).map (fun r => r.bytes))

/-- The window of a source that has begun, with room for `n` bytes. A write sent inside its 20,000 ns can still be on its way
when they are over. -/
def Fabric.windowOf (f : Fabric) (now src st n : Nat) : Option Reservation :=
  f.rsv.find? (fun r => r.src == src && r.station == st && decide (r.start ≤ now) && decide (n ≤ r.bytes))

/-- The bytes of an admitted write may lie in the station's buffer. -/
def Fabric.fill (f : Fabric) (st n : Nat) : Fabric :=
  { f with bulk := f.bulk.set st (min ((f.bulk[st]?).getD 0 + n) bulkRoom) }

/-- How a bulk write of `n` bytes fares: admitted, with the state that keeps count, or dropped. A write that might find
the buffer full is admitted or dropped freely; bytes set aside for others are never free. -/
def State.takeBulk (s : State) (src st n : Nat) : State × Bool :=
  match s.fab.windowOf s.gtime.toNat src st n with
  | some w => (s.setFab (fun f => { f.fill st n with
      rsv := f.rsv.map (fun r => if r = w then { r with bytes := r.bytes - n } else r) }), true)
  | none =>
    let have_ := (s.fab.bulk[st]?).getD 0
    let aside := s.fab.aside s.gtime.toNat st
    let s1 := { s with freeCtr := s.freeCtr + 1 }
    if have_ + aside + n ≤ bulkRoom ∨ (aside + n ≤ bulkRoom ∧ Config.freeBool s.freeCtr 0 = true) then
      (s1.setFab (fun f => f.fill st n), true)
    else (s1.setFab (fun f => { f with dropcnt := satInc f.dropcnt }), false)

/-- The first time from which `bytes` more can be set aside: after the grants that they would overlap. -/
def Fabric.grantTime (f : Fabric) (now st bytes : Nat) : Nat :=
  let held := sumNat ((f.rsv.filter (fun r => r.station == st)).map (fun r => r.bytes))
  if held + bytes ≤ bulkRoom then now
  else (f.rsv.filter (fun r => r.station == st)).foldl (fun t r => max t (r.start + 20000)) now

/-- A reservation request is granted, in order of arrival. -/
def State.reserve (s : State) (src st bytes id : Nat) : State :=
  let n := min bytes bulkRoom
  let tg := s.fab.grantTime s.gtime.toNat st n
  (s.setFab (fun f => { f with rsv := f.rsv ++ [{ src := src, station := st, bytes := n, start := tg }],
                               rsvcnt := satInc f.rsvcnt })).reply { dev := src, id := id, st := .ok, code := tg, station := st }

/-- The die of a request is not in the incarnation last announced (R408). -/
def State.staleFrom (s : State) (src : BitVec 10) (d : BitVec 2) (inc : BitVec 16) : Bool :=
  !s.fab.rstpol && tget 0 s.fab.peerInc (4 * src.toNat + d.toNat) != inc

/-- A packet is dropped for its incarnation. -/
def State.dropStale (s : State) : State := s.setFab (fun f => { f with incdrop := satInc f.incdrop })

/-- R405, R408: a source asks this device to set bytes aside. -/
def execBulkReservationRequest (src : PeerFrom) (station : BitVec 4) (bytes : Nat) (s : State) : Out :=
  .next (if !s.fab.fvalid then s
    else if s.staleFrom src.dev src.die src.inc then s.dropStale
    else s.reserve src.dev.toNat station.toNat bytes 0)

/-- R405: from TG on a dropped write that has a window is sent again by its source (`m` = 1). At a target the reserved
bytes are set aside from TG by the passing of time alone. -/
def execReservationWindowStart (s : State) : Out :=
  let n := s.on.n
  .next (if s.on.m = 1 then
      match s.fab.out.find? (fun o => o.id == n) with
      | some o => match o.window with
        | some tg => if s.gtime.toNat < tg then s else s.resendOut { o with window := none }
        | none => s
      | none => s
    else s)

/-- R405: a window is over 20,000 ns after its grant time, and TREQ after that no write sent inside it can still arrive
(R403): its entry goes. -/
def execReservationWindowExpire (s : State) : Out :=
  .next (match s.fab.rsv[s.on.n]? with
    | some r => if r.start + 20000 + s.fab.treq.toNat ≤ s.gtime.toNat then
        s.setFab (fun f => { f with rsv := f.rsv.eraseIdx s.on.n }) else s
    | none => s)

/-! ### Announcements, notices and die reset (R407-R409) -/

/-- R407: the INC that a device announces for a die; its fence is lifted. -/
def State.announced (s : State) (dev d : Nat) (inc : BitVec 16) : State :=
  s.setFab (fun f => { f with peerInc := tset 0 (4 * dev + d) inc f.peerInc,
                              fences := f.fences.filter (fun p => p.1 != 4 * dev + d),
                              fenceAcks := f.fenceAcks.filter (fun k => k != 4 * dev + d) })

/-- Requests that have not left to a fenced line end with error. -/
def State.failUnsent (s : State) (dev d : Nat) : State :=
  s.setFab (fun f => { f with out := f.out.map (fun o =>
    if o.fence = some (4 * dev + d) ∧ o.left = none ∧ o.answer = none then { o with answer := some peerError } else o) })

/-- R409: a notice fences the lines of a die. -/
def State.noticed (s : State) (dev d : Nat) : State :=
  (s.setFab (fun f => { f with fences := f.fences.filter (fun p => p.1 != 4 * dev + d) ++ [(4 * dev + d, s.now)],
                               fenceAcks := f.fenceAcks.filter (fun k => k != 4 * dev + d) })).failUnsent dev d

/-- A device that has fenced a die acknowledges once no request to its lines is under way. -/
def State.ackFences (s : State) : State :=
  let quiet (k : Nat) : Bool := s.fab.out.all (fun o =>
    o.answer.isSome || o.left.isNone || o.fence != some k)
  let ready := (s.fab.fences.map Prod.fst).filter (fun k => !(s.fab.fenceAcks.contains k) && quiet k)
  ready.foldl (fun s k => (s.reply { dev := k / 4, id := 0, st := .ok, code := k % 4, station := s.stationOf 0 (k / 4) }).setFab (fun f =>
    { f with fenceAcks := f.fenceAcks ++ [k] })) s

def State.acked (s : State) (dev : Nat) : State :=
  s.setFab (fun f => { f with quiesce := f.quiesce.map (fun q => { q with acks := insertNat dev q.acks }) })

def execIncarnationAnnounce (dev : BitVec 10) (d : BitVec 2) (inc : BitVec 16) (s : State) : Out :=
  .next (if s.fab.fvalid then s.announced dev.toNat d.toNat inc else s)

def execQuiesceNotice (dev : BitVec 10) (d : BitVec 2) (s : State) : Out :=
  .next (if s.fab.fvalid then ((s.noticed dev.toNat d.toNat).ackFences).settleGets else s)

def execQuiesceAcknowledge (dev : BitVec 10) (s : State) : Out := .next (s.acked dev.toNat)

/-- Every device of the fabric has acknowledged. -/
def State.allAcked (s : State) (q : Quiesce) : Bool :=
  (List.range 1024).all (fun d => d == s.fab.fabid.toNat || !(Config.joined d) || q.acks.contains d)

/-- The hub's messages that have been answered, with an error too, are over. -/
def State.sweepHub (s : State) : State :=
  s.setFab (fun f => { f with out := f.out.filter (fun o => o.owner != .hub || o.answer.isNone) })

/-- The hub tells every other device of the fabric, by requests of die `d` (R401, R407, R409, R413); without an identifier
the device is on none. -/
def State.tell (s : State) (d : Nat) (op : PeerOp) : State :=
  if !s.fab.fvalid then s
  else (((List.range 1024).filter (fun k => k != s.fab.fabid.toNat && Config.joined k)).foldl (fun s k =>
    s.peerPost .hub d k 0 op) s).sweepHub

/-- A die is reset: its incarnation rises and is announced, the requests that it has outstanding are forgotten, and its
`CLOCK` starts again (R263). -/
def State.resetDie (s : State) (d : Nat) : State :=
  match s.fab.inc[d]? with
  | none => s
  | some i => ((s.setFab (fun f => { f with
      inc := f.inc.set d (i + 1), out := f.out.filter (fun o => o.die != d), quiesce := none })).setDie d (fun x =>
        { x with clk0 := s.clkOf d })).tell d (.announce (BitVec.ofNat 2 d) (i + 1))

/-- R407, R409: the die that the turn names is reset, after the acknowledgements under QUIESCE. -/
def execDieReset (s : State) : Out :=
  let d := s.on.n
  .next (if !s.fab.rstpol then s.resetDie d
    else match s.fab.quiesce with
      | none => (s.setFab (fun f => { f with quiesce := some { die := d, since := s.now } })).tell d (.notice (BitVec.ofNat 2 d))
      | some q =>
        if q.die = d ∧ (s.allAcked q = true ∨ q.since + 2 * s.fab.treq.toNat ≤ s.now) then s.resetDie d else s)

/-! ### Requests from peers (R402-R404, R408) -/

/-- The die of a request is not in the incarnation last announced. -/
def State.staleInc (s : State) (r : PeerReq) : Bool := s.staleFrom r.src r.die r.inc

/-- A peer's access to a line waits: a Castle lock, or a parked die. -/
def State.peerWaits (s : State) (line : Nat) : Bool := s.locked line || s.parked? line

def State.answerTo (s : State) (r : PeerReq) (st : PeerStatus) (data : VReg := 0) (side : EReg := eInit) (data2 : VReg := 0) : State :=
  s.reply { dev := r.src.toNat, id := r.id, st := st, data := data, side := side, data2 := data2, station := r.station.toNat }

/-- A mirror write is performed at the region with its identifier (R429). -/
def State.mirrorWrite (s : State) (rook : BitVec 16) (b n part : Nat) (data : VReg) (side : EReg) : Option State :=
  match (List.range 16).find? (fun i => (s.region i).rookid == rook && (s.region i).role == 2) with
  | none => none
  | some i =>
    let r := s.region i
    if r.nblk.toNat ≤ b then none
    else if part < 384 then s.rkWrite i (r.blockVa b + 128 * part) false [(data, 0)]
    else if part < 416 then s.rkWrite i (r.pubVa b n + 128 * (part - 384)) true [(data, side)]
    else (s.rkPa i (r.stateVa b) .write).map (fun _ => s.setRk i b (RkBlock.ofNat (field data.toNat 0 512)))

/-- A line of the mirror's block is held. -/
def State.mirrorBusy (s : State) (rook : BitVec 16) (b : Nat) : Bool :=
  match (List.range 16).find? (fun i => (s.region i).rookid == rook && (s.region i).role == 2) with
  | none => false
  | some i => s.rkBusy i b

/-- A bulk write of `n` bytes is admitted and performed, or dropped whole. -/
def State.bulkThen (s : State) (r : PeerReq) (n : Nat) (f : State → State × PeerStatus) : State :=
  match s.takeBulk r.src.toNat r.station.toNat n with
  | (s1, false) => s1.answerTo r .drop
  | (s1, true) => (f s1).1.answerTo r (f s1).2

/-- The bytes of 64-B halves of a line. -/
def halfMask (h : BitVec 2) : BitVec 128 :=
  (if bit h 0 then (0xFFFFFFFFFFFFFFFF : BitVec 128) else 0) ||| (if bit h 1 then (0xFFFFFFFFFFFFFFFF : BitVec 128) <<< 64 else 0)

/-- Lines `line` to `line + n - 1` are memory of this device. -/
def linesHere (line n : Nat) : Bool := (List.range n).all (fun i => (tierOf (128 * (line + i))).isSome)

/-- A read of a peer over `n` lines: refused outside memory, held, served, or an error at poison. -/
def State.serveRead (s : State) (r : PeerReq) (line n : Nat) (f : (Nat → VReg × EReg) → VReg × EReg × VReg) : State :=
  let ls := (List.range n).map (fun i => line + i)
  if !(linesHere line n) then s.answerTo r .error
  else if ls.any s.peerWaits then s
  else if ls.any s.atPeer then ls.foldl (fun s l => if s.atPeer l then s.homeFill l 0 else s) s
  else if ls.any (fun l => (s.homeRead l).2.2) then s.answerTo r .error
  else
    let d := f (fun l => ((s.homeRead l).1, (s.homeRead l).2.1))
    s.answerTo r .ok d.1 d.2.1 d.2.2

/-- The lines of a peer's write are performed; an error where one fails. -/
def State.peerPuts (s : State) (ps : List (Nat × Put)) : State × PeerStatus :=
  ps.foldl (fun a p => if a.1.lost p.1 then (a.1, .error) else (a.1.devWrite none p.1 p.2, a.2)) (s, .ok)

/-- A write of a peer. -/
def State.serveWrite (s : State) (r : PeerReq) (line n : Nat) (ps : List (Nat × Put)) (bulk : Bool) : State :=
  if !(linesHere line n) then s.answerTo r .error
  else if (List.range n).any (fun i => s.peerWaits (line + i)) then s
  else if bulk then s.bulkThen r (128 * n) (fun s => s.peerPuts ps)
  else (s.peerPuts ps).1.answerTo r (s.peerPuts ps).2

/-- Bytes of a read of 64-B units, as one number. -/
def unitsNat (half n : Nat) (d : Nat → VReg × EReg) : Nat :=
  packNat 512 (fun u => field (d ((half + u) / 2)).1.toNat (512 * ((half + u) % 2)) 512) n

/-- An atomic of a peer at its home. -/
def State.peerAtomic (s : State) (r : PeerReq) (pa : Nat) (sub : Nat) (ty : Ty) (val cmp : DWord) : State :=
  let n := tyBytes ty
  let old := s.homeNat pa n
  let p : AtomPiece := ⟨⟨0, 0, .mem pa⟩, val, cmp⟩
  (match atomNew sub ty (sub == 15) old p with
   | some x => s.devWrite none (pa / 128) (putOf (pa % 128) (bytesLE n x))
   | none => s).answerTo r .ok (BitVec.ofNat 1024 old)

/-- A request that has passed the checks. A put or get is answered as it arrives; what its region decides follows as a
message of its own (DEDUCED, log 73). -/
def State.servePeer (s : State) (r : PeerReq) : State :=
  match r.op with
  | .read line halves withSide =>
    s.serveRead r line 1 (fun d => (merge (byteBits (halfMask halves)) 0 (d line).1, if withSide then (d line).2 else eInit, 0))
  | .readLong half n =>
    if n = 0 ∨ 4 < n.toNat then s.answerTo r .error
    else s.serveRead r (half / 2) ((half % 2 + n.toNat + 1) / 2) (fun d =>
      let x := unitsNat half n.toNat d
      (BitVec.ofNat 1024 x, eInit, BitVec.ofNat 1024 (x / 2 ^ 1024)))
  | .write line data mask side sm bulk => s.serveWrite r line 1 [(line, ⟨data, mask, side, sm, 0⟩)] bulk
  | .writeLong line lo loMask hi hiMask bulk =>
    s.serveWrite r line 2 [(line, ⟨lo, loMask, 0, 0, 0⟩), (line + 1, ⟨hi, hiMask, 0, 0, 0⟩)] bulk
  | .poison line =>
    if !(linesHere line 1) then s.answerTo r .error
    else if s.peerWaits line then s
    else ((s.devLine none line 0 eInit).addPoison line).answerTo r .ok
  | .atomic pa sub ty val cmp =>
    if (tierOf pa).isNone then s.answerTo r .error
    else if s.peerWaits (pa / 128) then s
    else if s.lost (pa / 128) then s.answerTo r .error
    else if s.atPeer (pa / 128) then s.homeFill (pa / 128) 0
    else s.peerAtomic r pa sub.toNat ty val cmp
  | .reserve st bytes => s.reserve r.src.toNat st.toNat bytes r.id
  | .rookPut rook blk step c lines =>
    let p : RookOp := { rook := rook, blk := blk, step := step, src := .peer r.src r.id, lines := lines }
    if s.rookHeld p then s else (s.answerTo r .ok).putArrive p c.toNat
  | .rookGet rook blk step lines =>
    let p : RookOp := { rook := rook, blk := blk, step := step, src := .peer r.src r.id, lines := lines }
    if s.rookHeld p then s else (s.answerTo r .ok).getArrive p
  | .rookMirror rook blk step part data side =>
    if s.mirrorBusy rook blk.toNat then s
    else s.bulkThen r 128 (fun s => match s.mirrorWrite rook blk.toNat step.toNat part data side with
      | some s1 => (s1, .ok)
      | none => (s, .error))
  | .ring .. | .params _ => s.bulkThen r 128 (fun s => (s, .ok))
  | .announce d inc => (s.answerTo r .ok).announced r.src.toNat d.toNat inc
  | .notice d => (((s.answerTo r .ok).noticed r.src.toNat d.toNat).ackFences).settleGets
  | .ack => (s.answerTo r .ok).acked r.src.toNat

/-- An announcement is what carries a new incarnation; it is never stale itself. -/
def announces (r : PeerReq) : Bool :=
  match r.op with
  | .announce _ _ => true
  | _ => false

/-- A flit under the current key of a station is authenticated: the previous key is not kept any longer (R413). -/
def KeySlot.seen (k : KeySlot) (sel : Bool) : KeySlot := if sel = k.sel then { k with prev := none } else k

/-- A flit of a station is authenticated under its selector (R413). -/
def State.seenAt (s : State) (st : Nat) (sel : Bool) : State :=
  s.setFab (fun f => { f with stations := f.stations.modify st (fun k => k.seen sel) })

/-- R402: a request arrives; without an identifier the device answers nothing, and a stale incarnation is dropped. -/
def execPeerRequestReceive (r : PeerReq) (s : State) : Out :=
  .next (if !s.fab.fvalid || !(bit s.fab.stup r.station.toNat) then s
    else
      let s1 := s.seenAt r.station.toNat r.ksel
      if s1.staleInc r && !(announces r) then s1.dropStale else s1.servePeer r)

/-! ### Responses (R403-R406) -/

/-- Dropped writes to a device and station that have no window yet. -/
def PeerOut.wantsWindow (dev st : Nat) (o : PeerOut) : Bool :=
  o.dev == dev && o.station == st && o.answer.isNone && o.left.isNone && !o.heldK && decide (0 < o.drops) && o.window.isNone

/-- The source asks for a window for its dropped writes to a device and station, for at most 1 MiB; one request is out at a
time. -/
def State.askWindow (s : State) (dev st : Nat) : State :=
  let own := PeerOwner.reserve dev st
  match s.fab.out.filter (PeerOut.wantsWindow dev st) with
  | [] => s
  | o :: rest =>
    if (s.outOf own).isEmpty then
      s.peerSend own o.die dev o.line (.reserve (BitVec.ofNat 4 st) (min (128 * (rest.length + 1)) bulkRoom))
    else s

/-- A reservation of `bytes` has been answered: as many dropped writes take its window, and a further one is asked for
the rest; without a window they go again at once. -/
def State.windowGiven (s : State) (dev st bytes : Nat) (tg : Option Nat) : State :=
  let ws := (s.fab.out.filter (PeerOut.wantsWindow dev st)).map (fun o => o.id)
  let ids := match tg with
    | some _ => ws.take (bytes / 128)
    | none => ws
  (s.setFab (fun f => { f with out := f.out.map (fun o => if ids.contains o.id then { o with window := some (tg.getD 0) } else o) })).askWindow
    dev st

/-- A bulk write has been dropped: the source asks for a reservation; the sixteenth drop ends it. -/
def State.dropped (s : State) (o : PeerOut) : State :=
  if 16 ≤ o.drops + 1 then s.setOut o.id (fun o => { o with drops := o.drops + 1, answer := some (.drop, 0, eInit) })
  else (s.setOut o.id (fun o => { o with drops := o.drops + 1, left := none })).askWindow o.dev o.station

/-- The bytes that a reservation request names. -/
def PeerOut.asked (o : PeerOut) : Nat :=
  match o.op with
  | .reserve _ n => n
  | _ => 0

/-- R402, R403: the response to request `id`; one that matches no request is dropped (R408). -/
def execPeerResponseReceive (id : Nat) (st : PeerFlit) (data : VReg) (side : EReg) (s : State) : Out :=
  .next (match s.fab.out.find? (fun o => o.id == id && o.answer.isNone && o.left.isSome) with
    | none => s
    | some o =>
      let s := s.seenAt o.station st.ksel
      match o.owner with
      | .reserve dev station =>
        (s.dropOut o.owner).windowGiven dev station o.asked (match st.st with
          | .ok => some (data.toNat % 2 ^ 64)
          | _ => none)
      | _ => ((match st.st with
        | .drop => s.dropped o
        | _ => (s.setOut id (fun o => { o with answer := some (st.st, data, side) })).ackFences).settleGets).sweepHub)

/-- The fence on the lines that a request names, with its ns. -/
def Fabric.fenceAt (f : Fabric) (o : PeerOut) : Option Nat :=
  (f.fences.find? (fun p => some p.1 == o.fence)).map Prod.snd

/-- R403, R409: no response TREQ ns after the request left, or after the notice that fenced it. -/
def execPeerRequestTimeout (id : Nat) (s : State) : Out :=
  .next (match s.fab.out.find? (fun o => o.id == id && o.answer.isNone) with
    | none => s
    | some o => match o.left with
      | none => s
      | some t =>
        let late := decide (t + s.fab.treq.toNat ≤ s.now)
        let fenced := match s.fab.fenceAt o with
          | some u => decide (u + s.fab.treq.toNat ≤ s.now)
          | none => false
        if !late && !fenced then s
        else
          let s1 := if late then s.setFab (fun f => { f with tocnt := satInc f.tocnt }) else s
          match o.owner with
          | .reserve dev station => (s1.dropOut o.owner).windowGiven dev station o.asked none
          | _ => (((s1.setOut id (fun o => { o with answer := some peerError })).ackFences).settleGets).sweepHub)

/-! ### Keys (R413, R414) -/

def State.flow (s : State) (f : Nat) : Flow := ((s.fab.flows.find? (fun p => p.1 == f)).map Prod.snd).getD {}
def State.setFlow (s : State) (n : Nat) (f : Flow → Flow) : State :=
  s.setFab (fun x => { x with flows := tset {} n (f (tget {} x.flows n)) x.flows })

/-- Bytes of the descriptor of a flow in memory (R410). -/
def State.flowPa (s : State) (f : Nat) : Nat := s.fab.flbase.toNat + 64 * f
/-- The line of a flow's descriptor is held (R385, R442). -/
def State.flowBusy (s : State) (f : Nat) : Bool := s.lineBusy (s.flowPa f / 128)
def State.flowField (s : State) (f off n : Nat) : Nat := s.natAt (s.flowPa f + off) n
def State.flowWord (s : State) (f off : Nat) : Nat := s.flowField f off 4
def State.putFlowWord (s : State) (f off x : Nat) : State := s.devBytes none (s.flowPa f + off) (bytesLE 4 x)
/-- Sets or clears a status bit of word 0: 3 DOWN, 4 KX. -/
def State.flowBit (s : State) (f i : Nat) (on : Bool) : State :=
  let w := s.flowWord f 0
  s.putFlowWord f 0 (if w.testBit i = on then w else if on then w + 2 ^ i else w - 2 ^ i)

/-! Plans over a flow (R412, R415). -/

/-- The flows that a plan names in OUTL; its own pod's entry is ignored. -/
def Plan.flows (p : Plan) : List Nat :=
  match p.rings with
  | none => []
  | some r => ((r.2.zip (List.range r.2.length)).filter (fun q => q.2 != recField p.bytes 8 16 16)).map Prod.fst

/-- A running plan ends with a status, once what it has outstanding is over. -/
def State.planFails (s : State) (q : Plan → Bool) (st : Byte) : State :=
  s.setFab (fun x => { x with plans := x.plans.map (fun p =>
    if p.status.getD 0 == 0 && q p then { p with status := some st } else p) })

/-- The running plans over a flow end with 0x32 (R412, R414), and what they still had to send on it is dropped. -/
def State.failPlans (s : State) (f : Nat) : State :=
  (s.setFlow f (fun w => { w with queue := [] })).planFails (fun p => p.flows.contains f) 0x32

/-- The target of KTGT. -/
def keyTarget (x : Nat) : Option KeyTarget :=
  if x < 16 then some (.station (BitVec.ofNat 4 x))
  else if x / 1024 = 1 then some (.flow (BitVec.ofNat 10 x))
  else none

/-- A slot takes a next key; an exhausted one is ready to send again. -/
def KeySlot.install (k : KeySlot) (x : Key) : KeySlot := { k with next := some x, kx := none, lapsed := false }

def State.kres (s : State) (n : Nat) : State := s.setFab (fun f => { f with kres := BitVec.ofNat 2 n })

/-- KCMD 1. -/
def State.installKey (s : State) : State :=
  let x : Key := ⟨s.fab.salt, s.fab.key⟩
  match keyTarget s.fab.ktgt.toNat with
  | none => s.kres 2
  | some (.station st) =>
    if (((s.fab.stations[st.toNat]?).getD {}).next).isSome then s.kres 1
    else (((s.setFab (fun f => { f with stations := f.stations.modify st.toNat (fun k => k.install x) })).kres 0).releaseHeld st.toNat).releaseReplies st.toNat
  | some (.flow f) =>
    if s.flowBusy f.toNat then s
    else if (s.flow f.toNat).keys.next.isSome then s.kres 1
    else
      let s1 := s.setFlow f.toNat (fun w => { w with keys := w.keys.install x, held := [] })
      ((if (s.flow f.toNat).keys.kx.isSome then s1.flowBit f.toNat 4 false else s1)).kres 0

def execKeyInstall (s : State) : Out := .next (s.served s.installKey)

/-- KTO has passed since a slot was exhausted. -/
def KeySlot.late (k : KeySlot) (now kto : Nat) : Bool :=
  !k.lapsed && (match k.kx with
    | some t => decide (t + kto ≤ now)
    | none => false)

/-- R414: at KTO the held traffic completes with error. -/
def execKeyInstallTimeout (t : KeyTarget) (s : State) : Out :=
  let kto := s.fab.kto.toNat
  let add (n : Nat) (f : Fabric) : Fabric := { f with kxerr := BitVec.ofNat 32 (min (f.kxerr.toNat + n) 0xFFFFFFFF) }
  .next (match t with
    | .station st =>
      let k := (s.fab.stations[st.toNat]?).getD {}
      if !(k.late s.now kto) then s
      else
        let n := (s.fab.out.filter (PeerOut.heldAt st.toNat)).length
        let s1 := s.setFab (fun f => { f with stations := f.stations.modify st.toNat (fun k => { k with lapsed := true }),
                                              out := f.out.map (fun o => if o.heldAt st.toNat then { o with answer := some peerError } else o) })
        ((s1.setFab (add n)).settleGets).sweepHub
    | .flow f =>
      let w := s.flow f.toNat
      if !(w.keys.late s.now kto) || s.flowBusy f.toNat then s
      else ((s.setFlow f.toNat (fun w => { w with
          keys := { w.keys with lapsed := true }, sent := w.sent.filter (fun x => !(w.held.contains x.seq)),
          held := [] })).setFab (add w.held.length)).failPlans f.toNat)

end Sys2Proof.Machine
end

