-- ==== Sys2Proof/Machine/Collective.lean ====
section
/-! DEFINITION. The collective engine (R415-R420): the work of a plan on this rank. What other ranks send is free; the own
additions, what this rank sends and passes on, the compression and its residuals, the copies and the completion word follow
the rules. In the pod a plan sends bulk writes (R404), between pods data segments of its flows (R412). -/

namespace Sys2Proof.Machine

/-! ### Accesses of a plan -/

/-- How the work of a plan stands: memory or a peer still has to answer, a fault, a peer request that failed. -/
inductive PlanStop where
  | wait | fault | failed
deriving DecidableEq, Repr

/-- What an access to a generic address of a plan finds. -/
inductive PlanLoc where
  | here (pa : Nat)
  | away (dev pa : Nat)
  | bad
deriving DecidableEq, Repr

def State.planLoc (s : State) (ctx va : Nat) (acc : Acc) : PlanLoc :=
  match s.unitXlat ctx (BitVec.ofNat 64 va) acc with
  | .ok (.mem pa) => .here pa
  | .ok (.peer dev pa) => .away dev pa
  | _ => .bad

/-- A plan's read of a line at a peer. -/
def planOp (line : Nat) : PeerOp := .read line 3 false

/-- `n` bytes read at an address within one line. -/
def State.planRead (s : State) (p : Plan) (ctx va n : Nat) : Except PlanStop Nat :=
  match s.planLoc ctx va .read with
  | .here pa => if s.lost (pa / 128) then .error .failed else match s.planLine p.die (pa / 128) with
    | none => .error .wait
    | some (_, true) => .error .fault
    | some (v, false) => .ok (field v.toNat (8 * (pa % 128)) (8 * n))
  | .away dev pa => match (s.outOf (.plan p.id)).find? (fun o => o.dev == dev && o.op == planOp (pa / 128)) with
    | none => .error .wait
    | some o => match o.answer with
      | none => .error .wait
      | some (.ok, v, _) => .ok (field v.toNat (8 * (pa % 128)) (8 * n))
      | some _ => .error .failed
  | .bad => .error .fault

/-- Asks for a line that a plan reads, where it is not to be had at once. -/
def State.planAsk1 (s : State) (p : Plan) (ctx va : Nat) : State :=
  match s.planLoc ctx va .read with
  | .here pa => if (s.planLine p.die (pa / 128)).isNone then s.requestLine p.die (pa / 128) else s
  | .away dev pa =>
    if (s.outOf (.plan p.id)).any (fun o => o.dev == dev && o.op == planOp (pa / 128)) then s
    else s.peerPost (.plan p.id) p.die dev (pa / 128) (planOp (pa / 128))
  | .bad => s

/-- Asks for every line of `n` bytes from `va`. -/
def State.planAsk (s : State) (p : Plan) (ctx va n : Nat) : State :=
  (List.range ((va % 128 + n + 127) / 128)).foldl (fun s i => s.planAsk1 p ctx (va - va % 128 + 128 * i)) s

/-- Bytes written at an address within one line; a peer's leave as a bulk write (R404). -/
def State.planWrite (s : State) (p : Plan) (ctx va : Nat) (bs : List Byte) : Except PlanStop State :=
  match s.planLoc ctx va .write with
  | .here pa =>
    if s.lost (pa / 128) then .error .failed
    else if s.locked (pa / 128) || s.parked? (pa / 128) then .error .wait
    else .ok (s.pocWrite p.die (some p.grid) (pa / 128) (putOf (pa % 128) bs))
  | .away dev pa =>
    let put := putOf (pa % 128) bs
    .ok (s.peerPost (.plan p.id) p.die dev (pa / 128) (.write (pa / 128) put.data put.mask 0 0 true))
  | .bad => .error .fault

/-- A list of elements read, each of `n` bytes. -/
def State.planReads (s : State) (p : Plan) (ctx va n : Nat) : Nat → Except PlanStop (List Nat)
  | 0 => .ok []
  | k + 1 => match s.planReads p ctx va n k with
    | .error e => .error e
    | .ok l => match s.planRead p ctx (va + n * k) n with
      | .error e => .error e
      | .ok x => .ok (x :: l)

/-- As `planReads`, in ascending order. -/
def State.planList (s : State) (p : Plan) (ctx va n k : Nat) : Except PlanStop (List Nat) :=
  match s.planReads p ctx va n k with
  | .error e => .error e
  | .ok l => .ok l.reverse

/-- Elements written in order; `keep k` says which of them are. -/
def State.planWrites (s : State) (p : Plan) (ctx va n : Nat) (keep : Nat → Bool) (xs : List Nat) : Except PlanStop State :=
  (xs.zip (List.range xs.length)).foldl (fun (a : Except PlanStop State) q => match a with
    | .error e => .error e
    | .ok s => if keep q.2 then s.planWrite p ctx (va + n * q.2) (bytesLE n q.1) else .ok s) (.ok s)

/-! ### The arithmetic (R416, R417) -/

namespace PlanF

/-- Bytes of an element. -/
def elemBytes (r : VReg) : Nat := if dtype r = 0 then 4 else 2
/-- An input widened to FP32. -/
def widen (r : VReg) (x : Nat) : Word := if dtype r = 0 then BitVec.ofNat 32 x else BitVec.ofNat 32 (x * 65536)
/-- A result rounded to DTYPE. -/
def narrow (r : VReg) (x : Word) : Nat :=
  if dtype r = 0 then x.toNat else (fconv bf16 .rne (fdecode fp32 x.toNat)).bits
/-- Elements of a segment, and of a chunk. -/
def segment (r : VReg) : Nat := count r / nin r
def chunk (r : VReg) : Nat := count r / (nin r * nout r)

end PlanF

/-- Position of the own rank among the pod's for segment `i`: the sum starts at 0 and ends, on rank `i`, at NIN - 1. -/
def podPos (r : VReg) (i : Nat) : Nat := (PlanF.myin r + 2 * PlanF.nin r - i - 1) % PlanF.nin r

/-- What the pod sum of an element of segment `i` is once the own value is added; `e` is the element's number. What the
ranks before have summed is free. -/
def podSum (r : VReg) (c i e : Nat) (x : Word) : Word :=
  if podPos r i = 0 then x else f32add (Config.freeWord c (2 * e)) x

/-- Position of the own pod among the pods for chunk `o`. -/
def reachPos (r : VReg) (o : Nat) : Nat := (PlanF.myout r + 2 * PlanF.nout r - o - 1) % PlanF.nout r

/-- The sum that the own pod holds of an element of chunk `o`: of what arrives from the pod before it, and its own. -/
def reachSum (r : VReg) (c e o : Nat) (p : Word) : Word :=
  if reachPos r o = 0 then p else f32add (Config.freeWord c (2 * e + 1)) p

/-- A block of 32 sums with its residuals, in the element format of CMP (R417). -/
def sendCodes (r : VReg) (ss rs : List Word) : MxBlock :=
  requant (if PlanF.cmp r = 1 then .e4m3 else .e2m1) true ((ss.zip rs).map (fun p => fdecode fp32 (f32add p.1 p.2).toNat))

/-- What a block of 32 sums and residuals comes to (R417): the values that the receiver decodes, and the new residuals. -/
def sendBlock (r : VReg) (ss rs : List Word) : List (Word × Word) :=
  let f : Elem := if PlanF.cmp r = 1 then .e4m3 else .e2m1
  let vs := (ss.zip rs).map (fun p => f32add p.1 p.2)
  let b := sendCodes r ss rs
  (vs.zip (List.range vs.length)).map (fun p =>
    let d := BitVec.ofNat 32 (mxDecode f ((b.q[p.2]?).getD 0) b.sc).bits
    (d, if b.sc = 0xFF then 0 else f32add p.1 (d ^^^ 0x80000000)))

/-- The bytes of a block that cross the reach port: its codes and its scale, 33 B for E4M3 and 17 B for E2M1. -/
def sendBytes (r : VReg) (ss rs : List Word) : List Byte :=
  let b := sendCodes r ss rs
  let w := if PlanF.cmp r = 1 then 8 else 4
  bytesLE (4 * w) (packNat w (fun k => (b.q[k]?).getD 0) 32) ++ bytesLE 1 b.sc

/-- The list cut into blocks of 32. -/
def blocks32 (n : Nat) (xs : List Word) : List (List Word) := (List.range n).map (fun k => (xs.drop (32 * k)).take 32)

/-! ### The end of a plan (R416-R419) -/

/-- A part of a plan's work done, or what stops it with the state it leaves. -/
structure PlanDone where
  s : State
  stop : Option PlanStop
deriving DecidableEq, Repr

def PlanDone.of (s : State) : Except PlanStop State → PlanDone
  | .ok t => ⟨t, none⟩
  | .error e => ⟨s, some e⟩

/-! What a rank sends (R401, R404, R412). -/

/-- Bytes to a rank of the pod: bulk writes of a line each, placed among the stations by the number of the line in its
part. -/
def State.ringSend (s : State) (p : Plan) (dev part : Nat) (bs : List Byte) : State :=
  (List.range ((bs.length + 127) / 128)).foldl (fun s k => s.peerPost (.plan p.id) p.die (dev % 1024) k
    (.ring (BitVec.ofNat 32 (PlanF.tag p.bytes)) part k (BitVec.ofNat 1024 (natLE ((bs.drop (128 * k)).take 128))))) s

/-- A source cut into the payloads of segments. -/
def SegSource.cut : SegSource → List SegSource
  | .bytes bs => (List.range ((bs.length + 4095) / 4096)).map (fun k => .bytes ((bs.drop (4096 * k)).take 4096))
  | .mem d ctx va n => (List.range ((n + 4095) / 4096)).map (fun k => .mem d ctx (va + 4096 * k) (min 4096 (n - 4096 * k)))

/-- Bytes to a pod: data segments of the flow to it. -/
def State.reachSend (s : State) (p : Plan) (f : Nat) (src : SegSource) : State :=
  s.setFlow f (fun w => { w with queue := w.queue ++ src.cut.map (fun x => ⟨p.id, x⟩) })

/-- The parameters that a rank exchanges with its ring neighbours (R419). -/
def PlanF.params (r : VReg) : List Nat := [PlanF.op r, PlanF.dtype r, PlanF.cmp r, PlanF.nin r, PlanF.nout r, PlanF.count r, PlanF.tag r]

/-- The parameters go to the ring neighbours, in the pod and over the flows. -/
def State.planHello (s : State) (p : Plan) (inl outl : List Nat) : State :=
  let r := p.bytes
  let near (me n : Nat) : List Nat := if n = 1 then [] else ([(me + 1) % n, (me + n - 1) % n]).eraseDups
  let s1 := (near (PlanF.myin r) (PlanF.nin r)).foldl (fun s k =>
    s.peerPost (.plan p.id) p.die (inl.getD k 0 % 1024) 0 (.params (PlanF.params r))) s
  (near (PlanF.myout r) (PlanF.nout r)).foldl (fun s k =>
    s.reachSend p (outl.getD k 0) (.bytes ((PlanF.params r).flatMap (bytesLE 8)))) s1

/-- Chunk `o` of the own segment goes to the next pod (R417): as it is, or compressed, which renews its residuals. `keep`
says which blocks' residuals reach memory. -/
def State.sendChunk (s : State) (p : Plan) (ctx o to_ : Nat) (ss : List Word) (keep : Nat → Bool) : PlanDone :=
  let r := p.bytes
  let ch := PlanF.chunk r
  if PlanF.cmp r = 0 then ⟨s.reachSend p to_ (.bytes (ss.flatMap (fun x => bytesLE 4 x.toNat))), none⟩
  else
    let va := PlanF.resa r + 4 * ch * o
    match s.planList p ctx va 4 ch with
    | .error e => ⟨s, some e⟩
    | .ok rs =>
      let nb := ch / 32
      let bl := (blocks32 nb ss).zip (blocks32 nb (rs.map (BitVec.ofNat 32)))
      let out := bl.flatMap (fun q => sendBlock r q.1 q.2)
      PlanDone.of s ((s.reachSend p to_ (.bytes (bl.flatMap (fun q => sendBytes r q.1 q.2)))).planWrites
        p ctx va 4 (fun k => keep (o * ch + k / 32)) (out.map (fun q => q.2.toNat)))

/-- A reduce-scatter: the sums of every other segment go on to the next rank of the pod, those of every other chunk of
the own segment to the next pod; the own chunk goes to DSTA. `keep` says which elements and blocks reach memory: all of
them when the plan ends well. -/
def State.reduceScatter (s : State) (p : Plan) (ctx : Nat) (inl outl : List Nat) (keep : Nat → Bool) : PlanDone :=
  let r := p.bytes
  let c := s.freeCtr
  let n := PlanF.elemBytes r
  let seg := PlanF.segment r
  let ch := PlanF.chunk r
  match s.planList p ctx (PlanF.srca r) n (PlanF.count r) with
  | .error e => ⟨s, some e⟩
  | .ok xs =>
    let sums (i : Nat) : List Word := (List.range seg).map (fun k =>
      podSum r c i (seg * i + k) (PlanF.widen r ((xs[seg * i + k]?).getD 0)))
    let s0 := ((List.range (PlanF.nin r)).filter (fun i => i != PlanF.myin r)).foldl (fun s i =>
      s.ringSend p (inl.getD ((PlanF.myin r + 1) % PlanF.nin r) 0) i ((sums i).flatMap (fun x => bytesLE 4 x.toNat))) s
    let ps := sums (PlanF.myin r)
    let at_ (o : Nat) : List Word := (List.range ch).map (fun k =>
      reachSum r c (seg * PlanF.myin r + o * ch + k) o ((ps[o * ch + k]?).getD 0))
    match s0.planWrites p ctx (PlanF.dsta r) n keep ((at_ (PlanF.myout r)).map (PlanF.narrow r)) with
    | .error e => ⟨s0, some e⟩
    | .ok s1 =>
      ((List.range (PlanF.nout r)).filter (fun o => o != PlanF.myout r)).foldl (fun (a : PlanDone) o =>
        if a.stop.isSome then a
        else a.s.sendChunk p ctx o (outl.getD ((PlanF.myout r + 1) % PlanF.nout r) 0) (at_ o) keep) ⟨s1, none⟩

/-- What an all-gather sends on, the own part and those that arrive: in the pod every part but those of the next rank, to
the next pod the parts of the own rank's number but that pod's own. What crosses between pods is read from DSTA, the own
part from SRCA. -/
def State.gatherSends (s : State) (p : Plan) (ctx : Nat) (inl outl : List Nat) (parts : Nat → List Nat) : State :=
  let r := p.bytes
  let n := PlanF.elemBytes r
  let len := n * PlanF.chunk r
  let ni := PlanF.nin r
  let no := PlanF.nout r
  let next := (PlanF.myin r + 1) % ni
  let pod := (PlanF.myout r + 1) % no
  let own := PlanF.myout r * ni + PlanF.myin r
  (List.range (ni * no)).foldl (fun s q =>
    let s1 := if q % ni = next then s else s.ringSend p (inl.getD next 0) q ((parts q).flatMap (bytesLE n))
    if q % ni = PlanF.myin r ∧ q / ni ≠ pod then
      s1.reachSend p (outl.getD pod 0) (.mem p.die ctx (if q = own then PlanF.srca r else PlanF.dsta r + len * q) len)
    else s1) s

/-- An all-gather: the own part copied into place, every other rank's part as it arrives, and each sent on. -/
def State.allGather (s : State) (p : Plan) (ctx : Nat) (inl outl : List Nat) (keep : Nat → Bool) : PlanDone :=
  let r := p.bytes
  let n := PlanF.elemBytes r
  let ch := PlanF.chunk r
  let rank := PlanF.myout r * PlanF.nin r + PlanF.myin r
  match s.planList p ctx (PlanF.srca r) n ch with
  | .error e => ⟨s, some e⟩
  | .ok xs =>
    let out := (List.range (PlanF.count r)).map (fun e =>
      if rank * ch ≤ e ∧ e < rank * ch + ch then (xs[e - rank * ch]?).getD 0 else (Config.freeWord s.freeCtr e).toNat % 2 ^ (8 * n))
    match s.planWrites p ctx (PlanF.dsta r) n keep out with
    | .error e => ⟨s, some e⟩
    | .ok s1 => ⟨s1.gatherSends p ctx inl outl (fun q => (out.drop (q * ch)).take ch), none⟩

/-- A flow of the plan is down, or its exhausted key has lapsed. -/
def State.planFlowDown (s : State) (p : Plan) : Bool :=
  p.flows.any (fun f => (s.flowWord f 0).testBit 3 || (s.flow f).keys.lapsed)

/-- Asks for everything that the work of a plan reads. -/
def State.planAskAll (s : State) (p : Plan) (ctx : Nat) : State :=
  let r := p.bytes
  let n := PlanF.elemBytes r * (if PlanF.op r = 0 then PlanF.count r else PlanF.chunk r)
  let s1 := s.planAsk p ctx (PlanF.srca r) n
  if PlanF.op r = 0 ∧ PlanF.cmp r ≠ 0 then s1.planAsk p ctx (PlanF.resa r) (4 * PlanF.segment r) else s1

/-- INL and OUTL; the own pod's entry of OUTL is ignored (R415). -/
def State.planRings (s : State) (p : Plan) (ctx : Nat) : Except PlanStop (List Nat × List Nat) :=
  let r := p.bytes
  let outl := (List.range (PlanF.nout r)).foldl (fun (a : Except PlanStop (List Nat)) k => match a with
    | .error e => .error e
    | .ok l => if k = PlanF.myout r then .ok (l ++ [0])
      else match s.planRead p ctx (PlanF.outl r + 2 * k) 2 with
        | .error e => .error e
        | .ok x => .ok (l ++ [x])) (.ok [])
  match s.planList p ctx (PlanF.inl r) 2 (PlanF.nin r), outl with
  | .ok inl, .ok outl => .ok (inl, outl)
  | .error e, _ => .error e
  | _, .error e => .error e

/-- Asks for INL and OUTL. -/
def State.planAskRings (s : State) (p : Plan) (ctx : Nat) : State :=
  let r := p.bytes
  ((List.range (PlanF.nout r)).filter (fun k => k != PlanF.myout r)).foldl (fun s k => s.planAsk p ctx (PlanF.outl r + 2 * k) 2)
    (s.planAsk p ctx (PlanF.inl r) (2 * PlanF.nin r))

/-- The sums or copies of a plan, between the ranks that its lists name. -/
def State.planWork (s : State) (p : Plan) (ctx : Nat) (keep : Nat → Bool) : PlanDone :=
  let rings := p.rings.getD ([], [])
  if PlanF.op p.bytes = 0 then s.reduceScatter p ctx rings.1 rings.2 keep else s.allGather p ctx rings.1 rings.2 keep

def State.setPlan (s : State) (i : Nat) (f : Plan → Plan) : State :=
  s.setFab (fun x => { x with plans := x.plans.map (fun p => if p.id = i then f p else p) })

/-- A plan is over: its requests and what it still had to send are forgotten. -/
def State.dropPlan (s : State) (i : Nat) : State :=
  ({ s with freeCtr := s.freeCtr + 1 }.setFab (fun f => { f with
    plans := f.plans.filter (fun q => q.id != i),
    flows := f.flows.map (fun (w : Nat × Flow) => (w.1, { w.2 with queue := w.2.queue.filter (fun x => x.own != i) })) })).dropOut (.plan i)

/-- Data segments of a plan are still to be sent or acknowledged (R412). -/
def State.planUnacked (s : State) (i : Nat) : Bool := s.fab.flows.any (fun f => 
  f.2.sent.any (fun x => x.data.own == i) || f.2.queue.any (fun x => x.own == i))

/-- The end of a plan whose work is over: once every request of it has been answered, every write of its die performed and
every segment acknowledged, its completion word is written as a release at `.dev` (R308, R419). -/
def State.endPlan (s : State) (p : Plan) (ctx : Nat) (st : Byte) : State :=
  let outs := s.outOf (.plan p.id)
  if outs.any (fun o => o.answer.isNone) then s
  else if p.cwordSent then s.dropPlan p.id
  else if !(s.settled p.die false) || (st == 0 && s.planUnacked p.id) then s
  else
    let code := if st = 0 then outsCode outs else st
    let w := bytesLE 4 (PlanF.tag p.bytes) ++ bytesLE 4 code.toNat
    match s.planWrite p ctx (PlanF.cword p.bytes) w with
    | .error .wait => s
    | .error _ => s.dropPlan p.id
    | .ok s1 =>
      if (s1.outOf (.plan p.id)).length = outs.length then s1.dropPlan p.id
      else s1.setPlan p.id (fun p => { p with cwordSent := true })

/-- The work of a plan is over with a status; `endPlan` follows at once where nothing is outstanding. -/
def State.stopPlan (s : State) (p : Plan) (ctx : Nat) (st : Byte) : State :=
  (s.setPlan p.id (fun p => { p with status := some st })).endPlan { p with status := some st } ctx st

/-- A plan starts: it reads its lists and sends its parameters to its neighbours (R419). -/
def State.planStart (s : State) (p : Plan) (ctx : Nat) : State :=
  match s.planRings p ctx with
  | .ok l => (s.setPlan p.id (fun p => { p with rings := some l })).planHello p l.1 l.2
  | .error .wait => s.planAskRings p ctx
  | .error .fault => s.stopPlan p ctx 0x33
  | .error .failed => s.stopPlan p ctx 0x30

/-- The work of a plan that has started. A plan that fails on the way leaves any part of its output written. -/
def State.planRun (s : State) (p : Plan) (ctx : Nat) (why : Byte) : State :=
  let part : State := (s.planWork p ctx (fun k => Config.freeBool s.freeCtr k)).s
  if s.planFlowDown p then part.stopPlan p ctx 0x32
  else if why = 0x31 then s.stopPlan p ctx 0x31
  else if why ≠ 0x00 then s
  else
    let d := s.planWork p ctx (fun _ => true)
    match d.stop with
    | none => d.s.stopPlan p ctx 0x00
    | some .wait => s.planAskAll p ctx
    | some .fault => part.stopPlan p ctx 0x33
    | some .failed => part.stopPlan p ctx 0x30

/-- R416-R420: the plan numbered `i` goes on. `why` is what the other ranks make of it: 0x00, or 0x31 where a neighbour's
parameters differ. What a failed request, a dropped write or a flow that is down makes of it stands in the state. -/
def execCollectiveComplete (i : Nat) (why : Byte) (s : State) : Out :=
  .next (match s.fab.plans.find? (fun p => p.id == i) with
    | none => s
    | some p =>
      let ctx := s.ctxOf p.grid
      match p.status with
      | some st => s.endPlan p ctx st
      | none => if p.rings.isNone then s.planStart p ctx else s.planRun p ctx why)

end Sys2Proof.Machine
end

