-- ==== Sys2Proof/Machine/Rollback.lean ====
section
/-! DEFINITION. The recovery of a rollback grid: the log written back, and the relaunch (R396). -/

namespace Sys2Proof.Machine

/-- One entry of a log written back as a full line with its sidecar (R394); a line poisoned before the grid first wrote it
keeps its poison (R396). -/
def State.undo (s : State) (q : QueueCtx) (n : Nat) : State :=
  let at_ := q.ulbase.toNat + 160 * n
  let line := s.readNat at_ 8 % 2 ^ 47 / 128
  let s1 := s.devLine none line (BitVec.ofNat 1024 (s.readNat (at_ + 0x10) 128)) (BitVec.ofNat 64 (s.readNat (at_ + 0x90) 8))
  if q.ulpois.contains line then s1.addPoison line else s1

/-- The log's entries in descending order. -/
def State.undoAll (s : State) (q : QueueCtx) : State :=
  (List.range q.ulused.toNat).reverse.foldl (fun s n => s.undo q n) s

/-- Something holds a line of the log or one that it restores (R385, R442). -/
def State.undoHeld (s : State) (q : QueueCtx) : Bool :=
  s.rangeBusy q.ulbase.toNat (160 * q.ulused.toNat) ||
    (List.range q.ulused.toNat).any (fun n => s.lineBusy (s.readNat (q.ulbase.toNat + 160 * n) 8 % 2 ^ 47 / 128))

/-- The dirty L1 sectors of a grid's stores are discarded. -/
def State.dropDirty (s : State) (g : BitVec 32) : State :=
  (s.dirtyOf g).foldl (fun s p => s.dropSector p.1 p.2.1.line p.2.2) s

/-- The requests of a grid's warps and streams. -/
def State.dropAgentOut (s : State) (g : BitVec 32) : State :=
  s.setFab (fun f => { f with out := f.out.filter (fun o => match o.owner with
    | .op a _ => a.blockId.grid != g
    | _ => true) })

/-- Every block of a grid leaves its core. -/
def State.clearBlocks (s : State) (g : BitVec 32) : State :=
  (s.blocks.filter (fun b => b.id.grid == g)).foldl State.removeBlock s

/-- R396: once the engine operations of the stopped grid are over and its writes have arrived, the log is written back. -/
def execRollbackRecovery (s : State) : Out :=
  .next (match s.grid? s.on.w.grid with
    | none => s
    | some g =>
      let qn := gridQueue g.id
      if !g.recover || (s.qctx qn).rbst == 3 || s.eng.any (fun e => e.block.grid == g.id) ||
          s.msgs.any (fun m => m.grid == some g.id && m.put.isSome) || s.undoHeld (s.qctx qn) then s
      else
        let s1 := (((s.dropWork g.id).dropAgentOut g.id).dropDirty g.id).clearBlocks g.id
        (s1.undoAll (s1.qctx qn)).setQctx qn (fun q => { q with rbst := 3 }))

/-- A grid as it stands before its first block is placed. -/
def Grid.again (g : Grid) : Grid :=
  { g with nextBlock := 0, status := 0, spill := false, nspill := 0, cbars := [], dbars := List.replicate 4 {},
           endedBlocks := [], savedBlocks := [], recover := false }

/-- R396: the record is launched again, with the same identifier, constants, variant and size. -/
def execGridRelaunch (s : State) : Out :=
  .next (match s.grid? s.on.w.grid with
    | none => s
    | some g =>
      let qn := gridQueue g.id
      if !g.recover || (s.qctx qn).rbst != 3 then s
      else
        let s1 := s.setQctx qn (fun q => { q.fresh true true with rbcnt := q.rbcnt + 1 })
        ((s1.setGrid g.id Grid.again).startAcquire g).settleQueue qn)

end Sys2Proof.Machine
end

