-- ==== Sys2Proof/Machine/Hub.lean ====
section
/-! DEFINITION. The hub: power states and thermal halt (R441-R443), boot and substitution (R444, R445), SPDM (R447), soft
fuses (R438, R439), device time (R263), errors and die faults (R448, R449). -/

namespace Sys2Proof.Machine

def State.setHub (s : State) (f : Hub → Hub) : State := { s with hub := f s.hub }

/-! ### The replace request (R440) -/

/-- Logical cores that are not absent. -/
def Hub.usable (h : Hub) : Nat := 192 - h.absent.length
def Hub.rq (h : Hub) : Bool := h.rqdie || h.rqcore || h.rqrate

/-- The conditions after a change of their inputs; raising RQ raises vector 101. -/
def State.checkRq (s : State) (f : Hub → Hub) : State :=
  let h := f s.hub
  let h1 := { h with rqcore := decide (h.usable < h.corefloor.toNat) }
  let s1 := { s with hub := h1 }
  if !s.hub.rq && h1.rq then s1.irq 101 else s1

/-! ### Power (R441-R443) -/

/-- Length of a transition in ns; `none` where it is not listed. -/
def transitionNs (cur tgt : Nat) : Option Nat :=
  if cur ≤ 4 ∧ tgt ≤ 4 then (if cur = tgt then none else some 3000)
  else if cur ≤ 4 ∧ tgt = 5 then some 120
  else if cur = 5 ∧ tgt ≤ 4 then some 180
  else if cur = 5 ∧ tgt = 6 then some 240000
  else if cur = 6 ∧ tgt = 5 then some 620000
  else none

/-- Die `d` serves pseudo-channels of a stack. -/
def servesStack (f d st : Nat) : Bool := (List.range 160).any (fun i => (pseudoOf f d i).1 == st)

/-- The conditions of PARK. -/
def State.canPark (s : State) (d : Nat) : Bool :=
  s.blocks.all (fun b => dieOfCore b.core != d) && s.eng.all (fun e => dieOfCore e.core != d) &&
  s.fab.plans.all (fun p => p.die != d) && s.castle.moves.isEmpty && !s.castle.ckbusy &&
  !(s.front.rstate == 2 && (match s.front.rhold with
    | some (st, _, _) => servesStack s.hub.hidden.toNat d st
    | none => false))

/-- Entry to PARK: the die's caches are written back and dropped. -/
def State.emptyDie (s : State) (d : Nat) : State :=
  let s1 := (List.range 48).foldl (fun s i =>
    ((s.core (48 * d + i)).l1.map (fun l => l.line)).foldl (fun s n => s.evictL1 (48 * d + i) n) s) s
  { ((s1.dropCopies d).setDie d (fun x => { x with l2 := [], fills := [] })) with fetches := s1.fetches.filter (fun f => f.die != d) }

def State.beginMove (s : State) (d tgt ns : Nat) : State :=
  s.setDie d (fun x => { x with
    ptgt := BitVec.ofNat 3 tgt, pbusy := true, pends := s.now + ns, pres := 0, begun := (s.now, s.clkOf d, x.ptgt) })

def State.pres (s : State) (d n : Nat) : State := s.setDie d (fun x => { x with pres := BitVec.ofNat 2 n })

/-- A write of PTGT. -/
def State.powerCmd (s : State) (d tgt : Nat) : State :=
  let x := s.die d
  if x.pbusy then s.pres d 2
  else if x.halt then
    if tgt ≤ 5 ∧ x.temp.toNat < 800 then
      (s.setDie d (fun x => { x with halt := false, pcur := 5 })).beginMove d tgt (if tgt = 5 then 120 else 180)
    else s.pres d 2
  else match transitionNs x.pcur.toNat tgt with
    | none => s.pres d 1
    | some ns =>
      if tgt = 6 then (if s.canPark d then (s.emptyDie d).beginMove d tgt ns else s.pres d 3)
      else s.beginMove d tgt ns

def execPowerStateCmd (d : BitVec 2) (tgt : BitVec 3) (s : State) : Out := .next (s.powerCmd d.toNat tgt.toNat)

def State.haltDie (s : State) (d : Nat) : State := (s.setDie d (fun x => { x with halt := true, haltAfter := false })).irq 100

/-- R441, R443: a transition ends; a halt that came during it follows. `CLOCK` of a die that leaves PARK starts again
(R263). -/
def execPowerTransitionDone (s : State) : Out :=
  let d := s.on.n
  .next (if (s.die d).pbusy && decide ((s.die d).pends ≤ s.now) then
    let s1 := s.setDie d (fun x => { x with pcur := x.ptgt, pbusy := false, clk0 := if x.pcur = 6 then s.clkOf d else x.clk0 })
    if (s.die d).haltAfter then s1.haltDie d else s1
  else s)

/-- The transition in progress was commanded in this clk. -/
def State.justBegun (s : State) (d : Nat) : Bool :=
  (s.die d).begun.1 == s.now && (s.die d).begun.2.1 == s.clkOf d

/-- R443: the hottest sensor of a die reads `temp` (in 0.125 °C); from 110.0 °C on the die halts. A command of the same clk
is refused. -/
def execThermalHalt (d : BitVec 2) (temp : BitVec 12) (s : State) : Out :=
  let n := d.toNat
  let s1 := s.setDie n (fun x => { x with temp := temp })
  .next (if temp.toNat < 880 ∨ (s.die n).halt = true then s1
    else if (s.die n).pbusy && s.justBegun n then
      (s1.setDie n (fun x => { x with pbusy := false, pres := 2, ptgt := x.begun.2.2 })).haltDie n
    else if (s.die n).pbusy then s1.setDie n (fun x => { x with haltAfter := true })
    else s1.haltDie n)

/-! ### Device time (R263, R440) -/

/-- TSET: `GTIME` reads DEVTIME from the next ns on. -/
def State.setTime (s : State) : State := s.setHub (fun h => { h with tnext := some h.devtime })
def execDevtimeSet (s : State) : Out := .next s.setTime

/-! ### Soft fuses (R438, R439, R446) -/

/-- Physical core that a logical core of a die is bound to. -/
def Hub.physOf (h : Hub) (c : Nat) : Nat := ((h.rebound.find? (fun p => p.1 == c)).map Prod.snd).getD (c % 48)

/-- Position of logical die `d` with position `f` hidden (R435). -/
def positionOf (f d : Nat) : Nat := (f + 1 + d) % 5

/-- A spare of a die: good, not soft-fused, not bound. -/
def Hub.spare (h : Hub) (d : Nat) : Option Nat :=
  [48, 49, 50, 51].find? (fun p => Config.spareGood (positionOf h.hidden.toNat d) p &&
    !(h.fusedPhys.contains (positionOf h.hidden.toNat d, p)) && !(h.rebound.any (fun r => r.1 / 48 == d && r.2 == p)))

/-- A physical core is recorded as hidden in the package report. -/
def Hub.fusePhys (h : Hub) (d p : Nat) : Hub :=
  { h with fusedPhys := h.fusedPhys ++ [(positionOf h.hidden.toNat d, p)],
           report := h.report.map (fun e => if e.pos = positionOf h.hidden.toNat d then
             { e with pfuse := e.pfuse ||| ((1 : BitVec 52) <<< p) } else e) }

/-- What a core holds is written back before its physical core changes; a line that a Castle lock or a pinned sector keeps dirty
(R317, R385) stays with the logical core. -/
def State.drainCore (s : State) (c : Nat) : State := ((s.core c).l1.map (fun l => l.line)).foldl (fun s n => s.evictL1 c n) s

/-- A logical core as the stop of its physical core describes it. -/
def boundCore (c p : Nat) : Core := { Core.reset c with locx := (coreStop p).1, locy := (coreStop p).2 }

/-- CFCMD. -/
def State.softFuse (s : State) : State :=
  let c := s.hub.cfcore.toNat
  let res (n : Nat) (h : Hub) : Hub := { h with cfres := BitVec.ofNat 2 n }
  if 192 ≤ c ∨ (s.core c).fused = true then s.setHub (res 3)
  else if s.blocks.any (fun b => b.core == c) then s.setHub (res 1)
  else
    let d := c / 48
    let old := s.hub.physOf c
    let s1 := s.drainCore c
    match s.hub.spare d with
    | some p =>
      (s1.setCore c (fun k => { boundCore c p with l1 := k.l1 })).setHub (fun h =>
        res 0 { h.fusePhys d old with rebound := h.rebound.filter (fun r => r.1 != c) ++ [(c, p)] })
    | none =>
      (s1.setCore c (fun k => { Core.reset c with fused := true, l1 := k.l1 })).checkRq (fun h =>
        res 2 { h.fusePhys d old with absent := h.absent ++ [c] })

def execSoftFuse (s : State) : Out := .next s.softFuse

/-! ### Errors (R440, R448) -/

/-- A corrected error of a die is counted against the error rate. -/
def State.rateError (s : State) (d : Nat) : State :=
  let win := s.hub.errwin.toNat
  let s1 := s.setDie d (fun x => { x with ceTimes := x.ceTimes.filter (fun t => decide (s.now < t + win)) ++ [s.now] })
  if s.hub.errthr.toNat ≤ (s1.die d).ceTimes.length then s1.checkRq (fun h => { h with rqrate := true }) else s1

def State.sramCe (s : State) (d : Nat) : State := (s.setDie d (fun x => { x with sramce := satInc x.sramce })).rateError d

/-- R448: a corrected error. -/
def execCorrectedError (k : CeSite) (s : State) : Out :=
  .next (match k with
    | .hbm d => (s.setDie d.toNat (fun x => { x with hbmce := satInc x.hbmce })).rateError d.toNat
    | .sram d => s.sramCe d.toNat
    | .link d => (s.setDie d.toNat (fun x => { x with linkrty := satInc x.linkrty })).rateError d.toNat
    | .lpddr => s.setHub (fun h => { h with lpce := satInc h.lpce }))

def State.sramUe (s : State) (d : Nat) : State := s.setDie d (fun x => { x with sramue := satInc x.sramue })

/-- A 32-bit word of a block's storage is lost: the grid's POIS is set. -/
def State.lostWord (s : State) (b : BlockId) : State :=
  match s.block? b with
  | some k => (s.setPois b.grid).sramUe (dieOfCore k.core)
  | none => s

/-- One 32-bit word of a lane register reads 0. -/
def zeroLane (v : VReg) (l : Nat) : VReg := v &&& ~~~(laneBits ((1 : Mask) <<< l))

/-- Half of a 64-bit register reads 0. -/
def State.loseHalf (s : State) (a : Agent) (r : RegId) (hi : Bool) : State :=
  s.setReg a r (s.regBase a r &&& ~~~((0xFFFFFFFF : BitVec 1024) <<< (if hi then 32 else 0)))

/-- A slice of die `d` holds a line of its own dirty. -/
def State.homeDirty (s : State) (d line : Nat) : Bool :=
  homeDie line == d && (match (s.die d).l2? line with
    | some l => l.dirty
    | none => false)

/-- R448: an uncorrectable error. A dirty L2 line is one of the die's own that has been written since it was taken, or the
die's copy of another's with bytes that have not reached its home. -/
def execUncorrectableError (k : UeSite) (s : State) : Out :=
  .next (match k with
    | .cleanL1 c line => match (s.core c).l1? line with
      | some l =>
        if l.dirty = 0 then (s.setCore c (fun k => { k with l1 := k.l1.filter (fun x => x.line != line) })).sramCe (dieOfCore c)
        else s
      | none => s
    | .cleanL2 d line =>
      let own := s.unapplied d line
      if own.1 = 0 ∧ own.2 = 0 ∧ s.homeDirty d line = false ∧
        (((s.die d).l2? line).isSome || ((s.die d).copy? line).isSome) = true then (s.l2Drop d line).sramCe d
      else s
    | .dirtyL1 c line => match (s.core c).l1? line with
      | some l =>
        if l.dirty = 0 then s
        else ((s.setCore c (fun k => { k with l1 := k.l1.filter (fun x => x.line != line) })).addPoison line).sramUe (dieOfCore c)
      | none => s
    | .dirtyL2 d line =>
      let own := s.unapplied d line
      if s.homeDirty d line = true ∨ ((own.1 ≠ 0 ∨ own.2 ≠ 0) ∧ ((s.die d).copy? line).isSome = true) then
        ((s.l2Drop d line).addPoison line).sramUe d
      else s
    | .memory line =>
      let s1 := s.addPoison line
      (match tierOf (128 * line) with
       | some 0 => s1.setDie (homeDie line) (fun x => { x with hbmue := satInc x.hbmue })
       | some 1 => s1.setHub (fun h => { h with lpue := satInc h.lpue })
       | _ => s)
    | .sreg w n => (s.setReg (.warp w) (.s n.toNat) 0).lostWord w.blockId
    | .vreg w n l => (s.setReg (.warp w) (.v n.toNat) (zeroLane (s.regBase (.warp w) (.v n.toNat)) l.toNat)).lostWord w.blockId
    | .kreg w n => (s.setReg (.warp w) (.k n.toNat) 0).lostWord w.blockId
    | .ereg w n hi => (s.loseHalf (.warp w) (.e n.toNat) hi).lostWord w.blockId
    | .mreg b n hi => (s.loseHalf (.seq b) (.m n.toNat) hi).lostWord b
    | .acc b tile e =>
      (s.setBlock b (fun k => { k with
        acc := tset 0 (32 * tile + e / 32) (zeroLane (tget 0 k.acc (32 * tile + e / 32)) (e % 32)) k.acc })).lostWord b
    | .scratch b w => (s.setBlock b (fun k => k.sput (4 * w) [0, 0, 0, 0])).lostWord b
    | .side b w =>
      (s.setBlock b (fun k => k.sputLine (w / 2) { data := 0, mask := 0, side := 0, sideMask := 15 <<< (4 * (w % 2)) })).lostWord b
    | .fifo b f n l =>
      (s.setFifo b f (fun es => es.modify n (fun v => zeroLane v l.toNat))).lostWord b)

/-- R449: a die-level fault stops the die's cores. -/
def State.faultDie (s : State) (d : Nat) : State :=
  let s1 := (s.setDie d (fun x => { x with dieflt := true })).setHub (fun h =>
    { h with badPos := insertNat (positionOf h.hidden.toNat d) h.badPos })
  if s.hub.spgood then s1 else s1.checkRq (fun h => { h with rqdie := true })

def execDieFault (s : State) : Out := .next (s.faultDie s.on.n)

/-! ### Boot (R444-R446) -/

/-- What the hub's flash keeps over a boot. -/
def Hub.flash (h : Hub) : Hub :=
  { hidden := h.hidden, swapped := h.swapped, absent := h.absent, rebound := h.rebound, fusedPhys := h.fusedPhys,
    badPos := h.badPos }

/-- The logical cores as the soft fuses bind them to physical ones. -/
def Hub.bootCores (h : Hub) : List Core :=
  (List.range 192).map (fun c => if h.absent.contains c then { Core.reset c with fused := true } else boundCore c (h.physOf c))

/-- The machine at the start of a boot: at its reset values, with the flash's content and the soft fuses applied. -/
def State.rebooted (s : State) : State :=
  let h := s.hub.flash
  { State.reset with agenda := s.agenda, freeCtr := s.freeCtr, now := s.now, hub := h, cores := h.bootCores }

/-- PFUSE of a position: the cores that fuses hide, and those that soft fuses do. -/
def Hub.pfuseOf (h : Hub) (p : Nat) : BitVec 52 :=
  ([48, 49, 50, 51].filter (fun c => !(Config.spareGood p c)) ++ (h.fusedPhys.filter (fun q => q.1 == p)).map Prod.snd).foldl
    (fun m c => m ||| ((1 : BitVec 52) <<< c)) 0

/-- The package report: positions 0 to 4 and the hub. -/
def Hub.reportOf (h : Hub) (good : BitVec 5) : List ReportEntry :=
  let f := h.hidden.toNat
  (List.range 5).map (fun p =>
    { pos := p, ldie := (p + 5 - (f + 1)) % 5 % 4, pfuse := h.pfuseOf p,
      dstate := if p = f then (if h.swapped then 3 else if bit good p then 1 else 2) else if bit good p then 0 else 3 }) ++
    [{ pos := 5, dstate := 0, ldie := 0, pfuse := 0 }]

/-- Active positions whose die fails discovery. -/
def failedAt (f : Nat) (good : BitVec 5) : List Nat := (List.range 5).filter (fun p => p != f && !(bit good p))

/-- Logical die at a position, with position `f` hidden. -/
def logicalAt (f p : Nat) : Nat := (p + 5 - (f + 1)) % 5
/-- The logical core that the place of core `c` in its die has once position `f'` is hidden instead of `f`: soft fuses stay
with their position (R439, R445). -/
def movedCore (f f' c : Nat) : Option Nat :=
  let d := logicalAt f' (positionOf f (c / 48))
  if d < 4 then some (48 * d + c % 48) else none

/-- Position `p` is hidden from now on. -/
def Hub.hide (h : Hub) (p : Nat) : Hub :=
  let f := h.hidden.toNat
  { h with hidden := BitVec.ofNat 3 p, swapped := true, spgood := false,
           absent := h.absent.filterMap (movedCore f p),
           rebound := h.rebound.filterMap (fun r => (movedCore f p r.1).map (fun c => (c, r.2))) }

/-- Discovery with the substitution of R445: the hub after it. Of several failing dies the one at the lowest position is
replaced (DESIGN CHOICE, log 112); with another still failing there is no spare left. -/
def Hub.discover (h : Hub) (good : BitVec 5) : Hub × Bool :=
  let f := h.hidden.toNat
  let h1 := { h with spgood := !h.swapped && bit good f }
  match failedAt f good with
  | [] => (h1, true)
  | p :: rest => if h1.spgood then (h1.hide p, rest.isEmpty) else (h1, false)

/-- The positions that pass discovery: none whose die has had a die-level fault (R449). -/
def Hub.passes (h : Hub) (good : BitVec 5) : BitVec 5 := h.badPos.foldl (fun g p => g &&& ~~~((1 : BitVec 5) <<< p)) good

/-- Firmware: the first image that verifies is taken. -/
def State.bootFirmware (s : State) (slot0 slot1 : Bool) : State :=
  let s1 := s.rebooted
  if !slot0 && !slot1 then s1.setHub (fun h => { h with bootst := 4 })
  else s1.setHub (fun h => { h with slot := !slot0, bootst := 1 })

/-- Discovery, the remap, the soft fuses and the package report. -/
def State.bootDiscovery (s : State) (good0 : BitVec 5) : State :=
  let good := s.hub.passes good0
  let r := s.hub.discover good
  let h := { r.1 with report := r.1.reportOf good }
  if r.2 then { s with cores := h.bootCores }.checkRq (fun _ => { h with bootst := 2 })
  else s.checkRq (fun _ => { h with bootst := 4, rqdie := true })

/-- R444, R445: the hub boots, a step for each of firmware, discovery and training. `slot0` and `slot1` say which firmware
images verify, `good` which positions pass discovery. -/
def execBoot (slot0 slot1 : Bool) (good : BitVec 5) (s : State) : Out :=
  .next (match s.hub.bootst.toNat with
    | 1 => s.bootDiscovery good
    | 2 => s.setHub (fun h => { h with bootst := 3 })
    | _ => s.bootFirmware slot0 slot1)

/-! ### SPDM (R447) -/

/-- What a reply says, as its signature covers it. -/
def SpdmReply.message : SpdmReply → List Nat
  | .version => [0]
  | .capabilities => [1]
  | .algorithms => [2]
  | .digests x => [3, x.toNat]
  | .certificate n x => [4, n.toNat, x]
  | .challengeAuth n _ => [5, n.toNat]
  | .measurements i ds _ => [6, i.toNat] ++ ds.flatMap (fun p => [p.1, p.2.toNat])
  | .error => [7]

/-- The hub answers, and signs its answer. -/
def State.spdm (s : State) (r : SpdmReply) : State :=
  s.setHub (fun h => { h with reply := some r, replySig := Config.signature r.message })

def execGetVersion (s : State) : Out := .next (s.spdm .version)
def execGetCapabilities (s : State) : Out := .next (s.spdm .capabilities)
def execNegotiateAlgorithms (s : State) : Out := .next (s.spdm .algorithms)
def execGetDigests (s : State) : Out := .next (s.spdm (.digests (Config.digest 0 [])))
def execGetCertificate (slot : Byte) (s : State) : Out := .next (s.spdm (.certificate slot (Config.certificate slot.toNat)))
def execChallenge (nonce : BitVec 256) (s : State) : Out := .next (s.spdm (.challengeAuth nonce (Config.signature [nonce.toNat])))

/-- The position's die is active. -/
def Hub.activeAt (h : Hub) (p : Nat) : Bool := h.report.any (fun e => e.pos == p && e.dstate == 0)

/-- What a measurement covers. -/
def Hub.measured (h : Hub) (i : Nat) : List Nat :=
  match i with
  | 2 => [b2n h.slot]
  | 3 => [h.hidden.toNat, b2n h.swapped] ++ h.absent ++ h.fusedPhys.map (fun p => 64 * p.1 + p.2)
  | 4 => h.report.flatMap (fun e => [e.pos, e.dstate, e.ldie, e.pfuse.toNat])
  | _ => []

/-- A measurement: firmware of a position whose die is not active measures as zero. -/
def Hub.measurement (h : Hub) (i : Nat) : BitVec 512 :=
  if 5 ≤ i ∧ h.activeAt (i - 5) = false then 0 else Config.digest i (h.measured i)

/-- R447: one of the nine measurements. -/
def execGetMeasurements (index : Byte) (nonce : BitVec 256) (s : State) : Out :=
  let i := index.toNat
  .next (if 1 ≤ i ∧ i ≤ 9 then
    let m := s.hub.measurement i
    s.spdm (.measurements index [(i, m)] (Config.signature [nonce.toNat, i, m.toNat]))
  else s.spdm .error)

end Sys2Proof.Machine
end

