-- ==== Sys2Proof/Machine/Registers.lean ====
section
/-! DEFINITION. The registers of BAR0 (R7, R8, R434): what the host's write of each does, what its read returns, and
the check of a context descriptor (R367, R368). -/

namespace Sys2Proof.Machine

/-! ### Helpers -/

/-- The low or the high half of a 64-bit register replaced. -/
def setLo (x : DWord) (v : Word) : DWord := join64 (hi32 x) v
def setHi (x : DWord) (v : Word) : DWord := join64 v (lo32 x)
/-- Bits [n-1:0] of a 64-bit register. -/
def low (n : Nat) (x : DWord) : DWord := x &&& BitVec.ofNat 64 (2 ^ n - 1)
/-- A 64-bit register at `base`, `n` bits wide, after a write of the word at `off`. -/
def half (n : Nat) (x : DWord) (base off : Nat) (v : Word) : DWord :=
  low n (if off = base then setLo x v else if off = base + 4 then setHi x v else x)
/-- The word at `off` of a 64-bit register at `base`. -/
def word64 (x : DWord) (base off : Nat) : Word := if off = base then lo32 x else hi32 x

/-! ### Contexts (R367, R368) -/

/-- The heap range lies inside HBM4E or LPDDR6, and PTROOT is aligned; no heap lies anywhere. -/
def Context.ok (c : Context) : Bool :=
  let lo := (c.hbase + c.hofs).toNat
  let hi := lo + c.hlim.toNat
  c.ptroot.toNat % 4096 == 0 && (c.hlim == 0 ||
    (decide (c.hbase.toNat + c.hlim.toNat ≤ 2 ^ 57) &&
      (decide (hi ≤ 0x009502F90000) || (decide (0x010000000000 ≤ lo) && decide (hi ≤ 0x01EE6B280000)))))

/-- The RW fields of a descriptor after a write at byte `off`. -/
def Context.put (c : Context) (off : Nat) (wide : Bool) (val : DWord) : Context :=
  let w := put32 (BitVec.ofNat 32 (4 * b2n c.hrd + 8 * b2n c.hwr + 16 * b2n c.hex)) 0 off wide val
  { c with
    hrd := bit w 2, hwr := bit w 3, hex := bit w 4, ptroot := low 47 (put64 c.ptroot 0x08 off wide val),
    hbase := low 57 (put64 c.hbase 0x10 off wide val), hlim := low 57 (put64 c.hlim 0x18 off wide val),
    hofs := put64 c.hofs 0x20 off wide val }

/-- R368: a write to a descriptor is checked as it is applied. -/
def State.contextWrite (s : State) (n off : Nat) (wide : Bool) (val : DWord) : State :=
  if 0x28 ≤ off then s
  else
    let c := (s.context n).put off wide val
    { s with ctxs := s.ctxs.set n { c with cvalid := c.ok, cerr := !c.ok } }

def execContextDescWrite (c : BitVec 4) (off : BitVec 6) (wide : Bool) (val : DWord) (s : State) : Out :=
  .next (s.served (s.contextWrite c.toNat off.toNat wide val))

/-! ### The management page (R440) -/

/-- Some die has had `thr` corrected errors within a window of `win` ns that ends now (R448). -/
def State.rateReached (s : State) (win thr : Word) : Bool :=
  s.dies.any (fun d => decide (thr.toNat ≤ (d.ceTimes.filter (fun t => decide (s.now < t + win.toNat))).length))

def State.mgmtWrite (s : State) (off : Nat) (v : Word) : State :=
  let die := (off - 0x100) / 16
  let ctr := (off - 0x200) / 32
  let setCtr (f : Die → Die) : State := s.setDie ctr f
  if off = 0x008 ∨ off = 0x00C then s.setHub (fun h => { h with devtime := half 64 h.devtime 0x008 off v })
  else if off = 0x010 then (if bit v 0 then s.setTime else s)
  else if off = 0x014 then
    let s1 := s.setHub (fun h => { h with cfcore := v.setWidth 8 })
    if bit v 8 then s1.softFuse else s1
  else if off = 0x030 then s.checkRq (fun h => { h with corefloor := v.extractLsb' 8 8 })
  else if off = 0x034 then s.checkRq (fun h => { h with errwin := v, rqrate := h.rqrate || s.rateReached v h.errthr })
  else if off = 0x038 then s.checkRq (fun h => { h with errthr := v, rqrate := h.rqrate || s.rateReached h.errwin v })
  else if off = 0x03C then s.checkRq (fun h => { h with rqrate := h.rqrate && !(bit v 3) })
  else if 0x100 ≤ off ∧ off < 0x140 then (if off % 16 = 0 then s.powerCmd die (v.toNat % 8) else s)
  else if 0x200 ≤ off ∧ off < 0x280 then
    match off % 32 with
    | 0 => setCtr (fun d => { d with hbmce := v })
    | 4 => setCtr (fun d => { d with hbmue := v })
    | 8 => setCtr (fun d => { d with sramce := v })
    | 12 => setCtr (fun d => { d with sramue := v })
    | 16 => setCtr (fun d => { d with linkrty := v })
    | _ => s
  else if off = 0x300 then s.setHub (fun h => { h with lpce := v })
  else if off = 0x304 then s.setHub (fun h => { h with lpue := v })
  else s

/-! ### The front-end page (R345, R362) -/

def State.commandWrite (s : State) (v : Word) : State :=
  match v.toNat % 8 with
  | 1 => s.preemptCmd
  | 2 => s.restoreCmd
  | 3 => s.endCmd
  | _ => s

def State.queueWrite (s : State) (q off : Nat) (v : Word) : State :=
  if off < 0x08 then s.setQueue q (fun x => { x with qbase := half 64 x.qbase 0x00 off v })
  else if off < 0x10 then s.setQueue q (fun x => { x with cbase := half 64 x.cbase 0x08 off v })
  else if off = 0x10 then s.setQueue q (fun x => { x with qlog := v.setWidth 5, devq := bit v 5, irq := bit v 6 })
  else if off = 0x14 then
    (match v.toNat % 4 with
     | 1 => s.enableQueue q
     | 2 => s.disableQueue q
     | _ => s)
  else s

def State.frontWrite (s : State) (off : Nat) (v : Word) : State :=
  if off = 0x100 ∨ off = 0x104 then s.setFront (fun f => { f with cmdcsa := half 64 f.cmdcsa 0x100 off v })
  else if off = 0x108 then s.setFront (fun f => { f with cmdgrid := v })
  else if off = 0x10C then s.setFront (fun f => { f with cmddl := v })
  else if off = 0x110 then s.commandWrite v
  else if off = 0x120 then s.setFront (fun f => { f with rstack := v.setWidth 4, rrate := v.extractLsb' 4 4 })
  else if off = 0x124 then
    (match v.toNat % 4 with
     | 1 => s.retrainRequest
     | 2 => s.retrainCancel
     | _ => s)
  else if 0x1000 ≤ off ∧ off < 0x2000 then s.queueWrite ((off - 0x1000) / 64) (off % 64) v
  else s

/-! ### The translation page (R367, R376, R381) -/

def State.castleRegWrite (s : State) (off : Nat) (v : Word) : State :=
  let set (f : Castle → Castle) : State := s.setCastle f
  if off < 0x1008 then set (fun c => { c with csrec := half 47 c.csrec 0x1000 off v })
  else if off = 0x1008 then s.castleCmd (v.toNat % 8)
  else if off = 0x1010 ∨ off = 0x1014 then set (fun c => { c with cebase := half 47 c.cebase 0x1010 off v })
  else if off = 0x1018 then set (fun c => { c with celog := v.setWidth 5 })
  else if off = 0x1020 then set (fun c => { c with cehead := v })
  else if off = 0x1028 ∨ off = 0x102C then set (fun c => { c with hotbase := half 47 c.hotbase 0x1028 off v })
  else if off = 0x1030 then set (fun c => { c with hcxl0 := v })
  else if off = 0x1034 then set (fun c => { c with hcxl1 := v })
  else if off = 0x1038 then set (fun c => { c with dshift := v.setWidth 5 })
  else if off = 0x1040 ∨ off = 0x1044 then set (fun c => { c with ckdst0 := half 47 c.ckdst0 0x1040 off v })
  else if off = 0x1048 ∨ off = 0x104C then set (fun c => { c with ckdst1 := half 47 c.ckdst1 0x1048 off v })
  else s

/-- TFCMD. -/
def State.flushCmd (s : State) (cmd : Nat) : State :=
  match cmd with
  | 1 => s.tlbFlush false
  | 2 => s.tlbFlush true
  | _ => s

def State.queueCtxWrite (s : State) (q off : Nat) (v : Word) : State :=
  if off = 0 then s.setQctx q (fun x => { x with qctx := v.setWidth 4 })
  else if off = 8 ∨ off = 12 then s.setQctx q (fun x => { x with ulbase := half 47 x.ulbase 8 off v })
  else if off = 16 then s.setQctx q (fun x => { x with ulsize := v })
  else s

def State.translationWrite (s : State) (off : Nat) (v : Word) : State :=
  let set (f : FaultQ → FaultQ) : State := s.setFq f
  if off < 0x008 then set (fun q => { q with fqbase := half 47 q.fqbase 0x000 off v })
  else if off = 0x008 then set (fun q => { q with fqlog := v.setWidth 5 })
  else if off = 0x010 then set (fun q => { q with fqhead := v })
  else if off = 0x014 then set (fun q => { q with ansseq := v })
  else if off = 0x018 then s.answerFault (v.toNat % 4)
  else if off = 0x020 then (set (fun q => { q with tfctx := v.setWidth 4 })).flushCmd (v.extractLsb' 4 2).toNat
  else if off = 0x028 ∨ off = 0x02C then set (fun q => { q with tfva := half 57 q.tfva 0x028 off v })
  else if 0x800 ≤ off ∧ off < 0x1000 then s.queueCtxWrite ((off - 0x800) / 32) (off % 32) v
  else if 0x1000 ≤ off ∧ off < 0x1060 then s.castleRegWrite off v
  else s

/-! ### The fabric page (R400, R410, R413) -/

def State.fabricWrite (s : State) (off : Nat) (v : Word) : State :=
  let set (f : Fabric → Fabric) : State := s.setFab f
  let trained := s.fab.stup != 0
  if off = 0x000 then (if trained then s else set (fun f => { f with fabid := v.setWidth 10, fvalid := bit v 10 }))
  else if off = 0x008 then set (fun f => { f with nsw := v.setWidth 5, rstpol := bit v 8 })
  else if off = 0x00C then set (fun f => { f with treq := v })
  else if 0x010 ≤ off ∧ off < 0x020 then
    (if trained then s else set (fun f => { f with inc := f.inc.set ((off - 0x010) / 4) (v.setWidth 16) }))
  else if off = 0x020 then (set (fun f => { f with stmap0 := v })).remapHeld
  else if off = 0x024 then (set (fun f => { f with stmap1 := v })).remapHeld
  else if off = 0x028 then set (fun f => { f with kto := v })
  else if off = 0x100 then set (fun f => { f with ktgt := v.setWidth 11 })
  else if off = 0x108 ∨ off = 0x10C then set (fun f => { f with salt := half 64 f.salt 0x108 off v })
  else if 0x110 ≤ off ∧ off < 0x130 then
    let m : BitVec 256 := (0xFFFFFFFF : BitVec 256) <<< (8 * (off - 0x110))
    set (fun f => { f with key := merge m f.key ((v.setWidth 256) <<< (8 * (off - 0x110))) })
  else if off = 0x130 then (if bit v 0 then s.installKey else s)
  else if off = 0x140 ∨ off = 0x144 then set (fun f => { f with flbase := (half 47 (f.flbase.setWidth 64) 0x140 off v).setWidth 47 })
  else if off = 0x148 then set (fun f => { f with nflow := v.setWidth 11 })
  else s

/-! ### Core pages (R321) and the whole map (R434) -/

/-- A write to offset 0x008 of a core's page is a bank command; an absent core has none. The spec gives the host no register
by which it clears the event counters of R264: only a boot puts them at their reset value (DESIGN CHOICE, log 108). -/
def State.coreWrite (s : State) (c off : Nat) (v : Word) : State :=
  if off = 0x008 ∧ (s.core c).fused = false then s.bankCmd c (v.toNat % 16) (v.extractLsb' 4 2).toNat else s

/-- One 4-byte write. -/
def State.write32 (s : State) (off : Nat) (v : Word) : State :=
  if off < 0x10000 then s.mgmtWrite off v
  else if s.hub.bootst = 4 then s
  else if off < 0x20000 then s.frontWrite (off - 0x10000) v
  else if off < 0x30000 then s.translationWrite (off - 0x20000) v
  else if off < 0x40000 then s.fabricWrite (off - 0x30000) v
  else if 0x100000 ≤ off ∧ off < 0x100000 + 0x1000 * 192 then s.coreWrite ((off - 0x100000) / 0x1000) (off % 0x1000) v
  else s

/-- A register access is one of 4 or 8 bytes, naturally aligned; any other completes as an unsupported request (R434). -/
def regAccess (off n : Nat) : Bool := (n == 4 || n == 8) && off % n == 0

/-- A write of 4 or 8 bytes; an 8-byte write covers two adjacent registers, and lies in one descriptor whole. -/
def State.regWrite (s : State) (off : Nat) (wide : Bool) (val : DWord) : State :=
  if 0x20400 ≤ off ∧ off < 0x20800 then
    (if s.hub.bootst = 4 then s else s.contextWrite ((off - 0x20400) / 64) (off % 64) wide val)
  else if 0x32000 ≤ off ∧ off < 0x32800 then
    (if s.hub.bootst = 4 then s else s.regionWrite ((off - 0x32000) / 128) (off % 128) wide val)
  else
    let s1 := s.write32 off (lo32 val)
    if wide then s1.write32 (off + 4) (hi32 val) else s1

/-- R434: the host writes a register, and takes the status that the access completes with. -/
def execRegisterWrite (off : BitVec 25) (wide : Bool) (val : DWord) (s : State) : Out :=
  let ok := regAccess off.toNat (if wide then 8 else 4)
  let s1 := s.setHub (fun h => { h with ur := !ok })
  .next (if ok then s1.regWrite off.toNat wide val else s1)

/-! ### Reads (R7, R434) -/

/-- A word from fields: value, lowest bit. -/
def fields (l : List (Nat × Nat)) : Word := BitVec.ofNat 32 (sumNat (l.map (fun p => p.1 * 2 ^ p.2)))

/-- The word at `off` of a byte string whose value is `x`. -/
def wordOf (x off : Nat) : Word := BitVec.ofNat 32 (field x (8 * off) 32)

def Hub.absentBits (h : Hub) : Nat := sumNat (h.absent.map (fun c => 2 ^ c))

/-- An entry of the package report. -/
def ReportEntry.word (e : ReportEntry) (off : Nat) : Word :=
  if off = 0 then fields [(e.pos, 0), (e.dstate, 3), (e.ldie, 6)]
  else if off = 8 ∨ off = 12 then wordOf e.pfuse.toNat (off - 8)
  else if 0x40 ≤ off then wordOf (Config.digest (16 + e.pos) []).toNat (off - 0x40)
  else 0

def State.mgmtRead (s : State) (off : Nat) : Word :=
  let h := s.hub
  let d := s.die ((off - 0x100) / 16)
  let c := s.die ((off - 0x200) / 32)
  if off = 0x000 then fields [(h.bootst.toNat, 0), (b2n h.slot, 3)]
  else if off = 0x004 then fields [(h.hidden.toNat, 0), (b2n h.spgood, 3), (b2n h.swapped, 4)]
  else if off = 0x014 then fields [(h.cfcore.toNat, 0), (h.cfres.toNat, 9)]
  else if 0x018 ≤ off ∧ off < 0x030 then wordOf h.absentBits (off - 0x018)
  else if off = 0x030 then fields [(h.usable, 0), (h.corefloor.toNat, 8)]
  else if off = 0x034 then h.errwin
  else if off = 0x038 then h.errthr
  else if off = 0x03C then fields [(b2n h.rq, 0), (b2n h.rqdie, 1), (b2n h.rqcore, 2), (b2n h.rqrate, 3)]
  else if 0x100 ≤ off ∧ off < 0x140 then
    (match off % 16 with
     | 0 => fields [(d.ptgt.toNat, 0), (d.pcur.toNat, 4), (b2n d.pbusy, 7), (b2n d.halt, 8), (d.pres.toNat, 9)]
     | 4 => fields [(d.temp.toNat, 0)]
     | _ => 0)
  else if 0x200 ≤ off ∧ off < 0x280 then
    (match off % 32 with
     | 0 => c.hbmce | 4 => c.hbmue | 8 => c.sramce | 12 => c.sramue | 16 => c.linkrty | 20 => fields [(b2n c.dieflt, 0)]
     | _ => 0)
  else if off = 0x300 then h.lpce
  else if off = 0x304 then h.lpue
  else if 0x800 ≤ off ∧ off < 0xB00 then
    (match h.report.find? (fun e => e.pos == (off - 0x800) / 128) with
     | some e => e.word (off % 128)
     | none => 0)
  else 0

def State.queueRead (s : State) (n off : Nat) : Word :=
  let q := s.queue n
  if off < 0x08 then word64 q.qbase 0x00 off
  else if off < 0x10 then word64 q.cbase 0x08 off
  else match off with
    | 0x10 => fields [(q.qlog.toNat, 0), (b2n q.devq, 5), (b2n q.irq, 6)]
    | 0x18 => fields [(q.head.toNat, 0)]
    | 0x1C => fields [(q.done.toNat, 0)]
    | 0x20 => fields [(q.tail.toNat, 0)]
    | 0x24 => fields [(q.qstate.toNat, 0), (b2n q.efail, 3)]
    | _ => 0

def State.frontReg (s : State) (off : Nat) : Word :=
  let f := s.front
  if off = 0x100 ∨ off = 0x104 then word64 f.cmdcsa 0x100 off
  else if off = 0x108 then f.cmdgrid
  else if off = 0x10C then f.cmddl
  else if off = 0x114 then fields [(b2n f.cbusy, 0), (f.cres.toNat, 1)]
  else if off = 0x120 then fields [(f.rstack.toNat, 0), (f.rrate.toNat, 4)]
  else if off = 0x128 then fields [(f.rstate.toNat, 0), (b2n f.rcan, 2), (b2n f.rref, 3)]
  else if 0x1000 ≤ off ∧ off < 0x2000 then s.queueRead ((off - 0x1000) / 64) (off % 64)
  else 0

def State.castleReg (s : State) (off : Nat) : Word :=
  let c := s.castle
  if off < 0x1008 then word64 c.csrec 0x1000 off
  else if off = 0x100C then fields [(c.csres.toNat, 0)]
  else if off = 0x1010 ∨ off = 0x1014 then word64 c.cebase 0x1010 off
  else if off = 0x1018 then fields [(c.celog.toNat, 0)]
  else if off = 0x101C then c.cetail
  else if off = 0x1020 then c.cehead
  else if off = 0x1028 ∨ off = 0x102C then word64 c.hotbase 0x1028 off
  else if off = 0x1030 then c.hcxl0
  else if off = 0x1034 then c.hcxl1
  else if off = 0x1038 then fields [(c.dshift.toNat, 0)]
  else if off = 0x1040 ∨ off = 0x1044 then word64 c.ckdst0 0x1040 off
  else if off = 0x1048 ∨ off = 0x104C then word64 c.ckdst1 0x1048 off
  else if off = 0x1050 ∨ off = 0x1054 then word64 c.ckdone 0x1050 off
  else if off = 0x1058 then c.ckpois
  else if off = 0x105C then fields [(b2n c.ckbusy, 0)]
  else 0

def Context.word (c : Context) (off : Nat) : Word :=
  if off = 0 then fields [(b2n c.cvalid, 0), (b2n c.cerr, 1), (b2n c.hrd, 2), (b2n c.hwr, 3), (b2n c.hex, 4)]
  else if off = 0x08 ∨ off = 0x0C then word64 c.ptroot 0x08 off
  else if off = 0x10 ∨ off = 0x14 then word64 c.hbase 0x10 off
  else if off = 0x18 ∨ off = 0x1C then word64 c.hlim 0x18 off
  else if off = 0x20 ∨ off = 0x24 then word64 c.hofs 0x20 off
  else 0

def QueueCtx.word (q : QueueCtx) (off : Nat) : Word :=
  match off with
  | 0 => fields [(q.qctx.toNat, 0)]
  | 0x08 => lo32 q.ulbase
  | 0x0C => hi32 q.ulbase
  | 0x10 => q.ulsize
  | 0x14 => q.ulused
  | 0x18 => fields [(q.rbst.toNat, 0), (b2n q.reln, 2)]
  | 0x1C => q.rbcnt
  | _ => 0

def State.translationReg (s : State) (off : Nat) : Word :=
  let q := s.fq
  if off < 0x008 then word64 q.fqbase 0x000 off
  else if off = 0x008 then fields [(q.fqlog.toNat, 0)]
  else if off = 0x00C then q.fqtail
  else if off = 0x010 then q.fqhead
  else if off = 0x014 then q.ansseq
  else if off = 0x01C then fields [(q.ares.toNat, 0)]
  else if off = 0x020 then fields [(q.tfctx.toNat, 0)]
  else if off = 0x028 ∨ off = 0x02C then word64 q.tfva 0x028 off
  else if off = 0x030 then fields [(b2n q.flush.isSome, 0)]
  else if off = 0x034 then q.poisrd
  else if 0x400 ≤ off ∧ off < 0x800 then (s.context ((off - 0x400) / 64)).word (off % 64)
  else if 0x800 ≤ off ∧ off < 0x1000 then (s.qctx ((off - 0x800) / 32)).word (off % 32)
  else if 0x1000 ≤ off ∧ off < 0x1060 then s.castleReg off
  else 0

def RookRegion.word (r : RookRegion) (off : Nat) : Word :=
  match off with
  | 0x00 => fields [(r.rookid.toNat, 0), (r.role.toNat, 16), (r.policy.toNat, 18), (b2n r.rerr, 20)]
  | 0x04 => r.cmask
  | 0x08 => r.nblk
  | 0x10 => lo32 r.base
  | 0x14 => hi32 r.base
  | 0x18 => lo32 r.swbase
  | 0x1C => hi32 r.swbase
  | 0x20 => lo32 r.pubbase
  | 0x24 => hi32 r.pubbase
  | 0x28 => lo32 r.urec
  | 0x2C => hi32 r.urec
  | 0x30 => fields [(r.uq.toNat, 0)]
  | 0x34 => r.dlns
  | 0x38 => lo32 r.subl
  | 0x3C => hi32 r.subl
  | 0x40 => fields [(r.nsub.toNat, 0)]
  | 0x44 => fields [(r.mpeer.toNat, 0), (b2n r.men, 10)]
  | 0x48 => wordOf r.rstep.toNat 0
  | 0x4C => wordOf r.rstep.toNat 4
  | 0x50 => r.dupcnt
  | 0x54 => r.stalecnt
  | 0x58 => r.farcnt
  | 0x5C => r.latecnt
  | 0x60 => r.dlcnt
  | 0x64 => fields [(b2n (!r.stalled.isEmpty), 0)]
  | 0x6C => r.rblk
  | _ => 0

def State.fabricReg (s : State) (off : Nat) : Word :=
  let f := s.fab
  if off = 0x000 then fields [(f.fabid.toNat, 0), (b2n f.fvalid, 10)]
  else if off = 0x004 then
    fields ((f.stup.toNat, 0) :: (List.range 16).map (fun i => (b2n ((f.stations[i]?).getD {}).kx.isSome, 16 + i)))
  else if off = 0x008 then fields [(f.nsw.toNat, 0), (b2n f.rstpol, 8)]
  else if off = 0x00C then f.treq
  else if 0x010 ≤ off ∧ off < 0x020 then fields [(((f.inc[(off - 0x010) / 4]?).getD 0).toNat, 0)]
  else if off = 0x020 then f.stmap0
  else if off = 0x024 then f.stmap1
  else if off = 0x028 then f.kto
  else if off = 0x030 then f.dropcnt
  else if off = 0x034 then f.rsvcnt
  else if off = 0x038 then f.incdrop
  else if off = 0x03C then f.tocnt
  else if off = 0x040 then f.kxerr
  else if off = 0x100 then fields [(f.ktgt.toNat, 0)]
  else if off = 0x134 then fields [(f.kres.toNat, 0)]
  else if off = 0x140 ∨ off = 0x144 then word64 (f.flbase.setWidth 64) 0x140 off
  else if off = 0x148 then fields [(f.nflow.toNat, 0)]
  else if 0x2000 ≤ off ∧ off < 0x2800 then (s.region ((off - 0x2000) / 128)).word (off % 128)
  else 0

/-- Mode codes of R319. -/
def BankMode.code : BankMode → Nat
  | .off => 0 | .cache => 1 | .scratch => 2 | .fifo => 3

def State.coreReg (s : State) (c off : Nat) : Word :=
  let k := s.core c
  if k.fused then 0
  else match off with
    | 0x000 => fields ((k.modes.zip (List.range 16)).map (fun p => (p.1.code, 2 * p.2)))
    | 0x004 => fields [(k.owned.toNat, 0)]
    | 0x00C => fields [(b2n k.busy, 0), (k.res.toNat, 1), (k.lbank.toNat, 4), (min (k.pinnedIn k.lbank.toNat) 255, 8)]
    | 0x010 => fields [(k.locx.toNat, 0), (k.locy.toNat, 4)]
    | 0x014 => fields [((k.modes.filter (fun m => m == .cache)).length, 0)]
    | _ => 0

/-- What the host's read of the word at an offset returns. -/
def State.read32 (s : State) (off : Nat) : Word :=
  if off < 0x10000 then s.mgmtRead off
  else if s.hub.bootst = 4 then 0
  else if off < 0x20000 then s.frontReg (off - 0x10000)
  else if off < 0x30000 then s.translationReg (off - 0x20000)
  else if off < 0x40000 then s.fabricReg (off - 0x30000)
  else if 0x100000 ≤ off ∧ off < 0x100000 + 0x1000 * 192 then s.coreReg ((off - 0x100000) / 0x1000) (off % 0x1000)
  else 0

/-- What the host's read of `n` bytes returns; none where it completes as an unsupported request (R434). -/
def State.regRead (s : State) (off n : Nat) : Option DWord :=
  if regAccess off n then
    some (if n = 8 then join64 (s.read32 (off + 4)) (s.read32 off) else (s.read32 off).setWidth 64)
  else none

end Sys2Proof.Machine
end

