-- ==== Sys2Proof/Machine/Waipor.lean ====
section
/-! DEFINITION. The Waipor transport (R410-R412): segments sent, sent again, received and acknowledged. -/

namespace Sys2Proof.Machine

/-- A flow can send: described, enabled, not down, with a key. -/
def State.flowOpen (s : State) (f : Nat) : Bool :=
  decide (f < s.fab.nflow.toNat) && (s.flowWord f 0).testBit 2 && !((s.flowWord f 0).testBit 3) &&
    ((s.flow f).keys.cur.isSome || (s.flow f).keys.next.isSome)

/-- RTO of a flow. -/
def State.rto (s : State) (f : Nat) : Nat := if s.flowWord f 0x28 = 0 then 2500000 else s.flowWord f 0x28

/-- The low 64 bits of SACK: bit `i` for SEQ ACKB + 1 + i. -/
def Flow.sack (w : Flow) : DWord := BitVec.ofNat 64 (packNat 1 (fun i => b2n (w.got.contains (w.ackb + 1 + i))) 64)

/-- The authenticated bytes of a segment (R411). -/
def segBytes (x : Segment) : List Byte :=
  bytesLE 4 ((if x.data then 1 else 2) + 16 * b2n x.ksel + 65536 * x.flow.toNat) ++ bytesLE 4 x.ctr.toNat ++
    bytesLE 4 x.seq.toNat ++ bytesLE 4 x.ackb.toNat ++ bytesLE 8 x.sack.toNat ++ bytesLE 8 x.payload.length ++ x.payload

/-- KEY_EXHAUSTED holds a segment. -/
def Flow.hold (w : Flow) (seq : Nat) : Flow := { w with held := insertNat seq w.held }

/-- A flow puts a segment on its port under a fresh counter, with the bytes it carries encrypted; `none` where the
exhausted key lets nothing out. -/
def State.putSegment (s : State) (f : Nat) (data : Bool) (seq : Nat) (bs : List Byte := []) : Option State :=
  let w := s.flow f
  let u := w.keys.use s.now
  if !u.2 then none
  else
    let ctr := u.1.ctr - 1
    let k := u.1.cur.getD ⟨0, 0⟩
    let x : Segment := { data := data, ksel := u.1.sel, flow := BitVec.ofNat 16 (s.flowWord f 0x2C),
                         port := BitVec.ofNat 2 (s.flowWord f 0), srcUdp := BitVec.ofNat 16 (s.flowField f 4 2),
                         dstUdp := BitVec.ofNat 16 (s.flowField f 6 2), dstIp := BitVec.ofNat 128 (s.flowField f 8 16),
                         srcIp := BitVec.ofNat 128 (s.flowField f 0x18 16), ctr := BitVec.ofNat 32 ctr,
                         seq := BitVec.ofNat 32 seq, ackb := BitVec.ofNat 32 w.ackb, sack := w.sack,
                         payload := if data then (Config.gcmBody k.salt k.key (BitVec.ofNat 32 ctr) bs).take 4096 else [],
                         tag := 0 }
    let y := { x with tag := Config.gcmTag k.salt k.key x.ctr (segBytes x) }
    let s1 := s.setFlow f (fun w => { w with keys := u.1, wire := some y, ackDue := false })
    let s2 := s1.kxIrq w.keys u.1
    some (if w.keys.exhausts u.1 then s2.flowBit f 4 true else s2)

/-- What a data segment carries, read from its source now (R412). -/
def State.segRead (s : State) (q : SegData) : Except PlanStop (List Byte) :=
  match q.src with
  | .bytes bs => .ok bs
  | .mem d ctx va n => match s.planList { id := q.own, die := d, grid := 0, bytes := 0 } ctx va 2 (n / 2) with
    | .ok xs => .ok (xs.flatMap (bytesLE 2))
    | .error e => .error e

/-- Asks for the lines of a segment's source. -/
def State.segAsk (s : State) (q : SegData) : State :=
  match q.src with
  | .bytes _ => s
  | .mem d ctx va n => s.planAsk { id := q.own, die := d, grid := 0, bytes := 0 } ctx va n

/-- The source of a segment could not be read: its plan ends (R403, R419). -/
def State.segFails (s : State) (q : SegData) (e : PlanStop) : State :=
  s.planFails (fun p => p.id == q.own) (if e = .failed then 0x30 else 0x33)

/-- An exhausted key lets nothing out: a segment is held, or once KTO has passed ends its plan with error (R414). -/
def State.segHeld (s : State) (f seq : Nat) : State :=
  if (s.flow f).keys.lapsed then
    ((s.setFlow f (fun w => { w with sent := w.sent.filter (fun x => x.seq != seq) })).setFab (fun x =>
      { x with kxerr := satInc x.kxerr })).failPlans f
  else s.setFlow f (fun w => w.hold seq)

/-- A data segment is sent again (R412). -/
def State.resend (s : State) (f : Nat) (x : SentSeg) : State :=
  match s.segRead x.data with
  | .error .wait => s.segAsk x.data
  | .error e => (s.setFlow f (fun w => { w with sent := w.sent.filter (fun y => y.seq != x.seq) })).segFails x.data e
  | .ok bs => match s.putSegment f true x.seq bs with
    | none => s.segHeld f x.seq
    | some s1 =>
      let s2 := s1.setFlow f (fun w => { w with sent := w.sent.map (fun y =>
        if y.seq = x.seq then { y with at_ := s.now, sends := y.sends + 1, later := 0 } else y) })
      s2.putFlowWord f 0x30 ((s2.flowWord f 0x30 + 1) % 2 ^ 32)

/-- The next data segment of a flow is sent. -/
def State.sendNext (s : State) (f : Nat) (q : SegData) (rest : List SegData) : State :=
  let seq := (s.flow f).nextSeq
  match s.segRead q with
  | .error .wait => s.segAsk q
  | .error e => (s.setFlow f (fun w => { w with queue := rest })).segFails q e
  | .ok bs => match s.putSegment f true seq bs with
    | none => s.segHeld f seq
    | some s1 => s1.setFlow f (fun w => { w with
        nextSeq := seq + 1, queue := rest, sent := w.sent ++ [{ seq := seq, at_ := s.now, sends := 1, data := q }] })

/-- R412: a flow sends its next data segment, or one again that three later ones have overtaken. -/
def execWaiporSegmentSend (f : BitVec 10) (seq : Word) (s : State) : Out :=
  let n := f.toNat
  let w := s.flow n
  .next (if !(s.flowOpen n) || s.flowBusy n then s
    else match w.sent.find? (fun x => x.seq % 2 ^ 32 == seq.toNat) with
      | some x => if 3 ≤ x.later then s.resend n x else s
      | none =>
        if w.nextSeq % 2 ^ 32 ≠ seq.toNat ∨ 32768 ≤ w.sent.length then s
        else match w.queue with
          | [] => s
          | q :: rest => s.sendNext n q rest)

/-- R412: RTO has passed since a segment's last sending. The sixteenth expiry in a row takes the flow down. -/
def execWaiporRtoExpire (f : BitVec 10) (seq : Word) (s : State) : Out :=
  let n := f.toNat
  .next (if !(s.flowOpen n) || s.flowBusy n then s
    else match (s.flow n).sent.find? (fun x => x.seq % 2 ^ 32 == seq.toNat) with
      | none => s
      | some x =>
        if s.now < x.at_ + s.rto n ∨ (s.flow n).held.contains x.seq = true then s
        else
          let s1 := s.setFlow n (fun w => { w with rtos := w.rtos + 1 })
          if 16 ≤ (s.flow n).rtos + 1 then ((s1.setFlow n (fun w => { w with sent := [], held := [] })).flowBit n 3 true).failPlans n
          else s1.resend n x)

/-- The keys under which a segment may be authentic: the current one, or under the other selector the previous and the
next. -/
def KeySlot.candidates (k : KeySlot) (sel : Bool) : List Key :=
  if sel = k.sel then k.cur.toList else k.prev.toList ++ k.next.toList

def segAuthentic (x : Segment) (k : Key) : Bool := Config.gcmTag k.salt k.key x.ctr (segBytes x) == x.tag

/-- The whole sequence number whose low 32 bits a header carries, near a base. -/
def nearSeq (base x : Nat) : Nat :=
  let d := (x + 2 ^ 32 - base % 2 ^ 32) % 2 ^ 32
  if d < 2 ^ 31 then base + d else base + d - 2 ^ 32

/-- The segments that an acknowledgement covers are done; each one still out has been overtaken by those after it. -/
def Flow.ackTo (w : Flow) (ackb : Nat) (sack : DWord) : Flow :=
  let hit (x : SentSeg) : Bool := decide (x.seq < ackb) || (decide (ackb < x.seq) && decide (x.seq ≤ ackb + 64) && bit sack (x.seq - ackb - 1))
  let new := w.sent.filter hit
  let left := w.sent.filter (fun x => !(hit x))
  { w with sent := left.map (fun x => { x with later := x.later + (new.filter (fun y => decide (x.seq < y.seq))).length }),
           rtos := if new.isEmpty then w.rtos else 0 }

/-- Every sequence number below the first gap has been received. -/
def advanceAck : Nat → Nat → List Nat → Nat
  | 0, b, _ => b
  | n + 1, b, got => if got.contains b then advanceAck n (b + 1) got else b

/-- A data segment's number is noted. -/
def Flow.take (w : Flow) (seq : Nat) : Flow :=
  if seq < w.ackb ∨ w.got.contains seq = true then { w with ackDue := true }
  else
    let g := insertNat seq w.got
    let b := advanceAck g.length w.ackb g
    { w with got := g.filter (fun x => decide (b ≤ x)), ackb := b, ackDue := true }

/-- A datagram is of a flow's two endpoints: the port, and the addresses from the other side (R410). -/
def State.flowMatch (s : State) (n : Nat) (x : Segment) : Bool :=
  x.flow.toNat == n && x.port.toNat == s.flowWord n 0 % 4 && x.dstUdp.toNat == s.flowField n 4 2 &&
    x.srcUdp.toNat == s.flowField n 6 2 && x.srcIp.toNat == s.flowField n 8 16 && x.dstIp.toNat == s.flowField n 0x18 16

/-- R411: a segment arrives; one whose tag fails is dropped and counted. -/
def execWaiporSegmentReceive (f : BitVec 10) (seg : Segment) (s : State) : Out :=
  let n := f.toNat
  let w := s.flow n
  .next (if !(decide (n < s.fab.nflow.toNat) && (s.flowWord n 0).testBit 2) || !(s.flowMatch n seg) || s.flowBusy n then s
    else match (w.keys.candidates seg.ksel).find? (segAuthentic seg) with
      | none => s.putFlowWord n 0x34 ((s.flowWord n 0x34 + 1) % 2 ^ 32)
      | some k =>
        let fresh := seg.ksel == w.keys.sel || w.keys.prev != some k
        let w1 := { w with keys := if fresh then { w.keys with prev := none } else w.keys }
        let base := (w1.sent.head?.map (fun x => x.seq)).getD w1.nextSeq
        let w2 := w1.ackTo (nearSeq base seg.ackb.toNat) seg.sack
        let w3 := if seg.data then w2.take (nearSeq w2.ackb seg.seq.toNat) else w2
        let s1 := s.setFlow n (fun _ => w3)
        if w3.ackDue && s1.flowOpen n then (s1.putSegment n false 0).getD s1 else s1)

end Sys2Proof.Machine
end

