-- ==== Sys2Proof/Machine/Dispatch.lean ====
section
/-! DEFINITION. One arm per step of the opcode table. -/

namespace Sys2Proof.Machine

def exec (i : Instr) (s : State) : Host.Outcome State Fault Refusal :=
  match i with
  | .nop f => Sys2Proof.Machine.execNop f s
  | .bra f => Sys2Proof.Machine.execBra f s
  | .brz f => Sys2Proof.Machine.execBrz f s
  | .brnz f => Sys2Proof.Machine.execBrnz f s
  | .jmpi f => Sys2Proof.Machine.execJmpi f s
  | .call f => Sys2Proof.Machine.execCall f s
  | .calli f => Sys2Proof.Machine.execCalli f s
  | .ret f => Sys2Proof.Machine.execRet f s
  | .ifc f => Sys2Proof.Machine.execIfc f s
  | .elsec f => Sys2Proof.Machine.execElsec f s
  | .endif f => Sys2Proof.Machine.execEndif f s
  | .loop f => Sys2Proof.Machine.execLoop f s
  | .breakc f => Sys2Proof.Machine.execBreakc f s
  | .endl f => Sys2Proof.Machine.execEndl f s
  | .exit f => Sys2Proof.Machine.execExit f s
  | .yield f => Sys2Proof.Machine.execYield f s
  | .sleep f => Sys2Proof.Machine.execSleep f s
  | .smov f => Sys2Proof.Machine.execSmov f s
  | .sli f => Sys2Proof.Machine.execSli f s
  | .sadd f => Sys2Proof.Machine.execSadd f s
  | .ssub f => Sys2Proof.Machine.execSsub f s
  | .smul f => Sys2Proof.Machine.execSmul f s
  | .smulh f => Sys2Proof.Machine.execSmulh f s
  | .smad f => Sys2Proof.Machine.execSmad f s
  | .sand f => Sys2Proof.Machine.execSand f s
  | .sor f => Sys2Proof.Machine.execSor f s
  | .sxor f => Sys2Proof.Machine.execSxor f s
  | .snot f => Sys2Proof.Machine.execSnot f s
  | .sshl f => Sys2Proof.Machine.execSshl f s
  | .sshr f => Sys2Proof.Machine.execSshr f s
  | .ssar f => Sys2Proof.Machine.execSsar f s
  | .smin f => Sys2Proof.Machine.execSmin f s
  | .smax f => Sys2Proof.Machine.execSmax f s
  | .scmp f => Sys2Proof.Machine.execScmp f s
  | .ssel f => Sys2Proof.Machine.execSsel f s
  | .sbfe f => Sys2Proof.Machine.execSbfe f s
  | .sbfi f => Sys2Proof.Machine.execSbfi f s
  | .spopc f => Sys2Proof.Machine.execSpopc f s
  | .sclz f => Sys2Proof.Machine.execSclz f s
  | .slea f => Sys2Proof.Machine.execSlea f s
  | .sldk f => Sys2Proof.Machine.execSldk f s
  | .sfromv f => Sys2Proof.Machine.execSfromv f s
  | .sfromk f => Sys2Proof.Machine.execSfromk f s
  | .kfroms f => Sys2Proof.Machine.execKfroms f s
  | .vmov f => Sys2Proof.Machine.execVmov f s
  | .vli f => Sys2Proof.Machine.execVli f s
  | .vadd f => Sys2Proof.Machine.execVadd f s
  | .vsub f => Sys2Proof.Machine.execVsub f s
  | .vmul f => Sys2Proof.Machine.execVmul f s
  | .vmulh f => Sys2Proof.Machine.execVmulh f s
  | .vmad f => Sys2Proof.Machine.execVmad f s
  | .vand f => Sys2Proof.Machine.execVand f s
  | .vor f => Sys2Proof.Machine.execVor f s
  | .vxor f => Sys2Proof.Machine.execVxor f s
  | .vnot f => Sys2Proof.Machine.execVnot f s
  | .vshl f => Sys2Proof.Machine.execVshl f s
  | .vshr f => Sys2Proof.Machine.execVshr f s
  | .vsar f => Sys2Proof.Machine.execVsar f s
  | .vmin f => Sys2Proof.Machine.execVmin f s
  | .vmax f => Sys2Proof.Machine.execVmax f s
  | .vabs f => Sys2Proof.Machine.execVabs f s
  | .vcmp f => Sys2Proof.Machine.execVcmp f s
  | .vsel f => Sys2Proof.Machine.execVsel f s
  | .vbfe f => Sys2Proof.Machine.execVbfe f s
  | .vbfi f => Sys2Proof.Machine.execVbfi f s
  | .vpopc f => Sys2Proof.Machine.execVpopc f s
  | .vclz f => Sys2Proof.Machine.execVclz f s
  | .vbrev f => Sys2Proof.Machine.execVbrev f s
  | .vlea f => Sys2Proof.Machine.execVlea f s
  | .vdot4 f => Sys2Proof.Machine.execVdot4 f s
  | .vprmb f => Sys2Proof.Machine.execVprmb f s
  | .vfroms f => Sys2Proof.Machine.execVfroms f s
  | .klogic f => Sys2Proof.Machine.execKlogic f s
  | .fadd f => Sys2Proof.Machine.execFadd f s
  | .fsub f => Sys2Proof.Machine.execFsub f s
  | .fmul f => Sys2Proof.Machine.execFmul f s
  | .ffma f => Sys2Proof.Machine.execFfma f s
  | .fmin f => Sys2Proof.Machine.execFmin f s
  | .fmax f => Sys2Proof.Machine.execFmax f s
  | .fcmp f => Sys2Proof.Machine.execFcmp f s
  | .frcp f => Sys2Proof.Machine.execFrcp f s
  | .frsq f => Sys2Proof.Machine.execFrsq f s
  | .fsqrt f => Sys2Proof.Machine.execFsqrt f s
  | .fexp2 f => Sys2Proof.Machine.execFexp2 f s
  | .flog2 f => Sys2Proof.Machine.execFlog2 f s
  | .fsinp f => Sys2Proof.Machine.execFsinp f s
  | .fcosp f => Sys2Proof.Machine.execFcosp f s
  | .ftanh f => Sys2Proof.Machine.execFtanh f s
  | .fscl f => Sys2Proof.Machine.execFscl f s
  | .frnd f => Sys2Proof.Machine.execFrnd f s
  | .ffrac f => Sys2Proof.Machine.execFfrac f s
  | .fclass f => Sys2Proof.Machine.execFclass f s
  | .fdot2 f => Sys2Proof.Machine.execFdot2 f s
  | .ferf f => Sys2Proof.Machine.execFerf f s
  | .cvt f => Sys2Proof.Machine.execCvt f s
  | .cvtp f => Sys2Proof.Machine.execCvtp f s
  | .mxpk f => Sys2Proof.Machine.execMxpk f s
  | .mxup f => Sys2Proof.Machine.execMxup f s
  | .qnt f => Sys2Proof.Machine.execQnt f s
  | .qnta f => Sys2Proof.Machine.execQnta f s
  | .accrd f => Sys2Proof.Machine.execAccrd f s
  | .accwr f => Sys2Proof.Machine.execAccwr f s
  | .emov f => Sys2Proof.Machine.execEmov f s
  | .eset f => Sys2Proof.Machine.execEset f s
  | .eget f => Sys2Proof.Machine.execEget f s
  | .eadd f => Sys2Proof.Machine.execEadd f s
  | .eamax f => Sys2Proof.Machine.execEamax f s
  | .mxcvt f => Sys2Proof.Machine.execMxcvt f s
  | .echk f => Sys2Proof.Machine.execEchk f s
  | .qswz f => Sys2Proof.Machine.execQswz f s
  | .qbcst f => Sys2Proof.Machine.execQbcst f s
  | .shfl f => Sys2Proof.Machine.execShfl f s
  | .shflx f => Sys2Proof.Machine.execShflx f s
  | .shfld f => Sys2Proof.Machine.execShfld f s
  | .ballot f => Sys2Proof.Machine.execBallot f s
  | .vote f => Sys2Proof.Machine.execVote f s
  | .mbcnt f => Sys2Proof.Machine.execMbcnt f s
  | .cmprs f => Sys2Proof.Machine.execCmprs f s
  | .wred f => Sys2Proof.Machine.execWred f s
  | .wscan f => Sys2Proof.Machine.execWscan f s
  | .ldg f => Sys2Proof.Machine.execLdg f s
  | .stg f => Sys2Proof.Machine.execStg f s
  | .lds f => Sys2Proof.Machine.execLds f s
  | .sts f => Sys2Proof.Machine.execSts f s
  | .ldcl f => Sys2Proof.Machine.execLdcl f s
  | .stcl f => Sys2Proof.Machine.execStcl f s
  | .ldmx f => Sys2Proof.Machine.execLdmx f s
  | .stmx f => Sys2Proof.Machine.execStmx f s
  | .sldg f => Sys2Proof.Machine.execSldg f s
  | .sstg f => Sys2Proof.Machine.execSstg f s
  | .cmpst f => Sys2Proof.Machine.execCmpst f s
  | .expld f => Sys2Proof.Machine.execExpld f s
  | .fifopop f => Sys2Proof.Machine.execFifopop f s
  | .fifopush f => Sys2Proof.Machine.execFifopush f s
  | .pref f => Sys2Proof.Machine.execPref f s
  | .atom f => Sys2Proof.Machine.execAtom f s
  | .acas f => Sys2Proof.Machine.execAcas f s
  | .red f => Sys2Proof.Machine.execRed f s
  | .redd f => Sys2Proof.Machine.execRedd f s
  | .rflush f => Sys2Proof.Machine.execRflush f s
  | .fence f => Sys2Proof.Machine.execFence f s
  | .fencex f => Sys2Proof.Machine.execFencex f s
  | .waitc f => Sys2Proof.Machine.execWaitc f s
  | .rdcnt f => Sys2Proof.Machine.execRdcnt f s
  | .cpyk f => Sys2Proof.Machine.execCpyk f s
  | .gsk f => Sys2Proof.Machine.execGsk f s
  | .colk f => Sys2Proof.Machine.execColk f s
  | .rkput f => Sys2Proof.Machine.execRkput f s
  | .rkget f => Sys2Proof.Machine.execRkget f s
  | .migh f => Sys2Proof.Machine.execMigh f s
  | .launch f => Sys2Proof.Machine.execLaunch f s
  | .bar f => Sys2Proof.Machine.execBar f s
  | .bara f => Sys2Proof.Machine.execBara f s
  | .barw f => Sys2Proof.Machine.execBarw f s
  | .cbara f => Sys2Proof.Machine.execCbara f s
  | .cbarw f => Sys2Proof.Machine.execCbarw f s
  | .dbara f => Sys2Proof.Machine.execDbara f s
  | .dbarw f => Sys2Proof.Machine.execDbarw f s
  | .boinit f => Sys2Proof.Machine.execBoinit f s
  | .boarv f => Sys2Proof.Machine.execBoarv f s
  | .boexp f => Sys2Proof.Machine.execBoexp f s
  | .bowait f => Sys2Proof.Machine.execBowait f s
  | .mma f => Sys2Proof.Machine.execMma f s
  | .mmag f => Sys2Proof.Machine.execMmag f s
  | .azero f => Sys2Proof.Machine.execAzero f s
  | .alds f => Sys2Proof.Machine.execAlds f s
  | .asts f => Sys2Proof.Machine.execAsts f s
  | .astq f => Sys2Proof.Machine.execAstq f s
  | .mbara f => Sys2Proof.Machine.execMbara f s
  | .mbarw f => Sys2Proof.Machine.execMbarw f s
  | .mloop f => Sys2Proof.Machine.execMloop f s
  | .mnext f => Sys2Proof.Machine.execMnext f s
  | .mbra f => Sys2Proof.Machine.execMbra f s
  | .mend f => Sys2Proof.Machine.execMend f s
  | .mmov f => Sys2Proof.Machine.execMmov f s
  | .madd f => Sys2Proof.Machine.execMadd f s
  | .mlds f => Sys2Proof.Machine.execMlds f s
  | .mcpyk f => Sys2Proof.Machine.execMcpyk f s
  | .mwaitc f => Sys2Proof.Machine.execMwaitc f s
  | .mfencex f => Sys2Proof.Machine.execMfencex f s
  | .sread f => Sys2Proof.Machine.execSread f s
  | .swrite f => Sys2Proof.Machine.execSwrite f s
  | .trap f => Sys2Proof.Machine.execTrap f s
  | .brk f => Sys2Proof.Machine.execBrk f s
  | .rte f => Sys2Proof.Machine.execRte f s
  | .ctrget f => Sys2Proof.Machine.execCtrget f s
  | .ctrset f => Sys2Proof.Machine.execCtrset f s
  | .rng f => Sys2Proof.Machine.execRng f s
  | .clock f => Sys2Proof.Machine.execClock f s
  | .gtime f => Sys2Proof.Machine.execGtime f s
  | .pmrd f => Sys2Proof.Machine.execPmrd f s
  | .loadDataReturn w j => Sys2Proof.Machine.execLoadDataReturn w j s
  | .storePerformed a j => Sys2Proof.Machine.execStorePerformed a j s
  | .scratchOpComplete a j => Sys2Proof.Machine.execScratchOpComplete a j s
  | .atomicComplete w j => Sys2Proof.Machine.execAtomicComplete w j s
  | .engineRequestRead a => Sys2Proof.Machine.execEngineRequestRead a s
  | .fabricAnswer w peerStatus => Sys2Proof.Machine.execFabricAnswer w peerStatus s
  | .instructionFetchReturn a => Sys2Proof.Machine.execInstructionFetchReturn a s
  | .barrierTimeout b => Sys2Proof.Machine.execBarrierTimeout b s
  | .fifoWaitTimeout w j => Sys2Proof.Machine.execFifoWaitTimeout w j s
  | .tileWriteComplete b tile => Sys2Proof.Machine.execTileWriteComplete b tile s
  | .reddMerge g slice => Sys2Proof.Machine.execReddMerge g slice s
  | .l2FillLand die line => Sys2Proof.Machine.execL2FillLand die line s
  | .hostCxlWrite line data mask => Sys2Proof.Machine.execHostCxlWrite line data mask s
  | .contextDescWrite c off wide val => Sys2Proof.Machine.execContextDescWrite c off wide val s
  | .castleAbort j why unreadable => Sys2Proof.Machine.execCastleAbort j why unreadable s
  | .peerRequestReceive r => Sys2Proof.Machine.execPeerRequestReceive r s
  | .peerResponseReceive id st data side => Sys2Proof.Machine.execPeerResponseReceive id st data side s
  | .peerRequestTimeout id => Sys2Proof.Machine.execPeerRequestTimeout id s
  | .bulkReservationRequest src station bytes => Sys2Proof.Machine.execBulkReservationRequest src station bytes s
  | .incarnationAnnounce dev d inc => Sys2Proof.Machine.execIncarnationAnnounce dev d inc s
  | .quiesceNotice dev d => Sys2Proof.Machine.execQuiesceNotice dev d s
  | .waiporSegmentSend f seq => Sys2Proof.Machine.execWaiporSegmentSend f seq s
  | .waiporSegmentReceive f seg => Sys2Proof.Machine.execWaiporSegmentReceive f seg s
  | .waiporRtoExpire f seq => Sys2Proof.Machine.execWaiporRtoExpire f seq s
  | .keyInstallTimeout t => Sys2Proof.Machine.execKeyInstallTimeout t s
  | .collectiveComplete j why => Sys2Proof.Machine.execCollectiveComplete j why s
  | .rookPutArrive p contrib => Sys2Proof.Machine.execRookPutArrive p contrib s
  | .rookStagingDone j blk c peerData => Sys2Proof.Machine.execRookStagingDone j blk c peerData s
  | .rookGetArrive p => Sys2Proof.Machine.execRookGetArrive p s
  | .rookGetTimeout j n => Sys2Proof.Machine.execRookGetTimeout j n s
  | .rookRegionWrite j off wide val => Sys2Proof.Machine.execRookRegionWrite j off wide val s
  | .powerStateCmd d tgt => Sys2Proof.Machine.execPowerStateCmd d tgt s
  | .thermalHalt d temp => Sys2Proof.Machine.execThermalHalt d temp s
  | .correctedError k => Sys2Proof.Machine.execCorrectedError k s
  | .uncorrectableError k => Sys2Proof.Machine.execUncorrectableError k s
  | .boot slot0 slot1 good => Sys2Proof.Machine.execBoot slot0 slot1 good s
  | .getCertificate slot => Sys2Proof.Machine.execGetCertificate slot s
  | .challenge nonce => Sys2Proof.Machine.execChallenge nonce s
  | .getMeasurements index nonce => Sys2Proof.Machine.execGetMeasurements index nonce s
  | .registerWrite off wide val => Sys2Proof.Machine.execRegisterWrite off wide val s
  | .unassignedOpcodeIssue raw => Sys2Proof.Machine.execUnassignedOpcodeIssue raw s
  | .memoryRefresh ch => Sys2Proof.Machine.execMemoryRefresh ch s
  | .hostCxlRead line => Sys2Proof.Machine.execHostCxlRead line s
  | .stationLinkChange st up => Sys2Proof.Machine.execStationLinkChange st up s
  | .quiesceAcknowledge dev => Sys2Proof.Machine.execQuiesceAcknowledge dev s
  | .pathMComplete => Sys2Proof.Machine.execPathMComplete s
  | .warpSlotFree => Sys2Proof.Machine.execWarpSlotFree s
  | .blockEnd => Sys2Proof.Machine.execBlockEnd s
  | .sleepExpire => Sys2Proof.Machine.execSleepExpire s
  | .bowaitTimeout => Sys2Proof.Machine.execBowaitTimeout s
  | .pendingTrapTaken => Sys2Proof.Machine.execPendingTrapTaken s
  | .warpReissue => Sys2Proof.Machine.execWarpReissue s
  | .faultRecordWrite => Sys2Proof.Machine.execFaultRecordWrite s
  | .faultAnswerService => Sys2Proof.Machine.execFaultAnswerService s
  | .faultAnswerReject => Sys2Proof.Machine.execFaultAnswerReject s
  | .matrixTurn => Sys2Proof.Machine.execMatrixTurn s
  | .gridComplete => Sys2Proof.Machine.execGridComplete s
  | .queueEnable => Sys2Proof.Machine.execQueueEnable s
  | .queueDisable => Sys2Proof.Machine.execQueueDisable s
  | .launchSlotSnoop => Sys2Proof.Machine.execLaunchSlotSnoop s
  | .gridLaunch => Sys2Proof.Machine.execGridLaunch s
  | .blockPlace => Sys2Proof.Machine.execBlockPlace s
  | .gridPreempt => Sys2Proof.Machine.execGridPreempt s
  | .warpQuietStop => Sys2Proof.Machine.execWarpQuietStop s
  | .warpForcedStop => Sys2Proof.Machine.execWarpForcedStop s
  | .sequencerStop => Sys2Proof.Machine.execSequencerStop s
  | .blockSave => Sys2Proof.Machine.execBlockSave s
  | .saveComplete => Sys2Proof.Machine.execSaveComplete s
  | .gridRestore => Sys2Proof.Machine.execGridRestore s
  | .gridEnd => Sys2Proof.Machine.execGridEnd s
  | .retrainRequest => Sys2Proof.Machine.execRetrainRequest s
  | .retrainCancel => Sys2Proof.Machine.execRetrainCancel s
  | .retrainActivate => Sys2Proof.Machine.execRetrainActivate s
  | .retrainDone => Sys2Proof.Machine.execRetrainDone s
  | .bankToOff => Sys2Proof.Machine.execBankToOff s
  | .bankToCache => Sys2Proof.Machine.execBankToCache s
  | .bankToFifo => Sys2Proof.Machine.execBankToFifo s
  | .bankModeChange => Sys2Proof.Machine.execBankModeChange s
  | .crossDieWriteApply => Sys2Proof.Machine.execCrossDieWriteApply s
  | .remoteLineFetch => Sys2Proof.Machine.execRemoteLineFetch s
  | .tlbFlushContext => Sys2Proof.Machine.execTlbFlushContext s
  | .tlbFlushPage => Sys2Proof.Machine.execTlbFlushPage s
  | .tlbFlushDone => Sys2Proof.Machine.execTlbFlushDone s
  | .castleMove => Sys2Proof.Machine.execCastleMove s
  | .castleAbortCmd => Sys2Proof.Machine.execCastleAbortCmd s
  | .checkpoint => Sys2Proof.Machine.execCheckpoint s
  | .hotnessSync => Sys2Proof.Machine.execHotnessSync s
  | .hotnessDecay => Sys2Proof.Machine.execHotnessDecay s
  | .castleLineCopy => Sys2Proof.Machine.execCastleLineCopy s
  | .lineLockTimeout => Sys2Proof.Machine.execLineLockTimeout s
  | .castleMoveComplete => Sys2Proof.Machine.execCastleMoveComplete s
  | .completionLockTimeout => Sys2Proof.Machine.execCompletionLockTimeout s
  | .castleEventWrite => Sys2Proof.Machine.execCastleEventWrite s
  | .checkpointDone => Sys2Proof.Machine.execCheckpointDone s
  | .rollbackRecovery => Sys2Proof.Machine.execRollbackRecovery s
  | .gridRelaunch => Sys2Proof.Machine.execGridRelaunch s
  | .reservationWindowExpire => Sys2Proof.Machine.execReservationWindowExpire s
  | .dieReset => Sys2Proof.Machine.execDieReset s
  | .keyInstall => Sys2Proof.Machine.execKeyInstall s
  | .copyLineWritten => Sys2Proof.Machine.execCopyLineWritten s
  | .gatherRowDone => Sys2Proof.Machine.execGatherRowDone s
  | .rookDeadline => Sys2Proof.Machine.execRookDeadline s
  | .rookUpdateDone => Sys2Proof.Machine.execRookUpdateDone s
  | .rookMirrorDone => Sys2Proof.Machine.execRookMirrorDone s
  | .rookMirrorRetry => Sys2Proof.Machine.execRookMirrorRetry s
  | .rookPublishDone => Sys2Proof.Machine.execRookPublishDone s
  | .rookActivateMirror => Sys2Proof.Machine.execRookActivateMirror s
  | .rookForcePartial => Sys2Proof.Machine.execRookForcePartial s
  | .rookForceSkip => Sys2Proof.Machine.execRookForceSkip s
  | .rookReset => Sys2Proof.Machine.execRookReset s
  | .powerTransitionDone => Sys2Proof.Machine.execPowerTransitionDone s
  | .softFuse => Sys2Proof.Machine.execSoftFuse s
  | .devtimeSet => Sys2Proof.Machine.execDevtimeSet s
  | .dieFault => Sys2Proof.Machine.execDieFault s
  | .getVersion => Sys2Proof.Machine.execGetVersion s
  | .getCapabilities => Sys2Proof.Machine.execGetCapabilities s
  | .negotiateAlgorithms => Sys2Proof.Machine.execNegotiateAlgorithms s
  | .getDigests => Sys2Proof.Machine.execGetDigests s
  | .reservationWindowStart => Sys2Proof.Machine.execReservationWindowStart s

end Sys2Proof.Machine
end

