-- ==== Sys2Proof/Machine/Ready.lean ====
section
/-! DEFINITION. Which warps of a quadrant are ready and which of them issues (R80, R111, R360), the clk that a warp has
been ready for, and the clk of issue that a path wait or a full counter holds (R264). -/

namespace Sys2Proof.Machine

/-! ### Holds by path counters (R32, R264) -/

/-- The path whose counter a word raises when it issues (R89). -/
def pathOf : Instr → Option Path
  | .ldg _ | .ldmx _ | .sldg _ | .expld _ => some .g
  | .stg _ | .stmx _ | .sstg _ | .cmpst _ | .astq _ => some .w
  | .lds _ | .sts _ | .ldcl _ | .stcl _ | .fifopop _ | .fifopush _ | .boinit _ | .boarv _ | .boexp _ | .alds _ | .asts _
  | .mlds _ => some .s
  | .cpyk _ | .gsk _ | .launch _ | .mcpyk _ => some .c
  | .accrd _ | .accwr _ | .qnta _ => some .m
  | .atom _ | .acas _ | .red _ | .redd _ | .rflush _ => some .a
  | .colk _ | .rkput _ | .rkget _ => some .f
  | _ => none

/-- The word's own wait hint or the full counter that it would raise holds it, `none` while it is not fetched. -/
def wordHeld (wn : Win) (word : Option IWord) : Bool :=
  match word with
  | none => false
  | some w =>
    let h := decodeHints (wH w)
    (h.wpath != 0 && decide (h.wth.toNat < wn.count (pathOfCode h.wpath.toNat))) ||
      (match pathOf (decodeWord w) with
       | some p => decide (63 ≤ wn.count p)
       | none => false)

/-- A path wait or a full counter holds the next word: that of a `WAITC` before it, or its own. -/
def pathHeld (wn : Win) (wt : Option Wait) (word : Option IWord) : Bool :=
  match wt with
  | some (.path p n) => decide (n < wn.count p) || wordHeld wn word
  | some _ => false
  | none => wordHeld wn word

/-- Nothing but its waits keeps a warp from issuing at `clk`. -/
def Warp.atIssue (x : Warp) (clk : Nat) : Bool :=
  x.running && !x.held && x.susp.isNone && x.sleep == 0 && decide (x.win.notBefore ≤ clk) && x.due.isNone

def Warp.pathHeld (x : Warp) (clk : Nat) : Bool :=
  x.atIssue clk && Sys2Proof.Machine.pathHeld x.win x.wait (fetched x.ibuf x.pc)

def Seq.pathHeld (q : Seq) (clk : Nat) : Bool :=
  !q.stopped && !q.ended && !q.ending && !q.held && q.run.isNone && decide (q.win.notBefore ≤ clk) &&
    Sys2Proof.Machine.pathHeld q.win q.wait (fetched q.ibuf q.pc)

/-! ### Ready warps (R360) -/

/-- A warp takes its turn: the trap that is due (R274), else the word at its PC. -/
def State.turnOf (s : State) (w : WarpId) : Out :=
  match s.warp? w with
  | none => .next s
  | some (b, x) =>
    if x.trapDue (s.clkOf (dieOfCore b.core)) then exec .pendingTrapTaken { s with on := { w := w } }
    else match fetched x.ibuf x.pc with
      | some i => exec (decodeWord i) { s with cur := some (.warp w) }
      | none => .next s

/-- The turn has brought the warp on: an issue, a trap, a suspension or an end. -/
def State.wentOn (s : State) (w : WarpId) : Out → Bool
  | .next t => match s.warp? w, t.warp? w with
    | some (_, x), some (_, y) =>
      y.win.num != x.win.num || y.inTrap != x.inTrap || y.stopped != x.stopped || y.susp != x.susp || y.terminated != x.terminated
    | _, _ => true
  | _ => true

/-- A warp that may be ready, before its word's own holds are known. -/
def Warp.maybe (x : Warp) (clk : Nat) : Bool :=
  x.trapDue clk || (x.canIssue clk && (fetched x.ibuf x.pc).isSome && !(x.pathHeld clk))

/-- The warps of a quadrant, by a condition. -/
def State.quadWarps (s : State) (core q : Nat) (p : Warp → Bool) : List (WarpId × Warp) :=
  (s.blocks.filter (fun b => b.core == core)).flatMap (fun b =>
    (b.warpIds.zip b.warps).filter (fun x => quadOf b x.1.warp == q && p x.2))

/-- A warp is ready in this clk: its turn would bring it on. -/
def State.isReady (s : State) (w : WarpId) : Bool :=
  match s.warp? w with
  | some (b, x) => x.maybe (s.clkOf (dieOfCore b.core)) && s.wentOn w (s.turnOf w)
  | none => false

/-- The ready warps of a quadrant. A warp that its word still holds leaves what it asks for, such as a line to be fetched.
The only candidate is not tried out: whether it is ready shows when it has its turn. -/
def State.findReady (s : State) (core q : Nat) : State × List WarpId :=
  let ws := (s.quadWarps core q (fun x => x.maybe (s.clkOf (dieOfCore core)))).map Prod.fst
  match ws with
  | [w] => (s, [w])
  | _ => ws.foldl (fun a w => match a.1.turnOf w with
      | .next t => if a.1.wentOn w (.next t) then (a.1, a.2 ++ [w]) else ({ t with cur := a.1.cur, on := a.1.on }, a.2)
      | _ => (a.1, a.2 ++ [w])) (s, [])

/-! ### The choice (R80, R111, R360) -/

/-- The priority of a warp's grid. -/
def State.prioOf (s : State) (w : WarpId) : Nat :=
  match s.grid? w.grid with
  | some g => Rec.prio g.record
  | none => 0

/-- The lowest slot above `last`, wrapping at 63. -/
def nextSlot (last : Nat) (ws : List (WarpId × Warp)) : Option WarpId :=
  ((List.range 64).findSome? (fun i => ws.find? (fun p => p.2.slot = (last + 1 + i) % 64))).map Prod.fst

/-- The warp gives way in this clk: YLD for one clk, `YIELD` until the warps that were ready have issued. -/
def Warp.givesWay (x : Warp) (clk : Nat) : Bool := x.yieldClk == some clk || !x.yieldTo.isEmpty

/-- The warp that a quadrant issues from, among the ready ones (R360). A warp gives way to warps that do not give way
themselves (DEDUCED, log 91). -/
def State.pickWarp (s : State) (core q : Nat) (ready : List WarpId) : Option WarpId :=
  let clk := s.clkOf (dieOfCore core)
  let all := ready.filterMap (fun w => (s.warp? w).map (fun p => (w, p.2)))
  let first := all.filter (fun p => !(p.2.givesWay clk))
  let keep := if first.isEmpty then all else first
  let old := keep.filter (fun p => decide (256 ≤ p.2.readyFor))
  let top := keep.foldl (fun m p => max m (s.prioOf p.1)) 0
  let set := if old.isEmpty then keep.filter (fun p => s.prioOf p.1 == top) else old
  nextSlot (((s.core core).lastSlot[q]?).getD 63) set

/-- The quadrant has issued in this clk already. -/
def State.quadSpent (s : State) (core q : Nat) : Bool :=
  ((s.core core).lastClk[q]?).getD 0 == s.clkOf (dieOfCore core) + 1

/-- After a warp has issued: its slot is the last, and no warp yields to it any more (R111, R360). -/
def State.issued (s : State) (core q : Nat) (w : WarpId) : State :=
  let sl := ((s.warp? w).map (fun p => p.2.slot)).getD 0
  let s1 := s.setCore core (fun c => { c with lastSlot := c.lastSlot.set q sl,
                                              lastClk := c.lastClk.set q (s.clkOf (dieOfCore core) + 1) })
  let s2 := s1.setWarp w (fun x => { x with readyFor := 0 })
  if s2.blocks.any (fun b => b.core == core && b.warps.any (fun x => x.yieldTo.contains w)) then
    { s2 with blocks := s2.blocks.map (fun b => if b.core = core then
        { b with warps := b.warps.map (fun x => { x with yieldTo := x.yieldTo.filter (fun o => o ≠ w) }) } else b) }
  else s2

/-- A turn is noted where an instruction has issued in it. -/
def State.noteIssue (s : State) (core q : Nat) (w : WarpId) : Out → Out
  | .next t => .next (if tget 0 (t.core core).pm 0x00 != tget 0 (s.core core).pm 0x00 then t.issued core q w else t)
  | o => o

/-- A quadrant's turn: the warp that R360 chooses among the ready ones has its turn. -/
def stepQuadrant (core q : Nat) (s : State) : Out :=
  if !(s.die (dieOfCore core)).clocked || s.quadSpent core q then .next s
  else
    let r := s.findReady core q
    match r.1.pickWarp core q r.2 with
    | none => .next r.1
    | some w =>
      let s1 := { (r.1.setWarp w (fun x => { x with yieldTo := [] })) with ready := r.2 }
      s1.noteIssue core q w (s1.turnOf w)

/-! ### What a clk adds (R111, R264, R360) -/

/-- The warps of a core that are ready, by quadrant. -/
def State.readyIds (s : State) (b : Block) : List WarpId :=
  (b.warpIds.zip b.warps).filterMap (fun p => if p.2.running && s.isReady p.1 then some p.1 else none)

/-- A warp after a clk: how long it has been ready without issuing, and, where no other warp of its quadrant is ready, an
end to its `YIELD`. -/
def Warp.aged (x : Warp) (w : WarpId) (ready other : List WarpId) : Warp :=
  { x with readyFor := if ready.contains w then x.readyFor + 1 else 0,
           yieldTo := if other.isEmpty then [] else x.yieldTo }

/-- Warps and streams of a core whose issue a path wait or a full counter holds. -/
def State.heldCount (s : State) (core clk : Nat) : Nat :=
  sumNat ((s.blocks.filter (fun b => b.core == core)).map (fun b =>
    (b.warps.filter (fun x => x.pathHeld clk)).length + (match b.seq with
      | some q => b2n (q.pathHeld clk)
      | none => 0)))

/-- The warps of a block that have issued in this clk: they have been ready in it. -/
def State.issuedIds (s : State) (b : Block) : List WarpId :=
  (b.warpIds.zip b.warps).filterMap (fun p =>
    if s.quadSpent b.core (quadOf b p.1.warp) && p.2.slot == ((s.core b.core).lastSlot[quadOf b p.1.warp]?).getD 63 then some p.1
    else none)

/-- The stream of a block has an `ASTQ` next that only the park buffer holds (R246, R264). -/
def State.astqWaits (s : State) (b : Block) : Bool :=
  match b.seq, s.grid? b.id.grid with
  | some q, some g =>
    let c : SCtx := ⟨s, b.id, b, q, g, s.clkOf (dieOfCore b.core)⟩
    q.canIssue c.clk && (match (fetched q.ibuf q.pc).map decodeWord with
      | some (.astq f) => ((shAstq f).check true (Rec.declared g.record) q.pc).isNone && issueGate q.win (shAstq f) &&
          (!q.chk || (coverage q.win (shAstq f)).isNone) && c.astqWaits f
      | _ => false)
  | _, _ => false

/-- The end of a clk of a die, before it is counted. -/
def State.age (s : State) (d : Nat) : State :=
  if !(s.die d).clocked then s
  else
    let mine := s.blocks.filter (fun b => dieOfCore b.core == d)
    let quad (w : WarpId) : Nat := ((s.block? w.blockId).map (fun b => 4 * b.core + quadOf b w.warp)).getD 0
    let ready := mine.flatMap s.readyIds
    let had := ready ++ mine.flatMap s.issuedIds
    let s1 := { s with blocks := s.blocks.map (fun b => if dieOfCore b.core = d then
      { b with warps := (b.warpIds.zip b.warps).map (fun p =>
          p.2.aged p.1 ready (had.filter (fun o => o != p.1 && quad o == quad p.1))) } else b) }
    (sortNats (mine.map (fun b => b.core)).eraseDups).foldl (fun s c =>
      let n := s.heldCount c (s.clkOf d)
      let s2 := if n = 0 then s else s.countPm c 0x05 n
      if (mine.filter (fun b => b.core == c)).any s.astqWaits then s2.countPm c 0x09 1 else s2) s1

end Sys2Proof.Machine
end

