-- ==== Sys2Proof/Machine/Turn.lean ====
section
/-! DEFINITION. What one turn of the agenda does. -/

namespace Sys2Proof.Machine

/-- A sequencer's turn. -/
def stepSeq (b : BlockId) (s : State) : Out :=
  match s.seq? b with
  | none => .next s
  | some (blk, q) =>
    if !(s.die (dieOfCore blk.core)).clocked then .next s
    else match fetched q.ibuf q.pc with
      | some i => exec (decodeWord i) { s with cur := some (.seq b) }
      | none => .next s

def runTurn (t : Turn) (s : State) : Out :=
  match t with
  | .quadrant c q => stepQuadrant c q s
  | .seq b => stepSeq b s
  | .event i on => exec i { s with on := on }
  | .clk d => .next ((s.age d).tickDie d)
  | .ns n => .next (s.tickNs n)
  | .checkpointGroups n => .next (copyRuns n s)
  | .early (.warp w) i => .next (s.performEarly w i)
  | .early (.seq b) i => .next (s.performSeqEarly b i)
  | .evictHost l => .next (s.hostDrop l)

end Sys2Proof.Machine
end

