-- ==== Sys2Proof/Machine/Step.lean ====
section
/-! DEFINITION. One step of the machine: the turn at the front of the agenda acts. -/

namespace Sys2Proof.Machine

/-- One step. With an empty agenda nothing acts. -/
def step (s : State) : Host.Outcome State Fault Refusal :=
  match s.agenda with
  | [] => .next s
  | t :: rest => runTurn t { s with agenda := rest, cur := none }

/-- `s` with a word placed where the next step fetches it, and that agent's turn next. -/
def State.withFetchWord (s : State) (nbits w : Nat) : State := s.placeWord (BitVec.ofNat 96 (w % 2 ^ nbits))

end Sys2Proof.Machine
end

