-- ==== Sys2Proof/Safety.lean ====
section
/-! DEFINITION. What counts as a safe run, and the terms in which claims speak of one step: the conditions under which
a word issues, the value a register holds once the results in flight have landed, and what a word leaves. -/

namespace Sys2Proof.Machine

/-- The canonical form of the tables that hold memory: bytes and sidecar slots. -/
def State.wf (s : State) : Bool := Memory.wf s.mem && twf sideInit s.side

end Sys2Proof.Machine

namespace Sys2Proof

open Sys2Proof.Machine

/-- A step neither faults nor refuses. -/
def safeStep (s : State) : Bool :=
  match Machine.step s with
  | .next _ => true
  | .fault _ => false
  | .refused _ => false

/-- `k` steps from a state, none of which stops. -/
def safeRun (k : Nat) (s : State) : Bool :=
  match Host.Core.run core k s with
  | .next _ => true
  | .fault _ => false
  | .refused _ => false

end Sys2Proof

namespace Sys2Proof.Machine

/-! ### Registers with their results landed (R29, R31) -/

/-- Results written over a register's value, in order. -/
def applyOut (out : List Result) (r : RegId) (v : BitVec 1024) : BitVec 1024 :=
  out.foldl (fun v p => if p.reg = r then merge p.mask v p.val else v) v

/-- A register's value once every result in flight that instruction `num` can still read has landed. -/
def Win.landed (wn : Win) (base : BitVec 1024) (num : Nat) (r : RegId) : BitVec 1024 :=
  wn.fly.foldl (fun v f => if f.reg = r && !f.expired num then merge f.mask v f.val else v) base &&& r.bits

def Warp.landed (x : Warp) (num : Nat) (r : RegId) : BitVec 1024 := x.win.landed (x.base r) num r

/-- A register that a warp has (R18): all but the M registers. -/
def RegId.ofWarp : RegId → Bool
  | .m _ => false
  | _ => true

/-! ### A warp's word -/

/-- What the next word of a warp sees when it issues in `s`. -/
def State.seenBy (s : State) (w : WarpId) : Option Ctx :=
  match s.warp? w, s.grid? w.grid with
  | some (b, x), some g =>
    some ⟨s.setWarp w (fun x => { x with wait := endPathWait x.wait }), w, b, x, g, s.clkOf (dieOfCore b.core)⟩
  | _, _ => none

/-- Warp `w` holds the turn and its word issues in `s`, seeing `c` (R27, R32, R43, R90): it may issue in this clk and no
stop is due, rows 1 to 7 of R90 find nothing wrong, the wait hint and the path counter let it go, and checked mode has no
objection. -/
def Issues (sh : Shape) (row7 : Ctx → Option TrapInfo) (s : State) (w : WarpId) (c : Ctx) : Prop :=
  s.cur = some (.warp w) ∧ s.seenBy w = some c ∧ c.w.canIssue c.clk = true ∧
  s.stopDue w c.w = false ∧ sh.check false (Rec.declared c.g.record) c.w.pc = none ∧ row7 c = none ∧ issueGate c.w.win sh = true ∧
  (c.chk = true → coverage c.w.win sh = none)

/-- No check of row 7 on register or stack targets. -/
def noRow7 (_ : Ctx) : Option TrapInfo := none

/-- A warp without its register files, window, PC, and issue bookkeeping; its operations in flight stay. -/
def Warp.other (x : Warp) : Warp :=
  { x with v := [], e := [], s := [], k := [], pc := 0, yieldClk := none, sinceCmd := 0,
           win := { ops := x.win.ops.map (fun o => { o with clob := [] }) } }

/-- A state without one warp, the event counters, the grids' start times and the free-value counter. -/
def State.other (s : State) (w : WarpId) : State :=
  { s.setWarp w (fun _ => { pc := 0, retired := 0, helper := 0 }) with
    cores := s.cores.map (fun k => { k with pm := [] }),
    grids := s.grids.map (fun g => { g with tstart := none }), freeCtr := 0 }

/-- What a word that warp `w` issues in `s`, seeing `c`, leaves in `t`: the results `out` on their way to their
registers and every other register as it would be, the PC at `pc`, the rest of the warp changed by `f` alone, and
everything outside the warp as it was but for the event counters and the grid's start time. -/
def Leaves (s t : State) (w : WarpId) (c : Ctx) (out : List Result) (pc : DWord) (f : Warp → Warp) : Prop :=
  (∃ b x, t.warp? w = some (b, x) ∧ x.pc = pc ∧
    (∀ r : RegId, r.ofWarp = true → x.landed x.win.num r = applyOut out r (c.w.landed (c.w.win.num + 1) r) &&& r.bits) ∧
    x.other = (f { c.w with wait := endPathWait c.w.wait }).other) ∧
  t.other w = s.other w

/-- What a word of a warp does when it issues: the check of row 7 that it stands under, a further condition on what it
sees, its results, the next PC, and its change of the warp's other state. -/
structure Effect where
  row7 : Ctx → Option TrapInfo := noRow7
  pre : Ctx → Prop := fun _ => True
  out : Ctx → List Result := fun _ => []
  pc : Ctx → DWord := fun c => nextPc c.pc
  warp : Ctx → Warp → Warp := fun _ x => x

/-- The word `i` of shape `sh` completes with effect `e`: whenever it issues, `exec` answers a next state, which it leaves
as `e` says. -/
def Completes (i : Instr) (sh : Shape) (e : Effect) : Prop :=
  ∀ (s : State) (w : WarpId) (c : Ctx), Issues sh e.row7 s w c → e.pre c →
    ∃ t, exec i s = .next t ∧ Leaves s t w c (e.out c) (e.pc c) (e.warp c)

/-- A register-to-register word: results, the next slot, and nothing else. -/
def Gives (i : Instr) (sh : Shape) (out : Ctx → List Result) : Prop := Completes i sh { out := out }

/-! ### A sequencer's word -/

/-- What the next word of a block's matrix stream sees when it issues in `s`. -/
def State.seqSees (s : State) (b : BlockId) : Option SCtx :=
  match s.seq? b, s.grid? b.grid with
  | some (k, q), some g =>
    some ⟨s.setSeq b (fun q => { q with wait := endPathWait q.wait }), b, k, q, g, s.clkOf (dieOfCore k.core)⟩
  | _, _ => none

/-- The sequencer of block `b` holds the turn and its word issues in `s`, seeing `c` (R231). -/
def SIssues (sh : Shape) (s : State) (b : BlockId) (c : SCtx) : Prop :=
  s.cur = some (.seq b) ∧ s.seqSees b = some c ∧ c.q.canIssue c.clk = true ∧
  sh.check true (Rec.declared c.g.record) c.q.pc = none ∧ issueGate c.q.win sh = true ∧
  (c.q.chk = true → coverage c.q.win sh = none)

/-- A sequencer without its window, PC and issue bookkeeping; its operations in flight stay. -/
def Seq.other (q : Seq) : Seq :=
  { q with pc := 0, win := { ops := q.win.ops.map (fun o => { o with clob := [] }) } }

/-- A state without one block's stream and M registers, the event counters, the grids' start times and the free-value
counter. -/
def State.streamOther (s : State) (b : BlockId) : State :=
  { s.setBlock b (fun k => { k with m := [], seq := none }) with
    cores := s.cores.map (fun k => { k with pm := [] }),
    grids := s.grids.map (fun g => { g with tstart := none }), freeCtr := 0 }

/-- The value of M register `n` once the results in flight that instruction `num` can still read have landed. -/
def streamLanded (k : Block) (q : Seq) (num n : Nat) : BitVec 1024 := q.win.landed (mBase k.m (.m n)) num (.m n)

/-- As `Leaves`, for a word of a block's matrix stream. -/
def StreamLeaves (s t : State) (b : BlockId) (c : SCtx) (out : List Result) (pc : DWord) (f : Seq → Seq) : Prop :=
  (∃ k q, t.seq? b = some (k, q) ∧ q.pc = pc ∧
    (∀ n, streamLanded k q q.win.num n =
      applyOut out (.m n) (streamLanded c.blk c.q (c.q.win.num + 1) n) &&& (RegId.m n).bits) ∧
    q.other = (f { c.q with wait := endPathWait c.q.wait }).other) ∧
  t.streamOther b = s.streamOther b

/-- What a word of a matrix stream does when it issues: a further condition on what it sees, its results, the next PC, its
change of the sequencer, and its change of the machine outside it. -/
structure StreamEffect where
  pre : SCtx → Prop := fun _ => True
  out : SCtx → List Result := fun _ => []
  pc : SCtx → DWord := fun c => nextPc c.pc
  seq : SCtx → Seq → Seq := fun _ q => q
  base : SCtx → State := fun c => c.s

/-- The stream word `i` of shape `sh` completes with effect `e`. -/
def StreamCompletes (i : Instr) (sh : Shape) (e : StreamEffect) : Prop :=
  ∀ (s : State) (b : BlockId) (c : SCtx), SIssues sh s b c → e.pre c →
    ∃ t, exec i s = .next t ∧ StreamLeaves (e.base c) t b c (e.out c) (e.pc c) (e.seq c)

end Sys2Proof.Machine
end

