-- ==== Sys2Proof/Certificates/Slice0/Obligations.lean ====
section
/-! DEFINITION. Statements for the provers: what the spec's rules say the machine does. -/

open Sys2Proof Sys2Proof.Machine

/-! ### Terms of the statements -/

namespace Sys2Proof.Claims

/-- The tested value of `BRZ` and `BRNZ` (R103). -/
def testOf (c : Ctx) : Opnd → Nat
  | .k n => (c.kreg n.toNat &&& c.live).toNat
  | o => c.uni32 o

/-- The nesting counters with `f` applied to every lane that is not retired. -/
def nestOver (x : Warp) (f : Nat → Nat → Nat) : BitVec 128 :=
  ofNest (fun l => if bit x.retired l then nestOf x.nest l else f l (nestOf x.nest l))

/-- A divergence word (R107): no counter would exceed 15, the counters change, and the target is taken when no lane is
live afterwards. -/
def diverges (x : Option Word) (f : Ctx → Nat → Nat → Nat) : Effect :=
  { pre := fun c => ∀ l, l < 32 → bit c.w.retired l = false → f c l (nestOf c.w.nest l) ≤ 15,
    pc := fun c => match x with
      | some o => if ({ c.w with nest := nestOver c.w (f c) } : Warp).live = 0 then jTargetPc c.pc o else nextPc c.pc
      | none => nextPc c.pc,
    warp := fun c x => { x with nest := nestOver c.w (f c) } }

/-- The results of a uniform word of format R: one value of the word's type, extended to the register (R14, R115). -/
def uniOut (f : RForm) (v : Ctx → Nat) (c : Ctx) : List Result :=
  outS c.anyActive (opndNum f.d) (tyWide f.ty) (if tyWide f.ty then v c else extReg f.ty (v c))

/-- The results of a vector word of format R: a value of the word's type in each lane with `regwrite` (R14, R130). -/
def vecOut (f : RForm) (v : Ctx → Nat → Nat) (c : Ctx) : List Result :=
  outV (c.regwrite f.g) (opndNum f.d) (tyWide f.ty) (fun l => if tyWide f.ty then v c l else extReg f.ty (v c l))

/-- A condition code of R119 and R141 on two integers. -/
def holds (cc : Nat) (a b : Int) : Bool :=
  if cc = 0 then a = b else if cc = 1 then a ≠ b else if cc = 2 then a < b else if cc = 3 then a ≤ b
  else if cc = 4 then b < a else b ≤ a

/-- The change of a warp that sets flags `fl` and meets NaN scales in the blocks of `nan` (R145, R146, R164, R170): the
sticky bits, the clk by which they show, and, outside a handler, the traps due once the result is there, NAN_SCALE
first (R274). -/
def sticks (c : Ctx) (lat : Nat) (fl : Flags) (nan : BitVec 8) (x : Warp) : Warp :=
  let y := x.stick (fun p => if nan = 0 then fpstOr p fl else fpstNss (fpstOr p fl))
  { y with
    fpClk := max x.fpClk (c.clk + lat),
    pend := x.pend ++
      (if nan = 0 ∨ nste c.w.fpst = false ∨ c.w.inTrap = true then [] else
        [{ row1 := true, info := { cause := .nanScale, detail := nan }, tpc := c.pc, fpc := 0 }]) ++
      (if fpEnabled c.w.fpst fl = 0 ∨ c.w.inTrap = true then [] else
        [{ row1 := true, info := { cause := .fpException, detail := (fpEnabled c.w.fpst fl).setWidth 8 }, tpc := c.pc, fpc := 0 }]) }

/-- A floating-point word with a result and flags per lane. -/
def floats (f : RForm) (lat : Nat) (g : Ctx → Nat → FRes) : Effect :=
  { out := fun c => outV (c.regwrite f.g) (opndNum f.d) false (fun l => (g c l).bits),
    warp := fun c => sticks c lat (flagsOf (c.regwrite f.g) (g c)) 0 }

/-- The clamp of SAT (R147). -/
def clampIf (sat : Bool) (k : FFmt) (r : FRes) : FRes := if sat then fsat k r else r

/-- A word that writes one block-scaled register from its blocks (R56, R165, R166). -/
def packs (f : RForm) (bs : Ctx → List MxBlock) : Effect :=
  { out := fun c => outMx (c.regwrite f.g) (opndNum f.d) (fmtOf f) (mxPack (fmtOf f) (blkQ (bs c)))
      (scaleReg (fmtOf f) (blkSc (bs c))),
    warp := fun c => sticks c 10 0 (nanMask (blockMask (fmtOf f) (c.regwrite f.g)) (blkSc (bs c))) }

/-- A uniform result in S, or in every bit of K (R179). -/
def inSK (c : Ctx) (f : RForm) (x : Nat) (m : Mask) : List Result :=
  match f.d with
  | .k n => outK (if c.anyActive then BitVec.allOnes 32 else 0) n.toNat m
  | o => outS c.anyActive (opndNum o) false x

/-- No write is on its way to the home of its line: what a unit of the device writes is all that memory then takes. -/
def nothingComing (s : State) : Prop := ∀ m ∈ s.msgs, m.put = none ∨ homeDie m.line ≠ m.dst

/-- A boot has not failed: the device answers its host (R444). -/
def heard (s : State) : Prop := s.hub.bootst ≠ 4

/-- What a unit of the device writes in the `n` bytes from `pa` stays there: no line of them is lost and no other write is
on its way. -/
def settlesAt (s : State) (pa n : Nat) : Prop := nothingComing s ∧ ∀ i, i < n → s.lost ((pa + i) / 128) = false

/-- The fields (offset, bytes, value) of a structure at `pa`, and of a list of bytes. -/
def holdsAt (s : State) (pa : Nat) (l : List (Nat × Nat × Nat)) : Prop := ∀ p ∈ l, s.natAt (pa + p.1) p.2.1 = p.2.2
def fieldsIn (bs : List Byte) (l : List (Nat × Nat × Nat)) : Prop := ∀ p ∈ l, natLE ((bs.drop p.1).take p.2.1) = p.2.2

/-! Operations performed (R32, R33). -/

/-- Operation `o` stands at place `i` of warp `w`, on path `p`, not performed, and everything before it that it must
follow is performed (R290, R291, R470), the scratchpad accesses of other warps that its waits order among it (R295). -/
structure Due (s : State) (w : WarpId) (i : Nat) (p : Path) (b : Block) (x : Warp) (o : Op) : Prop where
  warp : s.warp? w = some (b, x)
  op : x.win.ops[i]? = some o
  fresh : o.done = false
  whole : o.early = false
  path : o.path = p
  may : s.mayPerform x o = true

/-- The operation writes registers of a warp, each once, and no later word has written their bits (R33). -/
def cleanDst (o : Op) : Prop := o.clob = [] ∧ (o.dst.map Prod.fst).Nodup ∧ ∀ p ∈ o.dst, p.1.ofWarp = true

/-- What a performed operation leaves of its warp: its destinations hold `val` under the operation's masks, every other
register its value, the PC stands, and the operation counts no longer as outstanding. -/
def landed (t : State) (w : WarpId) (x : Warp) (o : Op) (val : RegId → BitVec 1024) : Prop :=
  ∃ b1 x1, t.warp? w = some (b1, x1) ∧ x1.pc = x.pc ∧ x1.nest = x.nest ∧ x1.fpst = x.fpst ∧
    (∀ p ∈ o.dst, x1.base p.1 = merge p.2 (x.base p.1) (val p.1) &&& p.1.bits) ∧
    (∀ r : RegId, r.ofWarp = true → (∀ p ∈ o.dst, p.1 ≠ r) → x1.base r = x.base r) ∧
    (∀ o1 ∈ x1.win.ops, o1.num = o.num → o1.done = true)

end Sys2Proof.Claims

namespace Sys2Proof.Machine

/-- A two-source floating-point operation on the elements of a lane, after their modifiers (R130, R144). -/
def Ctx.fp2 (c : Ctx) (f : RForm) (l : Nat) (op : FFmt → Nat → Nat → FRes) : FRes :=
  fpMap f.ty (fun e => op (fpFmt f.ty) (srcMod (fpFmt f.ty) f.na f.aa (e (c.vecN f.ty f.a l)))
    (srcMod (fpFmt f.ty) f.nb f.ab (e (c.vecN f.ty f.b l))))
def Ctx.fp1 (c : Ctx) (f : RForm) (l : Nat) (op : FFmt → Nat → FRes) : FRes :=
  fpMap f.ty (fun e => op (fpFmt f.ty) (srcMod (fpFmt f.ty) f.na f.aa (e (c.vecN f.ty f.a l))))
def Ctx.approximated (c : Ctx) (f : RForm) (l : Nat) (fn : AFn) : FRes :=
  c.fp1 f l (fun k a => fapprox k fn (tyCode f.ty) a (fdecode k a))

/-- The slots that a word on scale registers writes: SMASK, when some lane is active. -/
def Ctx.marked (c : Ctx) (f : RForm) : BitVec 8 := if c.anyActive then smask f else 0

/-- Lane `j` of the 64 lanes of A and B, when that lane is live (R182). -/
def Ctx.ofTwo (c : Ctx) (f : RForm) (j l : Nat) : Nat :=
  if bit c.live (j % 32) then (if j < 32 then c.vecN f.ty f.a j else c.vecN f.ty f.b (j - 32)) else c.vecN f.ty f.a l

/-- A uniform source as an integer of its type (R116). -/
def Ctx.uniZ (c : Ctx) (t : Ty) (o : Opnd) : Int := tyVal t (c.uniN t o)
/-- A lane of a vector source as an integer of its type (R133). -/
def Ctx.vecZ (c : Ctx) (t : Ty) (o : Opnd) (l : Nat) : Int := tyVal t (c.vecN t o l)
/-- The selection of `VSEL` in a lane (R137): a bit of a K register, or a 32-bit value that is not zero. -/
def Ctx.picks (c : Ctx) (o : Opnd) (l : Nat) : Bool :=
  match o with
  | .k n => bit (c.kreg n.toNat) l
  | o => c.vecN .n32 o l != 0

end Sys2Proof.Machine

open Sys2Proof.Claims

/-! ### The words (R90) -/

namespace Sys2Proof.Claims

/-- The shape that a word is checked by before it issues (R68-R90); the steps that are no words have none. -/
def wordShape : Instr → Option Shape
  | .nop f => some (shNop f)
  | .bra f | .call f | .elsec f | .endl f => some (shBra f)
  | .brz f | .brnz f => some (shBrz f)
  | .jmpi f | .calli f => some (shJmpi f)
  | .ret f | .endif f | .loop f | .yield f => some (shPlainJ f)
  | .ifc f => some (shIf f)
  | .breakc f => some (shBreak f)
  | .exit f => some (shExit f)
  | .sleep f => some (shSleep f)
  | .smov f => some (shSmov f)
  | .sli f => some (shSli f)
  | .sadd f | .ssub f | .smul f => some (shSadd f)
  | .smulh f | .smin f | .smax f => some (shSmulh f)
  | .smad f => some (shSmad f)
  | .sand f | .sor f | .sxor f => some (shSand f)
  | .snot f => some (shSnot f)
  | .sshl f | .sshr f | .ssar f => some (shSshl f)
  | .scmp f => some (shScmp f)
  | .ssel f => some (shSsel f)
  | .sbfe f => some (shSbfe f)
  | .sbfi f => some (shSbfi f)
  | .spopc f | .sclz f => some (shSpopc f)
  | .slea f => some (shSlea f)
  | .sldk f => some (shSldk f)
  | .sfromv f => some (shSfromv f)
  | .sfromk f => some (shSfromk f)
  | .kfroms f => some (shKfroms f)
  | .vmov f => some (shVmov f)
  | .vli f => some (shVli f)
  | .vadd f | .vsub f => some (shVadd f)
  | .vmul f => some (shVmul f)
  | .vmulh f => some (shVmulh f)
  | .vmad f => some (shVmad f)
  | .vand f | .vor f | .vxor f => some (shVand f)
  | .vnot f | .vbrev f => some (shVnot f)
  | .vshl f | .vshr f | .vsar f => some (shVshl f)
  | .vmin f | .vmax f => some (shVmin f)
  | .vabs f => some (shVabs f)
  | .vcmp f => some (shVcmp f)
  | .vsel f => some (shVsel f)
  | .vbfe f => some (shVbfe f)
  | .vbfi f => some (shVbfi f)
  | .vpopc f | .vclz f => some (shVpopc f)
  | .vlea f => some (shVlea f)
  | .vdot4 f => some (shVdot4 f)
  | .vprmb f => some (shVprmb f)
  | .vfroms f => some (shVfroms f)
  | .klogic f => some (shKlogic f)
  | .fadd f | .fsub f | .fmul f => some (shF2 f)
  | .ffma f => some (shFfma f)
  | .fmin f | .fmax f => some (shFmin f)
  | .fcmp f => some (shFcmp f)
  | .frcp f | .frsq f | .fexp2 f | .flog2 f | .fsinp f | .fcosp f | .ftanh f | .ferf f => some (shF1 f)
  | .fsqrt f => some (shFsqrt f)
  | .fscl f => some (shFscl f)
  | .frnd f => some (shFrnd f)
  | .ffrac f => some (shFfrac f)
  | .fclass f => some (shFclass f)
  | .fdot2 f => some (shFdot2 f)
  | .cvt f => some (shCvt f)
  | .cvtp f => some (shCvtp f)
  | .mxpk f => some (shMxpk f)
  | .mxup f => some (shMxup f)
  | .qnt f => some (shQnt f)
  | .qnta f => some (shQnta f)
  | .accrd f => some (shAccrd f)
  | .accwr f => some (shAccwr f)
  | .emov f => some (shEmov f)
  | .eset f => some (shEset f)
  | .eget f => some (shEget f)
  | .eadd f => some (shEadd f)
  | .eamax f => some (shEamax f)
  | .mxcvt f => some (shMxcvt f)
  | .echk f => some (shEchk f)
  | .qswz f => some (shQswz f)
  | .qbcst f => some (shQbcst f)
  | .shfl f => some (shShfl f)
  | .shflx f => some (shShflx f)
  | .shfld f => some (shShfld f)
  | .ballot f => some (shBallot f)
  | .vote f => some (shVote f)
  | .mbcnt f => some (shMbcnt f)
  | .cmprs f => some (shCmprs f)
  | .wred f => some (shWred f)
  | .wscan f => some (shWscan f)
  | .ldg f => some (shLdg f)
  | .stg f => some (shStg f)
  | .lds f | .ldcl f => some (shLds f)
  | .sts f | .stcl f => some (shSts f)
  | .ldmx f => some (shLdmx f)
  | .stmx f => some (shStmx f)
  | .sldg f => some (shSldg f)
  | .sstg f => some (shSstg f)
  | .cmpst f => some (shCmpst f)
  | .expld f => some (shExpld f)
  | .fifopop f => some (shFifopop f)
  | .fifopush f => some (shFifopush f)
  | .pref f => some (shPref f)
  | .atom f => some (shAtom f)
  | .acas f => some (shAcas f)
  | .red f => some (shRed f)
  | .redd f => some (shRedd f)
  | .rflush f => some (shRflush f)
  | .fence f => some (shFence f)
  | .fencex f => some (shFencex f)
  | .waitc f => some (shWaitc f)
  | .rdcnt f => some (shRdcnt f)
  | .cpyk f => some (shCpyk f)
  | .gsk f => some (shGsk f)
  | .colk f => some (shColk f)
  | .rkput f | .rkget f => some (shRkput f)
  | .migh f => some (shMigh f)
  | .launch f => some (shLaunch f)
  | .bar f | .bara f => some (shBar f)
  | .barw f => some (shBarw f)
  | .cbara f | .dbara f => some (shCbara f)
  | .cbarw f | .dbarw f => some (shCbarw f)
  | .boinit f | .boexp f => some (shBoinit f)
  | .boarv f => some (shBoarv f)
  | .bowait f => some (shBowait f)
  | .mma f => some (shMma f)
  | .mmag f => some (shMmag f)
  | .azero f => some (shAzero f)
  | .alds f => some (shAlds f)
  | .asts f => some (shAsts f)
  | .astq f => some (shAstq f)
  | .mbara f => some (shMbara f)
  | .mbarw f => some (shMbarw f)
  | .mloop f => some (shMloop f)
  | .mnext f => some (shMnext f)
  | .mbra f => some (shMbra f)
  | .mend f => some (shMend f)
  | .mmov f => some (shMmov f)
  | .madd f => some (shMadd f)
  | .mlds f => some (shMlds f)
  | .mcpyk f => some (shMcpyk f)
  | .mwaitc f => some (shMwaitc f)
  | .mfencex f => some (shMfencex f)
  | .sread f => some (shSread f)
  | .swrite f => some (shSwrite f)
  | .trap f | .brk f => some (shTrap f)
  | .rte f => some (shRte f)
  | .ctrget f => some (shCtrget f)
  | .ctrset f => some (shCtrset f)
  | .rng f => some (shRng f)
  | .clock f | .gtime f => some (shClock f)
  | .pmrd f => some (shPmrd f)
  | _ => none

/-- Warp `w` holds the turn and may issue its word of shape `sh`, seeing `c`, as far as the word's own fields go: no stop is
due and the word is still to be checked (R27, R43). -/
def Offers (s : State) (w : WarpId) (c : Ctx) : Prop :=
  s.cur = some (.warp w) ∧ s.seenBy w = some c ∧ c.w.canIssue c.clk = true ∧ s.stopDue w c.w = false

/-- The value check of row 7 of R90 on the register or stack target of a word (R82). -/
def wordTarget (c : Ctx) : Instr → Option TrapInfo
  | .jmpi f | .calli f => targetCheck (c.uni64 f.a)
  | .ret _ => match c.w.stack.getLast? with
    | none => some { cause := .illegalPc, detail := 0x01 }
    | some t => targetCheck t
  | _ => none

end Sys2Proof.Claims

/-! ### Group 0: control (R101-R112) -/

/-- R78, R86, R103, R105: the transfers of control, and `NOP`, change the PC alone. A K condition counts live lanes. -/
def Obligations.TransfersOfControl : Prop :=
  (∀ f, Gives (.nop f) (shNop f) (fun _ => [])) ∧
  (∀ f, Completes (.bra f) (shBra f) { pc := fun c => jTargetPc c.pc f.x }) ∧
  (∀ f, Completes (.brz f) (shBrz f)
    { pc := fun c => if testOf c f.a = 0 then jTargetPc c.pc f.x else nextPc c.pc }) ∧
  (∀ f, Completes (.brnz f) (shBrz f)
    { pc := fun c => if testOf c f.a = 0 then nextPc c.pc else jTargetPc c.pc f.x }) ∧
  (∀ f, Completes (.jmpi f) (shJmpi f)
    { row7 := fun c => if legalPc (c.uni64 f.a) then none else some { cause := .illegalPc, detail := 0x01, addr := c.uni64 f.a },
      pc := fun c => c.uni64 f.a })

/-- R35, R105: `CALL` and `CALLI` push the successor's address, `RET` pops the newest entry and continues there. -/
def Obligations.CallsAndReturns : Prop :=
  (∀ f, Completes (.call f) (shBra f)
    { pre := fun c => c.w.stack.length < 16, pc := fun c => jTargetPc c.pc f.x,
      warp := fun c x => { x with stack := x.stack ++ [nextPc c.pc] } }) ∧
  (∀ f, Completes (.calli f) (shJmpi f)
    { row7 := fun c => if legalPc (c.uni64 f.a) then none else some { cause := .illegalPc, detail := 0x01, addr := c.uni64 f.a },
      pre := fun c => c.w.stack.length < 16, pc := fun c => c.uni64 f.a,
      warp := fun c x => { x with stack := x.stack ++ [nextPc c.pc] } }) ∧
  (∀ f, Completes (.ret f) (shPlainJ f)
    { row7 := fun c => match c.w.stack.getLast? with
        | none => some { cause := .illegalPc, detail := 0x01 }
        | some t => if legalPc t then none else some { cause := .illegalPc, detail := 0x01, addr := t },
      pc := fun c => c.w.stack.getLast?.getD 0,
      warp := fun _ x => { x with stack := x.stack.dropLast } })

/-- R107: the new nesting counter of every lane that is not retired, and the skip when no lane is left live. -/
def Obligations.Divergence : Prop :=
  (∀ f, Completes (.ifc f) (shIf f) (diverges (some f.x) (fun c l n =>
    if 0 < n then n + 1 else if bit (c.guard f.g) l then 0 else 1))) ∧
  (∀ f, Completes (.elsec f) (shBra f) (diverges (some f.x) (fun _ _ n => if n = 0 then 1 else if n = 1 then 0 else n))) ∧
  (∀ f, Completes (.endif f) (shPlainJ f) (diverges none (fun _ _ n => n - 1))) ∧
  (∀ f, Completes (.loop f) (shPlainJ f) (diverges none (fun _ _ n => if 0 < n then n + 1 else 0))) ∧
  (∀ f, Completes (.breakc f) (shBreak f) (diverges none (fun c l n =>
    if n = 0 ∧ bit (c.guard f.g) l then f.x.toNat + 1 else n))) ∧
  (∀ f, Completes (.endl f) (shBra f)
    { pc := fun c => if c.live = 0 then nextPc c.pc else jTargetPc c.pc f.x,
      warp := fun c x => if c.live = 0 then { x with nest := nestOver c.w (fun _ n => n - 1) } else x })

/-- R16, R35, R107: the traps that these words take before they change anything: NEST_OVERFLOW, CALL_OVERFLOW, and
ILLEGAL_PC of `RET` on an empty stack. -/
def Sys2Proof.Claims.ControlTraps : Prop :=
  (∀ f s w c, Issues (shIf f) noRow7 s w c → (∃ l, l < 32 ∧ bit c.w.retired l = false ∧ nestOf c.w.nest l = 15) →
    exec (.ifc f) s = .next (c.s.takeTrap w { cause := .nestOverflow } c.pc)) ∧
  (∀ f s w c, Issues (shPlainJ f) noRow7 s w c → (∃ l, l < 32 ∧ bit c.w.retired l = false ∧ nestOf c.w.nest l = 15) →
    exec (.loop f) s = .next (c.s.takeTrap w { cause := .nestOverflow } c.pc)) ∧
  (∀ f s w c, Issues (shBra f) noRow7 s w c → c.w.stack.length = 16 →
    exec (.call f) s = .next (c.s.takeTrap w { cause := .callOverflow } c.pc)) ∧
  (∀ f s w b x g, s.cur = some (.warp w) → s.warp? w = some (b, x) → s.grid? w.grid = some g →
    x.canIssue (s.clkOf (dieOfCore b.core)) = true → s.stopDue w x = false → (shPlainJ f).check false (Rec.declared g.record) x.pc = none →
    issueGate x.win (shPlainJ f) = true → x.stack = [] → exec (.ret f) s = .next (s.takeTrap w { cause := .illegalPc, detail := 0x01 } x.pc))

/-- R17, R110-R112: `EXIT` retires the lanes with `regwrite` while a real lane is left, and otherwise ends the warp;
`YIELD` gives way to the warps of the quadrant that are ready in this clk; `SLEEP` stays off issue until its immediate
number of clk, and one more, have passed. -/
def Obligations.ExitYieldSleep : Prop :=
  (∀ f, Completes (.exit f) (shExit f)
    { pre := fun c => ((~~~(c.w.retired ||| c.regwrite f.g)) &&& ~~~c.w.helper) ≠ 0,
      warp := fun c x => { x with retired := x.retired ||| c.regwrite f.g } }) ∧
  (∀ f s w c, Issues (shExit f) noRow7 s w c → ((~~~(c.w.retired ||| c.regwrite f.g)) &&& ~~~c.w.helper) = 0 →
    ∃ t b x, exec (.exit f) s = .next t ∧ t.warp? w = some (b, x) ∧ x.terminated = true ∧
      (x.retired = c.w.retired ||| c.regwrite f.g ||| c.w.helper)) ∧
  (∀ f, Completes (.yield f) (shPlainJ f)
    { warp := fun c x => { x with yieldTo := c.s.ready.filter (fun w => w != c.id) } }) ∧
  (∀ f, Completes (.sleep f) (shSleep f)
    { warp := fun _ x => { x with sleep := if f.x = 0 then 0 else f.x.toNat + 2 } }) ∧
  (∀ (s : State) (b : Block) (x : Warp), s.warp? s.on.w = some (b, x) → x.sleep = 1 →
    ∃ t b', exec .sleepExpire s = .next t ∧ t.warp? s.on.w = some (b', { x with sleep := 0 }))

/-! ### Groups 1 and 2: integers (R113-R142) -/

/-- R115-R117, R123: the uniform arithmetic, logic, shift and move words write their exact value, wrapped or clamped to
the type, once for the warp, and nothing else. -/
def Obligations.UniformArithmetic : Prop :=
  (∀ f, Gives (.smov f) (shSmov f) (uniOut f fun c => c.uniN f.ty f.a)) ∧
  (∀ f, Gives (.sli f) (shSli f) (fun c => outS c.anyActive (opndNum f.d) (tyWide (iTy f))
    (if tyWide (iTy f) then xImmNat (iTy f) f.x else extReg (iTy f) (xImmNat (iTy f) f.x)))) ∧
  (∀ f, Gives (.sadd f) (shSadd f) (uniOut f fun c => ireduce f.ty f.sat (c.uniZ f.ty f.a + c.uniZ f.ty f.b))) ∧
  (∀ f, Gives (.ssub f) (shSadd f) (uniOut f fun c => ireduce f.ty f.sat (c.uniZ f.ty f.a - c.uniZ f.ty f.b))) ∧
  (∀ f, Gives (.smul f) (shSadd f) (uniOut f fun c => ireduce f.ty f.sat (c.uniZ f.ty f.a * c.uniZ f.ty f.b))) ∧
  (∀ f, Gives (.smad f) (shSmad f)
    (uniOut f fun c => ireduce f.ty f.sat (c.uniZ f.ty f.a * c.uniZ f.ty f.b + c.uniZ f.ty f.c))) ∧
  (∀ f, Gives (.smulh f) (shSmulh f)
    (uniOut f fun c => wrapW (tyW f.ty) (c.uniZ f.ty f.a * c.uniZ f.ty f.b / ((2 ^ tyW f.ty : Nat) : Int)))) ∧
  (∀ f, Gives (.smin f) (shSmulh f) (uniOut f fun c => wrapW (tyW f.ty) (min (c.uniZ f.ty f.a) (c.uniZ f.ty f.b)))) ∧
  (∀ f, Gives (.smax f) (shSmulh f) (uniOut f fun c => wrapW (tyW f.ty) (max (c.uniZ f.ty f.a) (c.uniZ f.ty f.b)))) ∧
  (∀ f, Gives (.sand f) (shSand f) (uniOut f fun c => (c.uniN f.ty f.a &&& c.uniN f.ty f.b) % 2 ^ tyW f.ty)) ∧
  (∀ f, Gives (.sor f) (shSand f) (uniOut f fun c => (c.uniN f.ty f.a ||| c.uniN f.ty f.b) % 2 ^ tyW f.ty)) ∧
  (∀ f, Gives (.sxor f) (shSand f) (uniOut f fun c => (c.uniN f.ty f.a ^^^ c.uniN f.ty f.b) % 2 ^ tyW f.ty)) ∧
  (∀ f, Gives (.snot f) (shSnot f) (uniOut f fun c => 2 ^ tyW f.ty - 1 - c.uniN f.ty f.a % 2 ^ tyW f.ty)) ∧
  (∀ f, Gives (.sshl f) (shSshl f) (uniOut f fun c => ishift .shl (tyW f.ty) (c.uniN f.ty f.a) (c.uni32 f.b))) ∧
  (∀ f, Gives (.sshr f) (shSshl f) (uniOut f fun c => ishift .shr (tyW f.ty) (c.uniN f.ty f.a) (c.uni32 f.b))) ∧
  (∀ f, Gives (.ssar f) (shSshl f) (uniOut f fun c => ishift .sar (tyW f.ty) (c.uniN f.ty f.a) (c.uni32 f.b)))

/-- R118-R122, R124-R127: comparison, selection, fields, counts, address arithmetic, constants, and the moves between S,
V and K. `SFROMV` reads its lane whatever that lane's state; in checked mode that slot of A is covered and not pending. -/
def Sys2Proof.Claims.UniformSelection : Prop :=
  (∀ f, Gives (.scmp f) (shScmp f) (fun c => outS c.anyActive (opndNum f.d) false
    (b2n (holds f.sub.toNat (c.uniZ f.ty f.a) (c.uniZ f.ty f.b))))) ∧
  (∀ f, Gives (.ssel f) (shSsel f) (uniOut f fun c => if c.uni32 f.c = 0 then c.uniN f.ty f.b else c.uniN f.ty f.a)) ∧
  (∀ f, Gives (.sbfe f) (shSbfe f) (uniOut f fun c => ibfe f.ty (c.uniN f.ty f.a) (c.uni32 f.b) (c.uni32 f.c))) ∧
  (∀ f, Gives (.sbfi f) (shSbfi f) (uniOut f fun c => ibfi f.ty (c.uniN f.ty f.a) (c.uniN f.ty f.b) (c.uni32 f.c))) ∧
  (∀ f, Gives (.spopc f) (shSpopc f) (fun c => outS c.anyActive (opndNum f.d) false (ipopc (tyW f.ty) (c.uniN f.ty f.a)))) ∧
  (∀ f, Gives (.sclz f) (shSpopc f) (fun c => outS c.anyActive (opndNum f.d) false (iclz (tyW f.ty) (c.uniN f.ty f.a)))) ∧
  (∀ f, Gives (.slea f) (shSlea f) (fun c => outS c.anyActive (opndNum f.d) true
    (wrapW 64 ((c.uni64 f.a).toNat + tyVal f.ty (c.uni32 f.b) * ((2 ^ f.opx.toNat : Nat) : Int))))) ∧
  (∀ f, Gives (.sldk f) (shSldk f) (fun c =>
    let i := (c.uni32 f.a + f.x.toNat) % 128
    outS c.anyActive (opndNum f.d) (tyWide (iTy f)) (join64 (c.konst ((i + 1) % 128)) (c.konst i)).toNat)) ∧
  (∀ f, Completes (.sfromv f) (shSfromv f)
    { pre := fun c => c.chk = true → ∀ r ∈ opndRegs { cls := [.v], n := if tyWide f.ty then 2 else 1 } f.a,
        c.w.win.badSlot r (c.uni32 f.b % 32) = false,
      out := uniOut f fun c => c.vecN f.ty f.a (c.uni32 f.b % 32) }) ∧
  (∀ f, Gives (.sfromk f) (shSfromk f) (fun c => outS c.anyActive (opndNum f.d) false
    (if f.opx = 1 then c.maskOf f.a &&& c.live else c.maskOf f.a).toNat)) ∧
  (∀ f, Gives (.kfroms f) (shKfroms f) (fun c =>
    outK (if f.opx = 1 then (if c.anyActive then BitVec.allOnes 32 else 0) else c.active) (opndNum f.d)
      (BitVec.ofNat 32 (c.uni32 f.a))))

/-- R128-R135: the vector integer words write each lane with `regwrite` and no other. -/
def Obligations.VectorArithmetic : Prop :=
  (∀ f, Gives (.vmov f) (shVmov f) (vecOut f fun c l => c.vecN f.ty f.a l)) ∧
  (∀ f, Gives (.vli f) (shVli f) (fun c => outV (c.regwrite f.g) (opndNum f.d) (tyWide (iTy f))
    (fun _ => if tyWide (iTy f) then xImmNat (iTy f) f.x else extReg (iTy f) (xImmNat (iTy f) f.x)))) ∧
  (∀ f, Gives (.vadd f) (shVadd f) (vecOut f fun c l => ireduce f.ty f.sat (c.vecZ f.ty f.a l + c.vecZ f.ty f.b l))) ∧
  (∀ f, Gives (.vsub f) (shVadd f) (vecOut f fun c l => ireduce f.ty f.sat (c.vecZ f.ty f.a l - c.vecZ f.ty f.b l))) ∧
  (∀ f, Gives (.vmul f) (shVmul f) (vecOut f fun c l => ireduce f.ty f.sat (c.vecZ f.ty f.a l * c.vecZ f.ty f.b l))) ∧
  (∀ f, Gives (.vmad f) (shVmad f)
    (vecOut f fun c l => ireduce f.ty f.sat (c.vecZ f.ty f.a l * c.vecZ f.ty f.b l + c.vecZ f.ty f.c l))) ∧
  (∀ f, Gives (.vmulh f) (shVmulh f)
    (vecOut f fun c l => wrapW (tyW f.ty) (c.vecZ f.ty f.a l * c.vecZ f.ty f.b l / ((2 ^ tyW f.ty : Nat) : Int)))) ∧
  (∀ f, Gives (.vmin f) (shVmin f) (vecOut f fun c l => wrapW (tyW f.ty) (min (c.vecZ f.ty f.a l) (c.vecZ f.ty f.b l)))) ∧
  (∀ f, Gives (.vmax f) (shVmin f) (vecOut f fun c l => wrapW (tyW f.ty) (max (c.vecZ f.ty f.a l) (c.vecZ f.ty f.b l)))) ∧
  (∀ f, Gives (.vabs f) (shVabs f) (vecOut f fun c l => ireduce f.ty f.sat ((c.vecZ f.ty f.a l).natAbs : Int))) ∧
  (∀ f, Gives (.vand f) (shVand f) (vecOut f fun c l => (c.vecN f.ty f.a l &&& c.vecN f.ty f.b l) % 2 ^ tyW f.ty)) ∧
  (∀ f, Gives (.vor f) (shVand f) (vecOut f fun c l => (c.vecN f.ty f.a l ||| c.vecN f.ty f.b l) % 2 ^ tyW f.ty)) ∧
  (∀ f, Gives (.vxor f) (shVand f) (vecOut f fun c l => (c.vecN f.ty f.a l ^^^ c.vecN f.ty f.b l) % 2 ^ tyW f.ty)) ∧
  (∀ f, Gives (.vnot f) (shVnot f) (vecOut f fun c l => 2 ^ tyW f.ty - 1 - c.vecN f.ty f.a l % 2 ^ tyW f.ty)) ∧
  (∀ f, Gives (.vshl f) (shVshl f) (vecOut f fun c l => ishift .shl (tyW f.ty) (c.vecN f.ty f.a l) (c.vecN .n32 f.b l))) ∧
  (∀ f, Gives (.vshr f) (shVshl f) (vecOut f fun c l => ishift .shr (tyW f.ty) (c.vecN f.ty f.a l) (c.vecN .n32 f.b l))) ∧
  (∀ f, Gives (.vsar f) (shVshl f) (vecOut f fun c l => ishift .sar (tyW f.ty) (c.vecN f.ty f.a l) (c.vecN .n32 f.b l)))

/-- R135-R139, R141, R142: comparison into a K register, selection, fields, counts, bit and byte permutes, `VFROMS` into
one lane, and the 16 functions of `KLOGIC`. -/
def Sys2Proof.Claims.VectorSelection : Prop :=
  (∀ f, Gives (.vcmp f) (shVcmp f) (fun c => outK (c.regwrite f.g) (opndNum f.d)
    (ofMask fun l => holds f.sub.toNat (c.vecZ f.ty f.a l) (c.vecZ f.ty f.b l)))) ∧
  (∀ f, Gives (.vsel f) (shVsel f) (vecOut f fun c l => if c.picks f.c l then c.vecN f.ty f.a l else c.vecN f.ty f.b l)) ∧
  (∀ f, Gives (.vbfe f) (shVbfe f)
    (vecOut f fun c l => ibfe f.ty (c.vecN f.ty f.a l) (c.vecN .n32 f.b l) (c.vecN .n32 f.c l))) ∧
  (∀ f, Gives (.vbfi f) (shVbfi f)
    (vecOut f fun c l => ibfi f.ty (c.vecN f.ty f.a l) (c.vecN f.ty f.b l) (c.vecN .n32 f.c l))) ∧
  (∀ f, Gives (.vpopc f) (shVpopc f) (fun c => outV (c.regwrite f.g) (opndNum f.d) false
    (fun l => ipopc (tyW f.ty) (c.vecN f.ty f.a l)))) ∧
  (∀ f, Gives (.vclz f) (shVpopc f) (fun c => outV (c.regwrite f.g) (opndNum f.d) false
    (fun l => iclz (tyW f.ty) (c.vecN f.ty f.a l)))) ∧
  (∀ f, Gives (.vbrev f) (shVnot f) (vecOut f fun c l => ibrev (tyW f.ty) (c.vecN f.ty f.a l))) ∧
  (∀ f, Gives (.vlea f) (shVlea f) (fun c => outV (c.regwrite f.g) (opndNum f.d) true (fun l =>
    wrapW 64 (c.vecN .n64 f.a l + tyVal f.ty (c.vecN .n32 f.b l) * ((2 ^ f.opx.toNat : Nat) : Int))))) ∧
  (∀ f, Gives (.vprmb f) (shVprmb f) (fun c => outV (c.regwrite f.g) (opndNum f.d) false (fun l =>
    iprmb (c.vecN .b32 f.a l) (c.vecN .b32 f.b l) (c.vecN .b32 f.c l)))) ∧
  (∀ f, Gives (.vfroms f) (shVfroms f) (fun c =>
    outV (c.regwrite f.g &&& ((1 : Mask) <<< (c.uni32 f.b % 32))) (opndNum f.d) (tyWide f.ty)
      (fun _ => if tyWide f.ty then c.uniN f.ty f.a else extReg f.ty (c.uniN f.ty f.a)))) ∧
  (∀ f, Gives (.klogic f) (shKlogic f) (fun c =>
    outK (if f.opx = 1 then (if c.regwrite f.g = 0 then 0 else BitVec.allOnes 32) else c.regwrite f.g) (opndNum f.d)
      (ofMask fun l => bit f.sub (2 * b2n (bit (c.maskOf f.a) l) + b2n (bit (c.maskOf f.b) l)))))

/-- R115-R121, R133-R135: the integer functions as operations on bit vectors of the type's width: sums, differences and
products wrap; the shifts by the width or more give zeros or copies of the sign; saturation clamps to the type's range. -/
def Obligations.IntegerFunctions : Prop :=
  (∀ (t : Ty) (a b : Nat), BitVec.ofNat (tyW t) (ireduce t false (tyVal t a + tyVal t b)) =
    BitVec.ofNat (tyW t) a + BitVec.ofNat (tyW t) b) ∧
  (∀ (t : Ty) (a b : Nat), BitVec.ofNat (tyW t) (ireduce t false (tyVal t a - tyVal t b)) =
    BitVec.ofNat (tyW t) a - BitVec.ofNat (tyW t) b) ∧
  (∀ (t : Ty) (a b : Nat), BitVec.ofNat (tyW t) (ireduce t false (tyVal t a * tyVal t b)) =
    BitVec.ofNat (tyW t) a * BitVec.ofNat (tyW t) b) ∧
  (∀ (t : Ty) (e : Int), tySigned t = true →
    tyVal t (ireduce t true e) = max (-(2 ^ (tyW t - 1) : Int)) (min e (2 ^ (tyW t - 1) - 1 : Int))) ∧
  (∀ (t : Ty) (e : Int), tySigned t = false → tyVal t (ireduce t true e) = max 0 (min e (2 ^ tyW t - 1 : Int))) ∧
  (∀ (t : Ty) (a : Nat), tySigned t = true → tyVal t a = (BitVec.ofNat (tyW t) a).toInt) ∧
  (∀ w a k : Nat, BitVec.ofNat w (ishift .shl w a k) = BitVec.ofNat w a <<< k) ∧
  (∀ w a k : Nat, BitVec.ofNat w (ishift .shr w a k) = BitVec.ofNat w a >>> k) ∧
  (∀ w a k : Nat, 0 < w → BitVec.ofNat w (ishift .sar w a k) = (BitVec.ofNat w a).sshiftRight k) ∧
  (∀ w a i : Nat, i < w → (BitVec.ofNat w (ibrev w a)).getLsbD i = (BitVec.ofNat w a).getLsbD (w - 1 - i)) ∧
  (∀ (t : Ty) (r : Nat), tyW t < 32 → tySigned t = true →
    BitVec.ofNat 32 (extReg t r) = (BitVec.ofNat (tyW t) r).signExtend 32)

/-! ### Group 3: floating point (R143-R158) -/

/-- R145-R154: FADD, FSUB, FMUL, FFMA, FMIN, FMAX, FCMP, FSCL, FRND, FFRAC, FCLASS and FDOT2 write the rounded result of
their elements in every lane with `regwrite`, set the sticky bits of the conditions met there, and leave a trap pending
for those whose enable is set.
Where a clause rests on the model's own choice or inference and not on the spec's words, that is log 12. -/
def Obligations.FloatArithmetic : Prop :=
  (∀ f, Completes (.fadd f) (shF2 f) (floats f 5 fun c l =>
    c.fp2 f l (fun k a b => clampIf f.sat k (fadd k f.rnd (fdecode k a) (fdecode k b))))) ∧
  (∀ f, Completes (.fsub f) (shF2 f) (floats f 5 fun c l =>
    c.fp2 f l (fun k a b => clampIf f.sat k (fadd k f.rnd (fdecode k a) (fdecode k b).negate)))) ∧
  (∀ f, Completes (.fmul f) (shF2 f) (floats f 5 fun c l =>
    c.fp2 f l (fun k a b => clampIf f.sat k (fmul k f.rnd (fdecode k a) (fdecode k b))))) ∧
  (∀ f, Completes (.ffma f) (shFfma f) (floats f 5 fun c l => fpMap f.ty (fun e =>
    let k := fpFmt f.ty
    clampIf f.sat k (ffma k f.rnd (fdecode k (srcMod k f.na f.aa (e (c.vecN f.ty f.a l))))
      (fdecode k (srcMod k f.nb f.ab (e (c.vecN f.ty f.b l)))) (fdecode k (srcMod k f.nc false (e (c.vecN f.ty f.c l)))))))) ∧
  (∀ f, Completes (.fmin f) (shFmin f) (floats f 5 fun c l => c.fp2 f l (fun k a b => fminmax k false a b))) ∧
  (∀ f, Completes (.fmax f) (shFmin f) (floats f 5 fun c l => c.fp2 f l (fun k a b => fminmax k true a b))) ∧
  (∀ f, Completes (.fcmp f) (shFcmp f)
    (let g (c : Ctx) (l : Nat) : Bool × Flags := fcmp f.sub.toNat
        (fdecode (fpFmt f.ty) (srcMod (fpFmt f.ty) f.na f.aa (c.vecN f.ty f.a l)))
        (fdecode (fpFmt f.ty) (srcMod (fpFmt f.ty) f.nb f.ab (c.vecN f.ty f.b l)))
     { out := fun c => outK (c.regwrite f.g) (opndNum f.d) (ofMask fun l => (g c l).1),
       warp := fun c => sticks c 5 (flagsOf (c.regwrite f.g) (fun l => ⟨b2n (g c l).1, (g c l).2⟩)) 0 })) ∧
  (∀ f, Completes (.fscl f) (shFscl f) (floats f 5 fun c l => fpMap f.ty (fun e =>
    fscl (fpFmt f.ty) f.rnd (fdecode (fpFmt f.ty) (srcMod (fpFmt f.ty) f.na f.aa (e (c.vecN f.ty f.a l))))
      (sval 32 (c.vecN .s32 f.b l))))) ∧
  (∀ f, Completes (.frnd f) (shFrnd f) (floats f 5 fun c l => c.fp1 f l (fun k a => frnd k f.rnd a))) ∧
  (∀ f, Completes (.ffrac f) (shFfrac f) (floats f 5 fun c l => c.fp1 f l (fun k a => ffrac k (fdecode k a)))) ∧
  (∀ f, Completes (.fclass f) (shFclass f) (floats f 5 fun c l => c.fp1 f l (fun k a => ⟨fclass k (fdecode k a), 0⟩))) ∧
  (∀ f, Completes (.fdot2 f) (shFdot2 f) (floats f 5 fun c l =>
    let k := fpFmt f.ty
    let a (i : Nat) := fdecode k (srcMod k f.na f.aa (elemAt (c.vecN f.ty f.a l) i))
    let b (i : Nat) := fdecode k (srcMod k f.nb f.ab (elemAt (c.vecN f.ty f.b l) i))
    clampIf f.sat fp32 (fdot2 f.rnd (a 0) (b 0) (a 1) (b 1)
      (fdecode fp32 (srcMod fp32 f.nc false (c.vecN .f32 f.c l))))))

/-- R156-R158: the approximated functions and the square root complete after latency 14, with one value per function,
type and input bits, and the flags of that value. -/
def Sys2Proof.Claims.ApproximatedFunctions : Prop :=
  (∀ f, Completes (.frcp f) (shF1 f) (floats f 14 fun c l => c.approximated f l .rcp)) ∧
  (∀ f, Completes (.frsq f) (shF1 f) (floats f 14 fun c l => c.approximated f l .rsq)) ∧
  (∀ f, Completes (.fexp2 f) (shF1 f) (floats f 14 fun c l => c.approximated f l .exp2)) ∧
  (∀ f, Completes (.flog2 f) (shF1 f) (floats f 14 fun c l => c.approximated f l .log2)) ∧
  (∀ f, Completes (.fsinp f) (shF1 f) (floats f 14 fun c l => c.approximated f l .sinp)) ∧
  (∀ f, Completes (.fcosp f) (shF1 f) (floats f 14 fun c l => c.approximated f l .cosp)) ∧
  (∀ f, Completes (.ftanh f) (shF1 f) (floats f 14 fun c l => c.approximated f l .tanh)) ∧
  (∀ f, Completes (.ferf f) (shF1 f) (floats f 14 fun c l => c.approximated f l .erf)) ∧
  (∀ f, Completes (.fsqrt f) (shFsqrt f) (floats f 14 fun c l => c.fp1 f l (fun k a => fsqrt k f.rnd (fdecode k a))))

/-- R47-R50, R147-R150: laws of the floating-point functions: sums and products commute; a NaN operand gives the
canonical NaN, with NV exactly when one is signalling; the clamp of SAT gives +0.0 to 1.0; and exactly one of "less",
"equal", "greater" and "unordered" holds of two operands. -/
def Sys2Proof.Claims.FloatLaws : Prop :=
  (∀ f rnd a b, fadd f rnd a b = fadd f rnd b a) ∧
  (∀ f rnd a b, fmul f rnd a b = fmul f rnd b a) ∧
  (∀ f rnd a b, a.isNan = true → fadd f rnd a b = ⟨f.nanBits, if a.isSig || b.isSig then Flags.nv else 0⟩) ∧
  (∀ f rnd a b c, a.isNan = true →
    ffma f rnd a b c = ⟨f.nanBits, if a.isSig || b.isSig || c.isSig then Flags.nv else 0⟩) ∧
  (∀ f ∈ [fp32, fp16, bf16], ∀ r : FRes, r.bits < 2 ^ f.width →
    (fsat f r).bits ≤ f.bias * 2 ^ f.fw ∧ (fsat f r).fl = r.fl) ∧
  (∀ a b, b2n (fcmp 2 a b).1 + b2n (fcmp 0 a b).1 + b2n (fcmp 4 a b).1 + b2n (fcmp 7 a b).1 = 1) ∧
  (∀ a b, (fcmp 3 a b).1 = ((fcmp 2 a b).1 || (fcmp 0 a b).1) ∧ (fcmp 1 a b).1 = !(fcmp 0 a b).1 ∧
    (fcmp 5 a b).1 = ((fcmp 4 a b).1 || (fcmp 0 a b).1) ∧ (fcmp 6 a b).1 = !(fcmp 7 a b).1)

/-! ### Groups 4 and 5: scales and lane exchange (R159-R187) -/

/-- R162-R164: conversions between scalar types, and of packed halves. -/
def Obligations.ScalarConversions : Prop :=
  (∀ f, Completes (.cvt f) (shCvt f)
    (let g (c : Ctx) (l : Nat) : FRes := cvtVal f.ty (stOf f) f.rnd f.sat (c.vecN (stOf f) f.a l)
     { out := vecOut f fun c l => (g c l).bits, warp := fun c => sticks c 6 (flagsOf (c.regwrite f.g) (g c)) 0 })) ∧
  (∀ f, Completes (.cvtp f) (shCvtp f)
    (let g (c : Ctx) (i l : Nat) : FRes := cvtVal (halfTy f.ty) (halfTy (stOf f)) f.rnd f.sat (match cvtpMode f with
        | .pack => if i = 0 then c.vecN (stOf f) f.a l else c.vecN (stOf f) f.b l
        | _ => elemAt (c.vecN (stOf f) f.a l) i)
     { out := fun c => match cvtpMode f with
         | .unpack => outV (c.regwrite f.g) (opndNum f.d) false (fun l => (g c 0 l).bits) ++
             outV (c.regwrite f.g) (opndNum f.d + 1) false (fun l => (g c 1 l).bits)
         | _ => outV (c.regwrite f.g) (opndNum f.d) false (fun l => (g c 0 l).bits + (g c 1 l).bits * 65536),
       warp := fun c => sticks c 6 (flagsOf (c.regwrite f.g) (g c 0) ||| flagsOf (c.regwrite f.g) (g c 1)) 0 }))

/-- R165-R170: quantising, packing, unpacking and converting block-scaled registers writes elements and scales under
R56, and NSS is set, with NAN_SCALE pending under NSTE, for the blocks whose scale is 0xFF. -/
def Sys2Proof.Claims.BlockScaledConversions : Prop :=
  (∀ f, Completes (.qnt f) (shQnt f) (packs f fun c =>
    (List.range (fmtOf f).blocks).map (fun j => requant (fmtOf f) (f.opx != 1) (lanes32 (c.vreg (opndNum f.a + j)))))) ∧
  (∀ f, Completes (.mxpk f) (shMxpk f) (packs f fun c =>
    (List.range (fmtOf f).blocks).map (fun j => packBlock (fmtOf f) (f.opx != 1) (match f.b with
      | .e n => (slot (c.ereg n.toNat) j).toNat
      | o => c.uni32 o % 256) (lanes32 (c.vreg (opndNum f.a + j)))))) ∧
  (∀ f, Completes (.mxup f) (shMxup f)
    (let g (c : Ctx) (j k : Nat) : FRes :=
       upElem (fmtOf f) (mxElem (fmtOf f) (c.vreg (opndNum f.a)) (32 * j + k)) (slot (c.ereg (opndNum f.a)) j).toNat
     { out := fun c => (List.range (fmtOf f).blocks).flatMap (fun j =>
         outV (c.regwrite f.g) (opndNum f.d + j) false (fun k => (g c j k).bits)),
       warp := fun c => sticks c 10
         ((List.range (fmtOf f).blocks).foldl (fun a j => a ||| flagsOf (c.regwrite f.g) (g c j)) 0)
         (nanMask (if c.regwrite f.g = 0 then 0 else if (fmtOf f).blocks = 4 then 0x0F else 0xFF)
           (fun j => (slot (c.ereg (opndNum f.a)) j).toNat)) })) ∧
  (∀ f, Completes (.mxcvt f) (shMxcvt f)
    (let d := fmtOf f
     let e := sfmtOf f
     let src (c : Ctx) (j : Nat) : List FV :=
       let r := opndNum f.a + j / e.blocks
       let sc := (slot (c.ereg r) (j % e.blocks)).toNat
       (List.range 32).map (fun k => if sc = 0xFF then .nan false
         else (edecode e (mxElem e (c.vreg r) (32 * (j % e.blocks) + k))).scaled sc)
     let bs (c : Ctx) : List MxBlock :=
       (List.range (if d.width = 4 ∨ e.width = 4 then 8 else 4)).map (fun j => requant d (!(bit f.opx 3)) (src c j))
     { out := fun c => (List.range (mxcvtN f d)).flatMap (fun q =>
         let part := (bs c).drop (d.blocks * q)
         outMx (c.regwrite f.g) (opndNum f.d + q) d (mxPack d (blkQ part)) (scaleReg d (blkSc part))),
       warp := fun c => sticks c 10 0 (BitVec.ofNat 8 (packNat 1 (fun j =>
         b2n (bit (blockMask d (c.regwrite f.g)) (j % d.blocks) && blkSc (bs c) j == 0xFF)) 8)) }))

/-- R168, R175-R177: the words on scale registers.
Where a clause rests on the model's own choice or inference and not on the spec's words, that is log 70. -/
def Obligations.ScaleRegisters : Prop :=
  (∀ f, Gives (.emov f) (shEmov f) (fun c => outE (c.marked f) (opndNum f.d) (c.ereg (opndNum f.a)))) ∧
  (∀ f, Gives (.eset f) (shEset f) (fun c => outE (c.marked f) (opndNum f.d) (ofSlots fun _ => BitVec.ofNat 8 (c.uni32 f.a)))) ∧
  (∀ f, Gives (.eget f) (shEget f) (fun c =>
    let x := if f.ty = .b64 then (c.ereg (opndNum f.a)).toNat else (slot (c.ereg (opndNum f.a)) (c.uni32 f.b % 8)).toNat
    match f.d with
    | .s n => outS c.anyActive n.toNat (f.ty == .b64) x
    | o => outV (c.regwrite f.g) (opndNum o) (f.ty == .b64) (fun _ => x))) ∧
  (∀ f, Completes (.eadd f) (shEadd f)
    { out := fun c => outE (c.marked f) (opndNum f.d) (ofSlots fun j => BitVec.ofNat 8
        (let x := (slot (c.ereg (opndNum f.a)) j).toNat
         if x = 0xFF then 0xFF else (max 0 (min 0xFE ((x : Int) + sval 32 (c.uni32 f.b)))).toNat)),
      warp := fun c => sticks c 4 0 (nanMask (c.marked f) (fun j => (slot (c.ereg (opndNum f.a)) j).toNat)) }) ∧
  (∀ f, Completes (.eamax f) (shEamax f)
    (let r (c : Ctx) (j : Nat) : Nat × Bool := eamaxSlot (f.opx == 1) (slot (c.ereg (opndNum f.d)) j).toNat
       (lanes32 (c.vreg (opndNum f.a + j))) (requant (fmtOf f) true (lanes32 (c.vreg (opndNum f.a + j))))
     { out := fun c => outE (if c.anyActive then 0xFF else 0) (opndNum f.d) (ofSlots fun j =>
         BitVec.ofNat 8 (if j < (fmtOf f).blocks then (r c j).1 else 0x7F)),
       warp := fun c => sticks c 10 0 ((if c.anyActive then 0xFF else 0) &&&
         BitVec.ofNat 8 (packNat 1 (fun j => b2n (decide (j < (fmtOf f).blocks) && (r c j).2)) 8)) })) ∧
  (∀ f, Completes (.echk f) (shEchk f)
    (let lo (c : Ctx) := if f.b = .none then 0x00 else c.uni32 f.b % 256
     let hi (c : Ctx) := if f.b = .none then 0xFE else c.uni32 f.b / 256 % 256
     let x (c : Ctx) (j : Nat) : Nat := (slot (c.ereg (opndNum f.a)) j).toNat
     let nan (c : Ctx) := packNat 1 (fun j => b2n (bit (smask f) j && x c j == 0xFF)) 8
     { out := fun c => outS c.anyActive (opndNum f.d) false (nan c * 256 +
         packNat 1 (fun j => b2n (bit (smask f) j && (x c j == 0xFF || decide (x c j < lo c) || decide (hi c < x c j)))) 8),
       warp := fun c => sticks c 4 0 (if c.anyActive then BitVec.ofNat 8 (nan c) else 0) }))

/-- R178-R185: quad exchange reads any lane of the quad; every other exchange and vote reads and writes live lanes only,
and a lane whose source is not live keeps its own value. -/
def Sys2Proof.Claims.LaneExchange : Prop :=
  (∀ f, Gives (.qswz f) (shQswz f) (fun c => outV (c.regwrite f.g) (opndNum f.d) (tyWide f.ty) (fun l =>
    c.vecN f.ty f.a (4 * (l / 4) + field (smask f).toNat (2 * (l % 4)) 2)))) ∧
  (∀ f, Gives (.qbcst f) (shQbcst f) (fun c => outV (c.regwrite f.g) (opndNum f.d) (tyWide f.ty) (fun l =>
    c.vecN f.ty f.a (4 * (l / 4) + c.vecN .n32 f.b l % 4)))) ∧
  (∀ f, Gives (.shfl f) (shShfl f) (fun c => outV (c.live &&& c.guard f.g) (opndNum f.d) (tyWide f.ty) (fun l =>
    let j := shflSrc f.sub.toNat (32 >>> f.opx.toNat) l (c.vecN .n32 f.b l)
    c.vecN f.ty f.a (if bit c.live j then j else l)))) ∧
  (∀ f, Gives (.shflx f) (shShflx f) (fun c => outV (c.live &&& c.guard f.g) (opndNum f.d) (tyWide f.ty) (fun l =>
    c.ofTwo f (c.vecN .n32 f.c l % 64) l))) ∧
  (∀ f, Gives (.shfld f) (shShfld f) (fun c => outV (c.live &&& c.guard f.g) (opndNum f.d) (tyWide f.ty) (fun l =>
    c.ofTwo f (l + c.uni32 f.c % 32) l))) ∧
  (∀ f, Gives (.ballot f) (shBallot f) (fun c =>
    let m := c.live &&& c.guard f.g &&& c.condOf f.a
    inSK c f m.toNat m)) ∧
  (∀ f, Gives (.vote f) (shVote f) (fun c =>
    let p := c.live &&& c.guard f.g
    let r : Bool := match f.sub.toNat with
      | 0 => p &&& c.condOf f.a != 0
      | 1 => p &&& ~~~c.condOf f.a == 0
      | _ => (match f.a with
        | .k _ => p &&& c.condOf f.a == 0 || p &&& ~~~c.condOf f.a == 0
        | o => allSame (lanesOf p) (c.vecN .n32 o))
    inSK c f (b2n r) (if r then BitVec.allOnes 32 else 0))) ∧
  (∀ f, Gives (.mbcnt f) (shMbcnt f) (fun c => outV (c.live &&& c.guard f.g) (opndNum f.d) (tyWide f.ty) (fun l =>
    popNat 32 ((c.maskOf f.a).toNat % 2 ^ (l + f.sub.toNat)) + c.vecN .n32 f.b l))) ∧
  (∀ f, Gives (.cmprs f) (shCmprs f) (fun c =>
    let sel := lanesOf (c.live &&& c.maskOf f.b)
    outV (c.live &&& c.guard f.g &&& BitVec.ofNat 32 (2 ^ sel.length - 1)) (opndNum f.d) (tyWide f.ty) (fun i =>
      c.vecN f.ty f.a ((sel[i]?).getD 0))))

/-- R186, R187: a reduction delivers the tree's value over the live lanes that the guard admits, a scan each lane's prefix;
only the FP32 forms set flags. -/
def Sys2Proof.Claims.ReductionsAndScans : Prop :=
  (∀ f, Completes (.wred f) (shWred f)
    (let r (c : Ctx) := redTree (redOp f.sub.toNat f.ty f.rnd) (c.redLanes f)
     let x (c : Ctx) := redOut f.sub.toNat f.ty f.sat (((r c).map (fun v => v.v)).getD (redEmpty f.sub.toNat f.ty))
     { out := fun c => match f.d with
         | .s n => outS c.anyActive n.toNat (tyWide f.ty) (x c)
         | o => outV (c.live &&& c.guard f.g) (opndNum o) (tyWide f.ty) (fun _ => x c),
       warp := fun c y => if f.ty = .f32 then sticks c 10 (((r c).map (fun v => v.fl)).getD 0) 0 y else y })) ∧
  (∀ f, Completes (.wscan f) (shWscan f)
    (let t (c : Ctx) := scanAll (redOp f.sub.toNat f.ty f.rnd) (c.redLanes f)
     let at_ (c : Ctx) (l : Nat) : Option RedVal :=
       if f.opx = 1 then (if l = 0 then none else ((t c)[l - 1]?).getD none) else ((t c)[l]?).getD none
     { out := fun c => outV (c.live &&& c.guard f.g) (opndNum f.d) (tyWide f.ty) (fun l =>
         redOut f.sub.toNat f.ty f.sat (((at_ c l).map (fun v => v.v)).getD (redEmpty f.sub.toNat f.ty))),
       warp := fun c y => if f.ty = .f32 then
         sticks c 10 ((t c).foldl (fun a v => a ||| ((v.map (fun v => v.fl)).getD 0)) 0) 0 y else y }))

/-- R55, R57-R60: every element code of the floating-point element formats but a NaN decodes to a value that rounds back
to it, and the formats' widths fill a lane. -/
def Sys2Proof.Claims.ElementCodes : Prop :=
  (∀ f ∈ [Elem.e4m3, .e5m2, .e2m3, .e3m2, .e2m1], ∀ q, q < 2 ^ f.width →
    match edecode f q with
    | .fin n m e => fpRound f true n m e = q
    | .inf n => q = f.signCode n + 0x7C
    | .nan _ => 0x7D ≤ q % 0x80) ∧
  (∀ q, q < 16 → match edecode .ng4 q with
    | .fin n m e => ng4Round n m e = q
    | _ => False) ∧
  (∀ f : Elem, f.width * f.perLane ≤ 32 ∧ f.blocks * f.lanesPerBlock = 32 ∧ f.perLane * f.lanesPerBlock = 32)

/-! ### Groups 6 and 7: memory (R188-R213) -/

namespace Sys2Proof.Claims

/-- An operation as it is queued at issue: with the warp's number for it, its PC, its clk. -/
def stamp (c : Ctx) (o : Op) : Op := { o with num := c.w.win.num, pc := c.pc, clk := c.clk, inTrap := c.w.inTrap }

/-- A warp with one more operation in flight. -/
def withOp (c : Ctx) (o : Op) (x : Warp) : Warp := { x with win := { x.win with ops := x.win.ops ++ [stamp c o] } }

/-- Where a word's addresses lie: the state with the translations made, the places, and the first fault. -/
abbrev Places := Ctx → State × List Piece × Option TrapInfo

/-- Nothing to place. -/
def nowhere : Places := fun c => (c.s, [], none)

/-- A word that queues one operation: once every address is placed, no earlier release of the warp has met a fault (R316)
and, for a release at `.clu` or wider, its own write-back meets none (R315), `exec` answers a next state that holds the
operation on its path and the registers and memory as they were. `sends` says whether the line requests of a load leave at
once. -/
def Queues (i : Instr) (sh : Shape) (at_ : Places) (sends : Bool) (op : Ctx → List Piece → Op)
    (pre : Ctx → Prop := fun _ => True) : Prop :=
  ∀ s w c s1 ps, Issues sh noRow7 s w c → pre c → at_ c = (s1, ps, none) →
    (sends = false → (op c ps).kind.isLsu = true → s1.faultAhead c.blk.core c.id c.g c.w.win = false) →
    (sends = false → (op c ps).releases = true → 1 ≤ (op c ps).scope →
      s1.releaseFault c.blk.core c.id = none ∧ s1.queuedFault c.g c.w.win = false) →
    ∃ t, exec i s = .next t ∧
      Leaves (if sends then c.queueLoad s1 (op c ps) else c.queue s1 (op c ps)) t w c [] (nextPc c.pc) (withOp c (op c ps)) ∧
      t.mem = s.mem ∧ t.side = s.side

/-- What a release at `scp` orders is performed there (R315, R470): the warp's own accesses; above `.blk`, or for a
`FENCEX`, no line that it writes back is locked by a move and none faults; at `.dev` and `.sys` the drained reductions are
at their homes and the writes at the other dies, with `all` those that the die has counted too; the die counts what its
atomics wrote at other homes (R301). -/
def mayRelease (c : Ctx) (scp : Nat) (fx all : Bool) : Prop :=
  c.w.win.performed OpKind.isLsu = true ∧
  (scp ≠ 0 ∨ fx = true →
    let s0 := if 3 ≤ scp then c.s.reddDrain c.id else c.s
    c.s.releaseLocked c.blk.core c.id = false ∧ s0.releaseFault c.blk.core c.id = none ∧
    (3 ≤ scp → s0.noSpills c.id = true ∧ (s0.releaseWb c.blk.core c.id).ownUnheard c.die = false ∧
      (s0.releaseWb c.blk.core c.id).settled c.die all = true))

/-- A fault of an access, taken before any lane performs: a translation fault suspends the warp at the word, any other is
a trap at it (R191, R276). `first` is what the lanes before the fault leave (R200, R201). A walk that reads a held line
is no fault: the word waits. -/
def Faults (i : Instr) (sh : Shape) (at_ : Places) (acc : Acc) (pre : Ctx → Prop := fun _ => True)
    (first : Ctx → State → List Piece → State := fun _ s _ => s) : Prop :=
  ∀ s w c s1 ps e, Issues sh noRow7 s w c → pre c → at_ c = (s1, ps, some e) →
    (e.held = false → exec i s = .next (if e.cause = .translation then
        (first c s1 ps).suspend w { cause := e.cause, detail := e.detail, addr := e.addr, acc := acc.code, recPc := c.pc }
      else (first c s1 ps).takeTrap w e c.pc)) ∧
    (e.held = true → exec i s = .next s)

/-- The places of a load or store of format M in a space. -/
def placesM (f : MForm) (sp : Space) (acc : Acc) : Places := fun c =>
  c.placeAll c.s ⟨sp, acc, widBytes f.wid, widBytes f.wid⟩ (c.lanesAt f.g (c.mAddr f))

/-- The one place of a uniform load or store. -/
def placesS (f : MForm) (acc : Acc) : Places := fun c =>
  c.placeAll c.s ⟨.generic, acc, widBytes f.wid, widBytes f.wid⟩ [(0, c.mAddr f 0)]

/-- The lines of a line load or store; none when no lane has an effect on memory. -/
def placesX (f : MForm) (acc : Acc) : Places := fun c =>
  if c.memeffect f.g = 0 then (c.s, [], none) else c.placeUnit f.wid acc (c.mAddr f 0)

/-- The places of a compressed store or an expanding load: consecutive elements for the lanes with an effect. -/
def placesC (f : MForm) (acc : Acc) (ad : Ctx → DWord) : Places := fun c =>
  c.placeAll c.s ⟨.generic, acc, widBytes f.wid, widBytes f.wid⟩ (elemsAt (widBytes f.wid) (ad c) (lanesOf (c.memeffect f.g)))

def loadOp (f : MForm) (p : Path) (gen : Bool) (c : Ctx) (ps : List Piece) : Op :=
  mOp f p (.load ps (widBytes f.wid) (opndNum f.d)) gen (vPend (c.regwrite f.g) (opndNum f.d) (widN f.wid))
def storeOp (f : MForm) (p : Path) (gen : Bool) (c : Ctx) (ps : List Piece) : Op :=
  mOp f p (.store (linePuts ps (widBytes f.wid) (c.vData (opndNum f.d) (widN f.wid)))) gen
def countedOp (f : MForm) (c : Ctx) (ps : List Piece) : Op :=
  mOp f .w (.storeCnt (linePuts ps (widBytes f.wid) (c.vData (opndNum f.b) (widN f.wid))) (opndNum f.d) ps.length) true
    (if c.anyActive then sPend (opndNum f.d) 1 else [])

/-- The lanes of an expanding load that come before the first one that faults. -/
def before (f : MForm) (c : Ctx) (ps : List Piece) : Mask :=
  c.regwrite f.g &&& BitVec.ofNat 32 (2 ^ ((lanesOf (c.memeffect f.g))[ps.length]?).getD 32 - 1)
def atomOpOf (f : CForm) (cas : Bool) (val cmp : Ctx → Nat → Nat) (dst : Bool) (c : Ctx) (ps : List Piece) : Op :=
  cOp f (.atom (ps.map (fun p => ⟨p, BitVec.ofNat 64 (val c p.lane), BitVec.ofNat 64 (cmp c p.lane)⟩)) f.sub.toNat
    (tyOfCode f.ty) cas (if dst then some (opndNum f.d) else none))
    (if dst then vPend (c.regwrite f.g) (opndNum f.d) (if tyWide (tyOfCode f.ty) then 2 else 1) else [])

/-- `ACAS` reads its compare value below its new value (R204). -/
def casNew (f : CForm) (c : Ctx) : Nat → Nat :=
  let n := if tyWide (tyOfCode f.ty) then 2 else 1
  c.vData (opndNum f.b + n) n
def casOld (f : CForm) (c : Ctx) : Nat → Nat := c.vData (opndNum f.b) (if tyWide (tyOfCode f.ty) then 2 else 1)

end Sys2Proof.Claims

/-- R75, R188-R190, R195: loads and stores of lanes, in the generic space, the block's scratchpad, and the cluster's, and
the uniform forms, which act once whatever the lanes while one is live. -/
def Obligations.LoadsAndStores : Prop :=
  (∀ f, Queues (.ldg f) (shLdg f) (placesM f .generic .read) true (loadOp f .g true)) ∧
  (∀ f, Queues (.lds f) (shLds f) (placesM f .own .read) true (loadOp f .s false)) ∧
  (∀ f, Queues (.ldcl f) (shLds f) (placesM f .cluster .read) true (loadOp f .s false)) ∧
  (∀ f, Queues (.stg f) (shStg f) (placesM f .generic .write) false (storeOp f .w true)) ∧
  (∀ f, Queues (.sts f) (shSts f) (placesM f .own .write) false (storeOp f .s false)) ∧
  (∀ f, Queues (.stcl f) (shSts f) (placesM f .cluster .write) false (storeOp f .s false)) ∧
  (∀ f s w c s1 p ps, Issues (shSldg f) noRow7 s w c → c.anylive = true → placesS f .read c = (s1, p :: ps, none) →
    ∃ t, exec (.sldg f) s = .next t ∧
      (let o := mOp f .g (.loadS p (widBytes f.wid) (opndNum f.d)) true (sPend (opndNum f.d) (widN f.wid))
       Leaves (c.queueLoad s1 o) t w c [] (nextPc c.pc) (withOp c o)) ∧ t.mem = s.mem ∧ t.side = s.side) ∧
  (∀ f, Queues (.sstg f) (shSstg f) (placesS f .write) false
    (fun c ps => mOp f .w (.store (linePuts ps (widBytes f.wid) (fun _ => c.sData f))) true) (fun c => c.anylive = true)) ∧
  (∀ f, Completes (.sldg f) (shSldg f) { pre := fun c => c.anylive = false }) ∧
  (∀ f, Completes (.sstg f) (shSstg f) { pre := fun c => c.anylive = false })

/-- R196-R203: lines with their sidecars, compress and expand, FIFO banks, whose words do nothing while no lane is live, and
prefetch, which traps on nothing.
Where a clause rests on the model's own choice or inference and not on the spec's words, that is log 64 and 83. -/
def Obligations.LineAndStreamAccess : Prop :=
  (∀ f, Queues (.ldmx f) (shLdmx f) (placesX f .read) true (fun c ps =>
    let es := if c.memeffect f.g = 0 then 0 else eSlots f.wid (c.regwrite f.g)
    mOp f .g (.loadMx ps f.wid.toNat (opndNum f.d) (c.memeffect f.g)) true
      (vPend (c.regwrite f.g) (opndNum f.d) (layN f.wid) ++
        (List.range (layN f.wid)).map (fun i => (.e (opndNum f.d + i), (slotBits es).setWidth 1024))))) ∧
  (∀ f, Queues (.stmx f) (shStmx f) (placesX f .write) false (fun c ps => mOp f .w (.store
    (if c.memeffect f.g = 0 then []
     else if f.wid = 2 then
       stmxTriple ps (fun q => c.vreg (opndNum f.d + q)) (fun q => c.ereg (opndNum f.d + q)) (c.memeffect f.g)
     else ps.flatMap (fun p => stmxLine (f.wid == 1) p (c.vreg (opndNum f.d)) (c.ereg (opndNum f.d)) (c.memeffect f.g))))
    true)) ∧
  (∀ f, Queues (.cmpst f) (shCmpst f) (placesC f .write (fun c => c.mAddr { f with b := .none } 0)) false (countedOp f)) ∧
  (∀ f, Queues (.expld f) (shExpld f) (placesC f .read (fun c => c.mAddr f 0)) true (fun c ps =>
    mOp f .g (.load ps (widBytes f.wid) (opndNum f.d)) true (vPend (c.regwrite f.g) (opndNum f.d) (widN f.wid)))) ∧
  (∀ f, Queues (.fifopop f) (shFifopop f) nowhere false (fun c _ =>
    mOp f .s (.fifoPop (c.uni32 f.a % 8) (opndNum f.d) (c.memeffect f.g)) false (vPend (c.regwrite f.g) (opndNum f.d) 1))
    (fun c => c.uni32 f.a % 8 < Rec.nfifo c.g.record ∧ c.anylive = true)) ∧
  (∀ f, Queues (.fifopush f) (shFifopush f) nowhere false (fun c _ =>
    mOp f .s (.fifoPush (c.uni32 f.a % 8) (c.vreg (opndNum f.d) &&& laneBits (c.memeffect f.g))) false)
    (fun c => c.uni32 f.a % 8 < Rec.nfifo c.g.record ∧ c.anylive = true)) ∧
  (∀ f, Completes (.fifopop f) (shFifopop f) { pre := fun c => c.anylive = false }) ∧
  (∀ f, Completes (.fifopush f) (shFifopush f) { pre := fun c => c.anylive = false }) ∧
  (∀ f s w c, Issues (shPref f) noRow7 s w c → ∃ t, exec (.pref f) s = .next t ∧
    Leaves ((dedup ((c.lanesAt f.g (c.mAddr f)).filterMap (fun p => c.s.prefLine c.g.ctx p.2))).foldl
      (fun s n => s.prefetch c.blk.core f.cp.toNat n) c.s) t w c [] (nextPc c.pc) (fun x => x))

/-- R204: the operations of an atomic on the old value and the operand: integer sums wrap, minimum and maximum compare as
the type does, `.inc` and `.dec` turn over at the operand. -/
def Sys2Proof.Claims.AtomicFunctions : Prop :=
  (∀ (t : Ty) (a b : Nat), t ≠ .f32 → t ≠ .bf16x2 →
    BitVec.ofNat (tyW t) (atomOp 0 t a b) = BitVec.ofNat (tyW t) a + BitVec.ofNat (tyW t) b) ∧
  (∀ a b : Nat, atomOp 0 .f32 a b = (fadd fp32 .rne (fdecode fp32 a) (fdecode fp32 b)).bits) ∧
  (∀ a b : Nat, atomOp 0 .bf16x2 a b =
    (fadd bf16 .rne (fdecode bf16 (a % 65536)) (fdecode bf16 (b % 65536))).bits +
      65536 * (fadd bf16 .rne (fdecode bf16 (a / 65536 % 65536)) (fdecode bf16 (b / 65536 % 65536))).bits) ∧
  (∀ (t : Ty) (a b : Nat), t ≠ .f32 → tyVal t (atomOp 1 t a b) = min (tyVal t a) (tyVal t b)) ∧
  (∀ (t : Ty) (a b : Nat), t ≠ .f32 → tyVal t (atomOp 2 t a b) = max (tyVal t a) (tyVal t b)) ∧
  (∀ a b : Nat, atomOp 1 .f32 a b = (fminmax fp32 false a b).bits ∧ atomOp 2 .f32 a b = (fminmax fp32 true a b).bits) ∧
  (∀ (t : Ty) (a b : Nat), BitVec.ofNat (tyW t) (atomOp 3 t a b) = BitVec.ofNat (tyW t) a &&& BitVec.ofNat (tyW t) b) ∧
  (∀ (t : Ty) (a b : Nat), BitVec.ofNat (tyW t) (atomOp 4 t a b) = BitVec.ofNat (tyW t) a ||| BitVec.ofNat (tyW t) b) ∧
  (∀ (t : Ty) (a b : Nat), BitVec.ofNat (tyW t) (atomOp 5 t a b) = BitVec.ofNat (tyW t) a ^^^ BitVec.ofNat (tyW t) b) ∧
  (∀ (t : Ty) (a b : Nat), BitVec.ofNat (tyW t) (atomOp 6 t a b) = BitVec.ofNat (tyW t) b) ∧
  (∀ (t : Ty) (a b : Nat), atomOp 7 t a b = if b ≤ a then 0 else a + 1) ∧
  (∀ (t : Ty) (a b : Nat), atomOp 8 t a b = if a = 0 ∨ b < a then b else a - 1) ∧
  (∀ (sub : Nat) (t : Ty) (old : Nat) (p : AtomPiece),
    atomNew sub t true old p = (if old = p.cmp.toNat % 2 ^ tyW t then some (p.val.toNat % 2 ^ tyW t) else none) ∧
    atomNew sub t false old p = some (atomOp sub t old (p.val.toNat % 2 ^ tyW t)))

/-- R204-R207, R210: atomics and reductions go to their homes with each lane's operand; `REDD` combines, enters or spills
its lanes, and `RFLUSH` drains the entries. -/
def Sys2Proof.Claims.AtomicsAndReductions : Prop :=
  (∀ f, Queues (.atom f) (shAtom f) (fun c => c.atomPlaces f) false
    (atomOpOf f false (fun c => c.vecN (tyOfCode f.ty) f.b) (fun _ _ => 0) true)) ∧
  (∀ f, Queues (.acas f) (shAcas f) (fun c => c.atomPlaces f) false (atomOpOf f true (casNew f) (casOld f) true)) ∧
  (∀ f, Queues (.red f) (shRed f) (fun c => c.atomPlaces f) false
    (atomOpOf f false (fun c => c.vecN (tyOfCode f.ty) f.b) (fun _ _ => 0) false)) ∧
  (∀ f s w c s1 ps, Issues (shRedd f) noRow7 s w c → Rec.nredd c.g.record ≠ 0 → c.atomPlaces f = (s1, ps, none) →
    ps.all (fun p => !reddRefused p.loc) = true →
    ∃ t b x, exec (.redd f) s = .next t ∧ t.warp? w = some (b, x) ∧ x.pc = nextPc c.pc ∧
      (let r := s1.reddLanes w (tyOfCode f.ty) f.sub.toNat
         (ps.map (fun p => ⟨p, BitVec.ofNat 64 (c.vecN (tyOfCode f.ty) f.b p.lane), 0⟩))
       (∃ b1 x1, r.1.warp? w = some (b1, x1) ∧ x.redd = x1.redd) ∧
       (∃ o ∈ x.win.ops, o.num = c.w.win.num ∧ o.path = .a ∧ o.kind = .redd r.2 f.sub.toNat (tyOfCode f.ty))) ∧
      t.mem = s.mem ∧ t.side = s.side) ∧
  (∀ f, Completes (.rflush f) (shRflush f) { pre := fun c => c.w.redd = [] }) ∧
  (∀ f s w c, Issues (shRflush f) noRow7 s w c → c.w.redd ≠ [] →
    ∃ t b x, exec (.rflush f) s = .next t ∧ t.warp? w = some (b, x) ∧ x.pc = nextPc c.pc ∧ x.redd = [] ∧
      (∃ o ∈ x.win.ops, o.num = c.w.win.num ∧ o.path = .a ∧ o.kind = .rflush))

/-- R189, R191, R200-R202, R207, R276: what a word's first failing address does to it, what the lanes before it leave, the
FIFO bank and the window addresses that a kernel may not name, and a kernel without reduction entries.
Where a clause rests on the model's own choice or inference and not on the spec's words, that is log 14 and 64. -/
def Obligations.MemoryFaults : Prop :=
  (∀ f, Faults (.ldg f) (shLdg f) (placesM f .generic .read) .read) ∧
  (∀ f, Faults (.stg f) (shStg f) (placesM f .generic .write) .write) ∧
  (∀ f, Faults (.lds f) (shLds f) (placesM f .own .read) .read) ∧
  (∀ f, Faults (.sts f) (shSts f) (placesM f .own .write) .write) ∧
  (∀ f, Faults (.ldcl f) (shLds f) (placesM f .cluster .read) .read) ∧
  (∀ f, Faults (.stcl f) (shSts f) (placesM f .cluster .write) .write) ∧
  (∀ f, Faults (.sldg f) (shSldg f) (placesS f .read) .read (fun c => c.anylive = true)) ∧
  (∀ f, Faults (.sstg f) (shSstg f) (placesS f .write) .write (fun c => c.anylive = true)) ∧
  (∀ f, Faults (.ldmx f) (shLdmx f) (placesX f .read) .read) ∧
  (∀ f, Faults (.stmx f) (shStmx f) (placesX f .write) .write) ∧
  (∀ f, Faults (.atom f) (shAtom f) (fun c => c.atomPlaces f) .atomic) ∧
  (∀ f, Faults (.acas f) (shAcas f) (fun c => c.atomPlaces f) .atomic) ∧
  (∀ f, Faults (.red f) (shRed f) (fun c => c.atomPlaces f) .atomic) ∧
  (∀ f s w c, Issues (shRedd f) noRow7 s w c → Rec.nredd c.g.record = 0 →
    exec (.redd f) s = .next (c.s.takeTrap w { cause := .resource, detail := 0x04 } c.pc)) ∧
  (∀ f, Faults (.cmpst f) (shCmpst f) (placesC f .write (fun c => c.mAddr { f with b := .none } 0)) .write (fun _ => True)
    (fun c s ps => c.queueThenFault s (countedOp f c ps))) ∧
  (∀ f, Faults (.expld f) (shExpld f) (placesC f .read (fun c => c.mAddr f 0)) .read (fun _ => True)
    (fun c s ps => if before f c ps = 0 then s else c.queueThenFault s
      (mOp f .g (.load ps (widBytes f.wid) (opndNum f.d)) true (vPend (before f c ps) (opndNum f.d) (widN f.wid))))) ∧
  (∀ f s w c s1 ps e p, Issues (shRedd f) noRow7 s w c → Rec.nredd c.g.record ≠ 0 → c.atomPlaces f = (s1, ps, e) →
    ps.find? (fun p => reddRefused p.loc) = some p →
    exec (.redd f) s = .next (s1.takeTrap w { cause := .permission, detail := 0x03, addr := p.va } c.pc)) ∧
  (∀ f s w c s1 ps e, Issues (shRedd f) noRow7 s w c → Rec.nredd c.g.record ≠ 0 → c.atomPlaces f = (s1, ps, some e) →
    ps.all (fun p => !reddRefused p.loc) = true → e.cause = .permission → (e.detail = 0x04 ∨ e.detail = 0x01) →
    exec (.redd f) s = .next (s1.takeTrap w { e with detail := 0x03 } c.pc)) ∧
  (∀ f s w c, Issues (shFifopop f) noRow7 s w c → c.anylive = true → Rec.nfifo c.g.record ≤ c.uni32 f.a % 8 →
    exec (.fifopop f) s = .next (c.s.takeTrap w { cause := .fifoMisuse, detail := 0x01 } c.pc)) ∧
  (∀ f s w c, Issues (shFifopush f) noRow7 s w c → c.anylive = true → Rec.nfifo c.g.record ≤ c.uni32 f.a % 8 →
    exec (.fifopush f) s = .next (c.s.takeTrap w { cause := .fifoMisuse, detail := 0x01 } c.pc))

/-- R211-R213, R295, R306, R470: an acquiring fence drops the core's clean lines and waits for the warp's earlier reads
only, a releasing one for every earlier access to be performed at its scope; `WAITC` waits on a path counter and `RDCNT` reads the counters. -/
def Sys2Proof.Claims.FencesAndCounters : Prop :=
  (∀ f s w c, Issues (shFence f) noRow7 s w c → f.x.extractLsb' 3 2 = 1 → c.w.win.performed OpKind.reads = true →
    ∃ t, exec (.fence f) s = .next t ∧
      Leaves (c.s.warpAcquire c.blk.core w (f.x.extractLsb' 5 3).toNat) t w c [] (nextPc c.pc) (fun x => x) ∧
      t.mem = s.mem ∧ t.side = s.side) ∧
  (∀ f s w c, Issues (shFence f) noRow7 s w c →
    c.w.win.performed (if f.x.extractLsb' 3 2 = 1 then OpKind.reads else OpKind.isLsu) = false → exec (.fence f) s = .next s) ∧
  (∀ f s w c, Issues (shFence f) noRow7 s w c → f.x.extractLsb' 3 2 ≠ 1 →
    mayRelease c (f.x.extractLsb' 5 3).toNat false (f.x.extractLsb' 5 3 == 4) →
    ∃ t b x, exec (.fence f) s = .next t ∧ t.warp? w = some (b, x) ∧ x.pc = nextPc c.pc ∧
      (∀ r : RegId, r.ofWarp = true → x.landed x.win.num r = c.w.landed (c.w.win.num + 1) r)) ∧
  (∀ f s w c, Issues (shFencex f) noRow7 s w c → bit f.x 0 = false →
    (3 ≤ (f.x.extractLsb' 8 3).toNat → c.s.settled c.die true = true) →
    ∃ t, exec (.fencex f) s = .next t ∧
      (let s1 := c.s.recall (f.x.extractLsb' 8 3).toNat
       let s2 := if bit f.x 1 && (bit f.x 2 || bit f.x 3) then s1.setBlock c.blk.id (fun b => b.showStream w.warp) else s1
       Leaves (s2.warpAcquire c.blk.core w (f.x.extractLsb' 8 3).toNat) t w c [] (nextPc c.pc) (fun x => x)) ∧
      t.mem = s.mem ∧ t.side = s.side) ∧
  (∀ f s w c, Issues (shFencex f) noRow7 s w c → bit f.x 0 = true → mayRelease c (f.x.extractLsb' 8 3).toNat true true →
    ∃ t b x, exec (.fencex f) s = .next t ∧ t.warp? w = some (b, x) ∧ x.pc = nextPc c.pc ∧
      (∀ r : RegId, r.ofWarp = true → x.landed x.win.num r = c.w.landed (c.w.win.num + 1) r)) ∧
  (∀ f, Completes (.waitc f) (shWaitc f)
    { warp := fun c x => { x with wait := some (.path (pathOfCode f.sub.toNat) (c.uni32 f.a)) } }) ∧
  (∀ f, Gives (.rdcnt f) (shRdcnt f) (fun c =>
    if f.sub = 0 then outS c.anyActive (opndNum f.d) true c.w.win.paths
    else outS c.anyActive (opndNum f.d) false (c.w.win.count (pathOfCode f.sub.toNat))))

/-- R171-R174: the accumulator words travel on path M; where they execute, `ACCRD` delivers a row, `ACCWR` replaces it or
adds to it in the written lanes, and `QNTA` is queued with its destinations. -/
def Sys2Proof.Claims.AccumulatorRows : Prop :=
  (∀ f, Queues (.accrd f) (shAccrd f) nowhere false (fun c _ =>
    { num := 0, path := .m, pc := 0, dst := [(.v (opndNum f.d), laneBits (c.regwrite f.g))],
      kind := .accrd (opndNum f.a) (c.uni32 f.b % 32) (opndNum f.d) (c.regwrite f.g) })) ∧
  (∀ f, Queues (.accwr f) (shAccwr f) nowhere false (fun c _ =>
    { num := 0, path := .m, pc := 0,
      kind := .accwr (opndNum f.d) (c.uni32 f.a % 32) (f.opx == 1) (c.vreg (opndNum f.b)) (c.memeffect f.g) })) ∧
  (∀ f, Queues (.qnta f) (shQnta f) nowhere false (fun c _ =>
    { num := 0, path := .m, pc := 0,
      dst := [(.v (opndNum f.d), laneBits (c.regwrite f.g)),
              (.e (opndNum f.d), (slotBits (scaleMask (fmtOf f) (c.regwrite f.g))).setWidth 1024)],
      kind := .qnta (fmtOf f) (f.opx != 1) (opndNum f.a) (c.uni32 f.b % 32) (opndNum f.d) (c.regwrite f.g) })) ∧
  (∀ (b : Block) (t i j : Nat) (x : VReg), i < 32 → j < 32 →
    (b.setAccRow t i x).accRow t j = if j = i then x else b.accRow t j) ∧
  (∀ (add : Bool) (m : Mask) (old val : VReg) (l : Nat), l < 32 → lane (accNew add m old val) l =
    if bit m l then (if add then add32 (lane old l) (lane val l) else lane val l) else lane old l)

/-! ### Group 8: kicks (R214-R216, R361, R389, R395, R415, R420) -/

namespace Sys2Proof.Claims

/-- A kick: with no live lane nothing happens; with one and every check passed, its address is translated (`k` gives the
state after that, and the kick unless the walk has to wait) and the operation is queued on its path with the kick's status
register pending; a check that fails is a trap. -/
def Kicks (i : Instr) (sh : Shape) (p : Path) (d : Opnd) (check : Ctx → Option TrapInfo) (k : Ctx → State × Option Kick) : Prop :=
  Completes i sh { pre := fun c => c.anylive = false } ∧
  Queues i sh (fun c => ((k c).1, [], none)) false
    (fun c _ => { num := 0, path := p, pc := 0, kind := .kick ((k c).2.getD (.refused 0)) (some (.s (opndNum d))),
                  dst := sPend (opndNum d) 1 })
    (fun c => c.anylive = true ∧ check c = none ∧ (k c).2.isSome = true) ∧
  (∀ s w c t, Issues sh noRow7 s w c → c.anylive = true → check c = some t → exec i s = .next (c.s.takeTrap w t c.pc))

/-- A kick of a run of `n` lines: refused by status 0x06 where one of them has no place of this device (R214, R431); none
while a table line of its walk is held. -/
def kickOn (c : Ctx) (va : DWord) (n : Nat) (acc : Acc) (k : List Nat → Kick) : State × Option Kick :=
  let r := c.kickLines va acc n
  (r.1, match r.2.2 with
    | none => some (k r.2.1)
    | some .refused => some (.refused 0x06)
    | some (.at_ _) => some (.refused 0x06)
    | some .wait => none)

/-- The event that a hint leaves: its tier, and its address rounded down to the page of the leaf (R389). -/
def hintEvent (c : Ctx) (f : RForm) (l : Leaf) : CastleEvent :=
  let a := (c.uni64 f.a).toNat / pageSize l.lv * pageSize l.lv
  { kind := 5, tier := BitVec.ofNat 2 (c.uni32 f.b), addr := BitVec.ofNat 64 a }

end Sys2Proof.Claims

/-- R214, R216, R361, R395: which checks each kick makes at issue and what it hands to its engine. -/
def Sys2Proof.Claims.EngineKicks : Prop :=
  (∀ f, Kicks (.cpyk f) (shCpyk f) .c f.d (fun c => c.offCheck (c.uni32 f.a) 64 64) (fun c => (c.s, some (.copy (c.uni32 f.a))))) ∧
  (∀ f, Kicks (.gsk f) (shGsk f) .c f.d (fun c => c.offCheck (c.uni32 f.a) 64 64) (fun c => (c.s, some (.gather (c.uni32 f.a))))) ∧
  (∀ f, Kicks (.colk f) (shColk f) .f f.d (fun c => (alignCheck (c.uni64 f.a) 256).or (c.rbkCheck (c.uni64 f.a)))
    (fun c => kickOn c (c.uni64 f.a) 1 .read (fun _ => .coll (c.uni64 f.a)))) ∧
  (∀ f, Kicks (.rkput f) (shRkput f) .f f.d (fun c => c.rookCheck f)
    (fun c => kickOn c (c.uni64 f.a) 128 .read (fun ls => .rkput (c.uni64 f.a) ls (c.uni32 f.b)))) ∧
  (∀ f, Kicks (.rkget f) (shRkput f) .f f.d (fun c => c.rookCheck f)
    (fun c => kickOn c (c.uni64 f.a) 32 .write (fun ls => .rkget (c.uni64 f.a) ls (c.uni32 f.b)))) ∧
  (∀ f s w c, Issues (shLaunch f) noRow7 s w c → 64 ≤ c.uni32 f.b →
    exec (.launch f) s = .next (c.s.takeTrap w { cause := .illegalOperand, detail := 0x08 } c.pc)) ∧
  (∀ f, Completes (.launch f) (shLaunch f) { pre := fun c => c.uni32 f.b < 64 ∧ c.anylive = false }) ∧
  (∀ f, Queues (.launch f) (shLaunch f) nowhere false
    (fun c _ =>
      { num := 0, path := .c, pc := 0
        dst := sPend (opndNum f.d) 1
        kind := .kick (.launch (c.uni64 f.a) (BitVec.ofNat 6 (c.uni32 f.b))) (some (.s (opndNum f.d))) })
    (fun c => c.uni32 f.b < 64 ∧ c.anylive = true ∧
      (alignCheck (c.uni64 f.a) 128).or (c.rbkCheck (c.uni64 f.a)) = none))

/-- R389: `MIGH` leaves one event of kind 5 that names the page of an address that translates through a leaf, or nothing
where the ring is full (R388); every other operand leaves nothing. -/
def Sys2Proof.Claims.MigrationHint : Prop :=
  (∀ f, Completes (.migh f) (shMigh f)
    { pre := fun c =>
      c.anylive = false ∨ 2 < c.uni32 f.b ∨ c.s.route c.g.ctx (c.uni64 f.a) .read ≠ .tables ∨
        (∃ t, c.s.walk c.g.ctx (c.uni64 f.a) = .error t ∧ t.held = false) }) ∧
  (∀ f, Completes (.migh f) (shMigh f)
    { pre := fun c =>
      c.s.castle.hasRoom = false ∧ (∃ l, c.s.walk c.g.ctx (c.uni64 f.a) = .ok l) }) ∧
  (∀ f s w c l, Issues (shMigh f) noRow7 s w c → c.anylive = true → c.uni32 f.b ≤ 2 →
    c.s.route c.g.ctx (c.uni64 f.a) .read = .tables → c.s.walk c.g.ctx (c.uni64 f.a) = .ok l →
    c.s.castle.hasRoom = true →
    ∃ t, exec (.migh f) s = .next t ∧
      Leaves (c.s.castleEvent (hintEvent c f l)) t w c [] (nextPc c.pc) (fun x => x) ∧
      t.castle.events = s.castle.events ++ [{ hintEvent c f l with time := s.gtime }] ∧
      t.mem = s.mem ∧ t.side = s.side)

/-! ### Group 9: barriers (R222-R229, R281, R295) -/

namespace Sys2Proof.Claims

/-- A word after which the warp stands at `pc` with its registers' values as they were and the rest of it changed by `f`
alone, and the state satisfies `post`. -/
def Goes (i : Instr) (s : State) (w : WarpId) (c : Ctx) (pc : DWord) (f : Warp → Warp) (post : State → Block → Prop) : Prop :=
  ∃ t b x, exec i s = .next t ∧ t.warp? w = some (b, x) ∧ x.pc = pc ∧ x.other = (f c.w).other ∧
    (∀ r : RegId, r.ofWarp = true → x.landed x.win.num r = c.w.landed (c.w.win.num + 1) r) ∧ post t b

/-- An arrival may proceed: the form without `.xp`, or `.xp` once what its release at `scp` orders is performed
(R226, R315). -/
def mayArrive (c : Ctx) (f : RForm) (scp : Nat) : Prop := f.opx = 1 → mayRelease c scp true true

/-- A numbered barrier with this warp's arrival, and whether that completes the phase: every party has arrived (R222,
R223). -/
def counts (c : Ctx) (n : Nat) : NBar := (c.blk.bar n).arrive c.tb (some c.id.warp) c.after
def fills (c : Ctx) (n : Nat) : Bool := (counts c n).full

/-- The same of the barrier of a cluster or a die portion. -/
def joins (c : Ctx) (k : CBar) : CBar := k.arrive c.tb c.after
def ends (c : Ctx) (k : CBar) : Bool := (joins c k).full

/-- A numbered barrier once this warp has arrived: what the completed phases order is kept while it is to be performed
(R295). -/
def arrived (c : Ctx) (n : Nat) : NBar :=
  if fills c n then { (counts c n).complete with past := c.s.trim (counts c n).complete.past } else counts c n

/-- The same of the barrier of a cluster or a die portion. -/
def joined (c : Ctx) (k : CBar) : CBar :=
  if ends c k then { (joins c k).complete with past := c.s.trim (joins c k).complete.past } else joins c k

/-- The state after a wait that need not wait: an acquire, which orders the scratchpad accesses `past` too (R295). -/
def passes (c : Ctx) (past : List (WarpId × Nat)) (scp : Nat) : State :=
  (c.s.setWarp c.id (c.s.ordered past)).warpAcquire c.blk.core c.id scp

/-- The operation at place `i` of warp `w` completes: the 16 bytes of object `n` of its block `b` become those of `k`, and
no other scratchpad byte changes. -/
def Objects (s : State) (w : WarpId) (i : Nat) (b : Block) (n : Nat) (k : BObj) : Prop :=
  ∃ t b1, exec (.scratchOpComplete (.warp w) i) s = .next t ∧ t.block? w.blockId = some b1 ∧
    b1.scratch = (b.sput (16 * n) k.toBytes).scratch ∧ b1.scratchSide = b.scratchSide ∧ t.mem = s.mem

/-- The block and grid have the identities that their places give them. -/
def Placed (c : Ctx) : Prop := c.blk.bars.length = 16 ∧ c.g.dbars.length = 4 ∧ c.blk.portion < 4

end Sys2Proof.Claims

/-- R222, R223, R225, R226, R295: the arrival words count this warp, and the last arrival completes the phase in that clk,
which flips PHASE, clears the count and ends the waits for that phase; a warp that has arrived in the current phase stays
at a second arrival. What the arrivals order is kept for the accesses that follow the waits. -/
def Sys2Proof.Claims.BarrierArrivals : Prop :=
  (∀ f s w c, Issues (shBar f) noRow7 s w c → Placed c → c.uni32 f.a < c.nbar → c.uni32 f.a < 16 →
    bit (c.blk.bar (c.uni32 f.a)).amask w.warp = false → mayArrive c f 0 →
    Goes (.bara f) s w c (nextPc c.pc) (fun x => { x with wait := none }) (fun t b =>
      b.bar (c.uni32 f.a) = arrived c (c.uni32 f.a) ∧ (∀ m, m ≠ c.uni32 f.a → b.bar m = c.blk.bar m) ∧
      (fills c (c.uni32 f.a) = true → ∀ v b1 x1, s.warp? v = some (b1, x1) →
        v.blockId = w.blockId → x1.wait = some (.numbered (c.uni32 f.a) (c.blk.bar (c.uni32 f.a)).phase) →
        ∃ b2 x2, t.warp? v = some (b2, x2) ∧ x2.wait = none))) ∧
  (∀ f s w c, Issues (shCbara f) noRow7 s w c → c.w.cArr = false → mayArrive c f 1 →
    (let k := c.g.cbar (clusterOf c.g w.block)
     Goes (.cbara f) s w c (nextPc c.pc) (fun x => { x with wait := none, cArr := !(ends c k) }) (fun t _ =>
      ∃ g, t.grid? w.grid = some g ∧
        g.cbar (clusterOf c.g w.block) = joined c k))) ∧
  (∀ f s w c, Issues (shCbara f) noRow7 s w c → Rec.coop c.g.record = true → Placed c → c.w.dArr = false →
    mayArrive c f 2 →
    (let k := c.g.dbar c.blk.portion
     Goes (.dbara f) s w c (nextPc c.pc) (fun x => { x with wait := none, dArr := !(ends c k) }) (fun t _ =>
      ∃ g, t.grid? w.grid = some g ∧ g.dbar c.blk.portion = joined c k))) ∧
  (∀ f s w c, Issues (shBar f) noRow7 s w c → c.uni32 f.a < c.nbar → bit (c.blk.bar (c.uni32 f.a)).amask w.warp = true →
    exec (.bara f) s = .next s ∧ exec (.bar f) s = .next s) ∧
  (∀ f s w c, Issues (shCbara f) noRow7 s w c → c.w.cArr = true → exec (.cbara f) s = .next s) ∧
  (∀ f s w c, Issues (shCbara f) noRow7 s w c → Rec.coop c.g.record = true → c.w.dArr = true →
    exec (.dbara f) s = .next s)

/-- R223, R225, R229, R295: a wait on a phase that has completed goes on, as an acquire; on the current phase the warp
stays at the word. `BAR` arrives and waits for the phase it arrived in. -/
def Sys2Proof.Claims.BarrierWaits : Prop :=
  (∀ f s w c, Issues (shBar f) noRow7 s w c → Placed c → c.uni32 f.a < c.nbar → c.uni32 f.a < 16 →
    bit (c.blk.bar (c.uni32 f.a)).amask w.warp = false → mayArrive c f 0 → (c.blk.bar (c.uni32 f.a)).fallen = false →
    (let n := c.uni32 f.a
     let full := fills c n
     Goes (.bar f) s w c (if full then nextPc c.pc else c.pc)
       (fun x => if full then { c.s.ordered (arrived c n).past x with wait := none }
         else { x with wait := some (.numbered n (c.blk.bar n).phase) })
       (fun _ b => b.bar n = arrived c n))) ∧
  (∀ f s w c, Issues (shBarw f) noRow7 s w c → c.uni32 f.a < c.nbar →
    ((c.blk.bar (c.uni32 f.a)).phase != uniParity c f.b) = true →
    (let past := (c.blk.bar (c.uni32 f.a)).past
     ∃ t, exec (.barw f) s = .next t ∧ Leaves (passes c past 0) t w c [] (nextPc c.pc) (c.s.ordered past))) ∧
  (∀ f, Completes (.barw f) (shBarw f)
    { pre := fun c => c.uni32 f.a < c.nbar ∧ (c.blk.bar (c.uni32 f.a)).phase = uniParity c f.b ∧
        (c.blk.bar (c.uni32 f.a)).fallen = false,
      pc := fun c => c.pc, warp := fun c x => { x with wait := some (.numbered (c.uni32 f.a) (uniParity c f.b)) } }) ∧
  (∀ f s w c, Issues (shCbarw f) noRow7 s w c → ((c.g.cbar (clusterOf c.g w.block)).phase != uniParity c f.a) = true →
    (let past := (c.g.cbar (clusterOf c.g w.block)).past
     ∃ t, exec (.cbarw f) s = .next t ∧ Leaves (passes c past 1) t w c [] (nextPc c.pc) (c.s.ordered past))) ∧
  (∀ f, Completes (.cbarw f) (shCbarw f)
    { pre := fun c => (c.g.cbar (clusterOf c.g c.id.block)).phase = uniParity c f.a ∧
        (c.g.cbar (clusterOf c.g c.id.block)).fallen = false,
      pc := fun c => c.pc, warp := fun c x => { x with wait := some (.cluster (uniParity c f.a)) } }) ∧
  (∀ f s w c, Issues (shCbarw f) noRow7 s w c → Rec.coop c.g.record = true →
    ((c.g.dbar c.blk.portion).phase != uniParity c f.a) = true →
    (let past := (c.g.dbar c.blk.portion).past
     ∃ t, exec (.dbarw f) s = .next t ∧ Leaves (passes c past 2) t w c [] (nextPc c.pc) (c.s.ordered past))) ∧
  (∀ f, Completes (.dbarw f) (shCbarw f)
    { pre := fun c => Rec.coop c.g.record = true ∧ (c.g.dbar c.blk.portion).phase = uniParity c f.a ∧
        (c.g.dbar c.blk.portion).fallen = false,
      pc := fun c => c.pc, warp := fun c x => { x with wait := some (.die (uniParity c f.a)) } }) ∧
  (∀ f s w c, Issues (shBowait f) noRow7 s w c → c.uni32 f.a < Rec.nbobj c.g.record →
    c.w.win.performed (OpKind.onObj (c.uni32 f.a)) = true → (c.blk.obj (c.uni32 f.a)).passes (uniParity c f.b) = true →
    ∃ t, exec (.bowait f) s = .next t ∧
      Leaves ((c.s.setBlock w.blockId (fun b => b.seeObj w.warp (c.uni32 f.a))).warpAcquire c.blk.core w 1) t w c []
        (nextPc c.pc) (fun x => x)) ∧
  (∀ f, Completes (.bowait f) (shBowait f)
    { pre := fun c => c.uni32 f.a < Rec.nbobj c.g.record ∧ c.w.win.performed (OpKind.onObj (c.uni32 f.a)) = true ∧
        (c.blk.obj (c.uni32 f.a)).passes (uniParity c f.b) = false,
      pc := fun c => c.pc,
      warp := fun c x => { x with wait := some (.object (c.uni32 f.a) (uniParity c f.b) c.tb) } })

/-- R228, R229: the object words travel on path S and, performed, set the object to its initial state, add an arrival and
bytes, or add bytes; the balance saturates with ERR, and the phase of a valid object completes when every arrival and byte
is in; the object stands in its 16 scratchpad bytes.
Where a clause rests on the model's own choice or inference and not on the spec's words, that is log 25 and 104. -/
def Obligations.BarrierObjects : Prop :=
  (∀ f, Queues (.boinit f) (shBoinit f) nowhere false
    (fun c _ => { num := 0, path := .s, pc := 0, kind := .boinit (c.uni32 f.a) (c.uni32 f.b) })
    (fun c => c.uni32 f.a < Rec.nbobj c.g.record ∧ 1 ≤ c.uni32 f.b ∧ c.uni32 f.b ≤ 1023)) ∧
  (∀ f, Queues (.boarv f) (shBoarv f) nowhere false
    (fun c _ => { num := 0, path := .s, pc := 0, kind := .boarv (c.uni32 f.a) (c.uni32 f.b) })
    (fun c => c.uni32 f.a < Rec.nbobj c.g.record)) ∧
  (∀ f, Queues (.boexp f) (shBoinit f) nowhere false
    (fun c _ => { num := 0, path := .s, pc := 0, kind := .boexp (c.uni32 f.a) (c.uni32 f.b) })
    (fun c => c.uni32 f.a < Rec.nbobj c.g.record)) ∧
  (∀ s w i b x o n c, Due s w i .s b x o → o.kind = .boinit n c → o.dst = [] → c ≤ 1023 →
    Objects s w i b n (objInit c)) ∧
  (∀ s w i b x o n c, Due s w i .s b x o → o.kind = .boarv n c → o.dst = [] →
    Objects s w i b n ({ b.obj n with bytes := (b.obj n).bytes + c, arr := (b.obj n).arr + 1 } : BObj).close) ∧
  (∀ s w i b x o n c, Due s w i .s b x o → o.kind = .boexp n c → o.dst = [] →
    Objects s w i b n ({ b.obj n with bytes := (b.obj n).bytes + c } : BObj).close) ∧
  (∀ c, objInit c = { bytes := 0, expa := c, arr := 0, phase := false, err := false, valid := true, done := 0 }) ∧
  (∀ k : BObj, -(2 ^ 31) ≤ k.bytes → k.bytes < 2 ^ 31 → k.valid = true → k.arr = k.expa → k.bytes = 0 →
    k.close = { k with phase := !k.phase, arr := 0, done := (k.done + 1) % 2 ^ 32 }) ∧
  (∀ k : BObj, -(2 ^ 31) ≤ k.bytes → k.bytes < 2 ^ 31 → (k.valid = false ∨ k.arr ≠ k.expa ∨ k.bytes ≠ 0) → k.close = k) ∧
  (∀ k : BObj, 2 ^ 31 ≤ k.bytes → k.close.err = true ∧ k.close.bytes = 2 ^ 31 - 1) ∧
  (∀ k : BObj, k.bytes < -(2 ^ 31) → k.close.err = true ∧ k.close.bytes = -(2 ^ 31)) ∧
  (∀ (b : Block) (o : Nat) (k : BObj), -(2 ^ 31) ≤ k.bytes → k.bytes < 2 ^ 31 → k.expa < 1024 → k.arr < 1024 →
    k.done < 2 ^ 32 → (b.sput (16 * o) k.toBytes).obj o = k)

/-- R222, R224, R228: the traps of the barrier words: RESOURCE on a barrier, an object, or a count that the kernel has not
declared, and outside a cooperative grid. -/
def Sys2Proof.Claims.BarrierTraps : Prop :=
  (∀ f s w c, Issues (shBar f) noRow7 s w c → c.nbar ≤ c.uni32 f.a →
    exec (.bar f) s = .next (c.s.takeTrap w { cause := .resource, detail := 0x01 } c.pc) ∧
    exec (.bara f) s = .next (c.s.takeTrap w { cause := .resource, detail := 0x01 } c.pc)) ∧
  (∀ f s w c, Issues (shBarw f) noRow7 s w c → c.nbar ≤ c.uni32 f.a →
    exec (.barw f) s = .next (c.s.takeTrap w { cause := .resource, detail := 0x01 } c.pc)) ∧
  (∀ f s w c, Issues (shCbara f) noRow7 s w c → Rec.coop c.g.record = false →
    exec (.dbara f) s = .next (c.s.takeTrap w { cause := .resource, detail := 0x05 } c.pc)) ∧
  (∀ f s w c, Issues (shCbarw f) noRow7 s w c → Rec.coop c.g.record = false →
    exec (.dbarw f) s = .next (c.s.takeTrap w { cause := .resource, detail := 0x05 } c.pc)) ∧
  (∀ f s w c, Issues (shBoinit f) noRow7 s w c → Rec.nbobj c.g.record ≤ c.uni32 f.a →
    exec (.boinit f) s = .next (c.s.takeTrap w { cause := .resource, detail := 0x02 } c.pc) ∧
    exec (.boexp f) s = .next (c.s.takeTrap w { cause := .resource, detail := 0x02 } c.pc)) ∧
  (∀ f s w c, Issues (shBoinit f) noRow7 s w c → c.uni32 f.a < Rec.nbobj c.g.record →
    (c.uni32 f.b = 0 ∨ 1023 < c.uni32 f.b) →
    exec (.boinit f) s = .next (c.s.takeTrap w { cause := .resource, detail := 0x03 } c.pc)) ∧
  (∀ f s w c, Issues (shBoarv f) noRow7 s w c → Rec.nbobj c.g.record ≤ c.uni32 f.a →
    exec (.boarv f) s = .next (c.s.takeTrap w { cause := .resource, detail := 0x02 } c.pc)) ∧
  (∀ f s w c, Issues (shBowait f) noRow7 s w c → Rec.nbobj c.g.record ≤ c.uni32 f.a →
    exec (.bowait f) s = .next (c.s.takeTrap w { cause := .resource, detail := 0x02 } c.pc))

/-! ### Group A: the matrix stream (R230-R257) -/

namespace Sys2Proof.Claims

/-- A stream's operation in flight, as it is queued. -/
def stampS (c : SCtx) (o : Op) : Op := { o with num := c.q.win.num, pc := c.pc, clk := c.clk }
def withOpS (c : SCtx) (o : Op) (q : Seq) : Seq := { q with win := { q.win with ops := q.win.ops ++ [stampS c o] } }
/-- Tile writes noted for the interlock (R236). -/
def withBusy (c : SCtx) (tiles : List Nat) (mma : Bool) (doneAt : Option Nat) (q : Seq) : Seq :=
  { q with busy := q.busy ++ tiles.map (fun t => { tile := t, byMma := mma, doneAt := doneAt, op := c.q.win.num }) }

/-- No check of R239 fails on the operands of a multiplication with `kb` blocks and the rows `rowsA` of A, which lie in
tiles but for `MMAG`. -/
def fits (c : SCtx) (f : RForm) (kb : Nat) (rowsA : List (Nat × Nat)) (tiles : Bool) : Prop :=
  let dA := descOf (c.val f.a)
  let dB := descOf (c.val f.b)
  dA.rsv = false ∧ dB.rsv = false ∧ 1 ≤ kb ∧ kb ≤ 16 ∧
    opndNum f.d + (dA.nt + 1) * (dB.nt + 1) ≤ Rec.nacc c.g.record ∧
    dA.misaligned f.sub.toNat tiles = false ∧ dB.misaligned f.opx.toNat true = false ∧
    dA.beyond f.sub.toNat kb c.sb rowsA = none ∧ dB.beyond f.opx.toNat kb c.sb dB.rows = none

/-- The tiles of a multiplication. -/
def mulTiles (c : SCtx) (f : RForm) : List Nat :=
  tilesFrom (opndNum f.d) (((descOf (c.val f.a)).nt + 1) * ((descOf (c.val f.b)).nt + 1))

/-- The sequencer once a multiplication has issued: the run, and its tiles busy until their turns are done. -/
def running (c : SCtx) (f : RForm) (gather : Bool) (kb : Nat) (rows : List (Nat × Nat × Bool)) (q : Seq) : Seq :=
  let r : MmaRun :=
    { gather := gather, fa := f.sub.toNat, fb := f.opx.toNat, dA := c.val f.a, dB := c.val f.b, kb := kb, rows := rows,
      dst := opndNum f.d, tm := (descOf (c.val f.a)).nt + 1, tn := (descOf (c.val f.b)).nt + 1, tile := 0, turn := 0,
      st := f.h.st.toNat, num := c.q.win.num, ready := c.clk }
  { withBusy c (mulTiles c f) true none q with run := some r }

/-- A transfer's offset passes its checks (R244). -/
def offFits (c : SCtx) (a : DWord) (al n : Nat) : Prop := a.toNat % al = 0 ∧ a.toNat < 2 ^ 19 ∧ a.toNat + n ≤ c.sb

end Sys2Proof.Claims

/-- R233, R235, R236, R239, R241, R242: once its operands pass the checks and its tiles' earlier writes by other words are
complete, a multiplication starts its turns on the array and the stream waits for them.
Where a clause rests on the model's own choice or inference and not on the spec's words, that is log 64. -/
def Obligations.MatrixMultiply : Prop :=
  (∀ f, StreamCompletes (.mma f) (shMma f)
    { pre := fun c => fits c f (c.cnt f.c) (descOf (c.val f.a)).rows true ∧ c.locked (mulTiles c f) true = false,
      seq := fun c => running c f false (c.cnt f.c) [] }) ∧
  (∀ f, StreamCompletes (.mmag f) (shMmag f)
    { pre := fun c =>
        let x := (c.val f.c).toNat
        let o := field x 0 19
        let v := c.blk.seqView c.s.freeCtr
        let rows := gatherRows v o
        (descOf (c.val f.a)).nt = 0 ∧ field x 19 13 = 0 ∧ field x 37 27 = 0 ∧ o % 64 = 0 ∧ o + 64 ≤ c.sb ∧
          (∀ i, i < 32 → field (v.snat (o + 32 + i) 1) 5 2 = 0) ∧
          fits c f (field x 32 5) (rows.map (fun p => (0, p.1))) false ∧ c.locked (mulTiles c f) true = false,
      seq := fun c => running c f true (field (c.val f.c).toNat 32 5)
        (gatherRows (c.blk.seqView c.s.freeCtr) (field (c.val f.c).toNat 0 19)) }) ∧
  (∀ f s b c, SIssues (shMma f) s b c → fits c f (c.cnt f.c) (descOf (c.val f.a)).rows true →
    c.locked (mulTiles c f) true = true → exec (.mma f) s = .next s)

/-- R243-R247, R252: what the words on tiles and M registers do at issue, and which checks of an offset stop the stream. -/
def Sys2Proof.Claims.TileTransfers : Prop :=
  (∀ f, StreamCompletes (.azero f) (shAzero f)
    (let n (c : SCtx) : Nat := if f.a = .none then 1 else c.cnt f.a
     let d := opndNum f.d
     { pre := fun c => 1 ≤ n c ∧ n c ≤ 64 ∧ d + n c ≤ Rec.nacc c.g.record ∧ c.locked (tilesFrom d (n c)) false = false,
       seq := fun c => withBusy c (tilesFrom d (n c)) false (some (c.clk + 4)),
       base := fun c => c.s.setBlock c.id (fun b =>
         { b with acc := b.acc.filter (fun p => !(decide (32 * d ≤ p.1) && decide (p.1 < 32 * (d + n c)))) }) })) ∧
  (∀ f, StreamCompletes (.alds f) (shAlds f)
    { pre := fun c => offFits c (c.off f) 128 (tileBytes f.ty.toNat) ∧ c.locked [opndNum f.d] false = false,
      seq := fun c q => withBusy c [opndNum f.d] false none
        (withOpS c (seqOp .s (.alds (opndNum f.d) (c.off f).toNat f.ty.toNat (f.sub == 1)) []) q) }) ∧
  (∀ f, StreamCompletes (.asts f) (shAsts f)
    { pre := fun c => offFits c (c.off f) 128 (tileBytes f.ty.toNat) ∧ 16 * Rec.nbobj c.g.record ≤ (c.off f).toNat ∧
        c.locked [opndNum f.d] false = false,
      seq := fun c => withOpS c (seqOp .s (.asts (opndNum f.d) (c.off f).toNat f.ty.toNat
        ((List.range 32).map (fun i => tileRow f.ty.toNat (c.blk.accRow (opndNum f.d) i)))) []) }) ∧
  (∀ f, StreamCompletes (.mlds f) (shMlds f)
    { pre := fun c => offFits c (c.off f) 8 8,
      seq := fun c => withOpS c
        (seqOp .s (.mlds (c.off f).toNat (opndNum f.d)) [(.m (opndNum f.d), (RegId.m (opndNum f.d)).bits)]) }) ∧
  (∀ f, StreamCompletes (.astq f) (shAstq f)
    (let e := (elemOfCode f.sub.toNat).getD .e4m3
     let a (c : SCtx) (i : Nat) : Nat :=
       ((c.off f).toNat + i * (if f.b = .none then blockBytes e else (c.val f.b).toNat)) % 2 ^ 64
     let ls (c : SCtx) : List LinePut := (List.range 32).foldl (fun ls i =>
       addQBlock e ls (a c i) (requant e (!(bit f.ty 0)) (tileVec c.blk (opndNum f.d) i (bit f.ty 1)))) []
     { pre := fun c => (∀ i, i < 32 → a c i % blockBytes e = 0) ∧ c.locked [opndNum f.d] false = false ∧
         (c.s.core c.blk.core).park + 32 * blockBytes e ≤ 65536,
       seq := fun c =>
         withOpS c { num := 0, path := .w, pc := 0, cp := f.cp, kind := .astq (ls c) (32 * blockBytes e) },
       base := fun c => c.s.setCore c.blk.core (fun k => { k with park := k.park + 32 * blockBytes e }) })) ∧
  (∀ f s b c, SIssues (shMlds f) s b c → (c.off f).toNat % 8 ≠ 0 →
    exec (.mlds f) s = .next (c.s.streamTrap b { cause := .misaligned, addr := c.off f } c.pc)) ∧
  (∀ f s b c, SIssues (shMlds f) s b c → (c.off f).toNat % 8 = 0 → (2 ^ 19 ≤ (c.off f).toNat ∨ c.sb < (c.off f).toNat + 8) →
    exec (.mlds f) s = .next (c.s.streamTrap b { cause := .permission, detail := 0x01, addr := c.off f } c.pc))

/-- R249-R255: the stream's control: M registers, loops, branches, counters, copies, fences, and its end, which comes when
every tile write is complete and the counters are 0. -/
def Sys2Proof.Claims.StreamControl : Prop :=
  (∀ f, StreamCompletes (.mmov f) (shMmov f) { out := fun c => outM f.d (c.val f.a) }) ∧
  (∀ f, StreamCompletes (.madd f) (shMadd f) { out := fun c => outM f.d (c.val f.a + (c.val f.b <<< f.opx.toNat)) }) ∧
  (∀ f, StreamCompletes (.mloop f) (shMloop f)
    { out := fun c => outM f.d (c.val f.a),
      pc := fun c => if c.val f.a = 0 then jTargetPc c.pc f.x else nextPc c.pc }) ∧
  (∀ f, StreamCompletes (.mnext f) (shMnext f)
    { out := fun c => outM f.d (c.val f.d - 1),
      pc := fun c => if c.val f.d = 1 then nextPc c.pc else jTargetPc c.pc f.x }) ∧
  (∀ f, StreamCompletes (.mbra f) (shMbra f)
    { pc := fun c => if f.a = .none ∨ c.val f.a ≠ 0 then jTargetPc c.pc f.x else nextPc c.pc }) ∧
  (∀ f, StreamCompletes (.mwaitc f) (shMwaitc f)
    { seq := fun c q => { q with wait := some (.path (pathOfCode f.sub.toNat) (c.cnt f.a)) } }) ∧
  (∀ f, StreamCompletes (.mcpyk f) (shMcpyk f)
    { pre := fun c => offFits c (BitVec.ofNat 64 (c.cnt f.a)) 64 64,
      seq := fun c => withOpS c (seqOp .c
        (.kick (.copy (c.cnt f.a)) (if f.d = .none then none else some (.m (opndNum f.d))))
        (if f.d = .none then [] else [(.m (opndNum f.d), (RegId.m (opndNum f.d)).bits)])) }) ∧
  (∀ f, StreamCompletes (.mfencex f) (shMfencex f)
    (let scp := (f.x.extractLsb' 8 3).toNat
     let s1 (c : SCtx) : State := if bit f.x 0 then c.s.passedWb c.blk.core c.id else c.s
     { pre := fun c => c.writing = false ∧ c.q.win.performed OpKind.isMma = true ∧
         (bit f.x 0 = true → (∀ p ∈ c.s.passedSects c.blk.core c.id, c.s.locked p.1 = false ∧
           ∀ l, (c.s.core c.blk.core).l1? p.1 = some l → c.s.wbWaits l p.2 = false) ∧
           (s1 c).passedSects c.blk.core c.id = []) ∧
         (3 ≤ scp → (s1 c).settled (dieOfCore c.blk.core) (bit f.x 0 || scp == 4) = true),
       base := fun c => ((s1 c).recall scp).acquire c.blk.core scp })) ∧
  (∀ f s b c, SIssues (shMend f) s b c → ∃ t k q, exec (.mend f) s = .next t ∧
    t.seq? b = some (k, q) ∧ q.ending = true ∧ q.ended = (c.q.win.ops.isEmpty && !c.writing))

/-- R248: the stream's barrier words: an arrival counts once per phase, waits for the stream's tile writes first, and a
wait goes on when the phase it names is over; RESOURCE on a barrier that is not declared or has no stream party. -/
def Sys2Proof.Claims.StreamBarriers : Prop :=
  (∀ f s b c, SIssues (shMbara f) s b c → c.blk.bars.length = 16 → c.cnt f.a < Rec.nbar c.g.record → c.cnt f.a < 16 →
    (c.blk.bar (c.cnt f.a)).seqp = true → (c.blk.bar (c.cnt f.a)).seqa = false → c.writing = false →
    (f.opx = 1 → c.q.win.count .s = 0 ∧ c.q.win.count .w = 0) →
    ∃ t k q, exec (.mbara f) s = .next t ∧ t.seq? b = some (k, q) ∧ q.pc = nextPc c.pc ∧
      (let k1 := (c.blk.bar (c.cnt f.a)).arrive (Rec.tb c.g.record) none
       k.bar (c.cnt f.a) = if k1.full then { k1.complete with past := c.s.trim k1.complete.past } else k1) ∧ t.mem = s.mem ∧ t.side = s.side) ∧
  (∀ f, StreamCompletes (.mbarw f) (shMbarw f)
    { pre := fun c => c.cnt f.a < Rec.nbar c.g.record ∧ (c.blk.bar (c.cnt f.a)).seqp = true ∧
        (c.blk.bar (c.cnt f.a)).phase ≠ (c.cnt f.b % 2 == 1) }) ∧
  (∀ f, StreamCompletes (.mbarw f) (shMbarw f)
    { pre := fun c => c.cnt f.a < Rec.nbar c.g.record ∧ (c.blk.bar (c.cnt f.a)).seqp = true ∧
        (c.blk.bar (c.cnt f.a)).phase = (c.cnt f.b % 2 == 1) ∧ (c.blk.bar (c.cnt f.a)).fallen = false,
      pc := fun c => c.pc,
      seq := fun c q => { q with wait := some (.numbered (c.cnt f.a) (c.cnt f.b % 2 == 1)) } }) ∧
  (∀ f s b c, SIssues (shMbara f) s b c → Rec.nbar c.g.record ≤ c.cnt f.a →
    exec (.mbara f) s = .next (c.s.streamTrap b { cause := .resource, detail := 0x01 } c.pc)) ∧
  (∀ f s b c, SIssues (shMbara f) s b c → c.cnt f.a < Rec.nbar c.g.record → (c.blk.bar (c.cnt f.a)).seqp = false →
    exec (.mbara f) s = .next (c.s.streamTrap b { cause := .resource, detail := 0x06 } c.pc))

/-! ### Group B: system (R260-R276) -/

namespace Sys2Proof.Claims

/-- Access to a special register may go on: `%fpst` waits for the flags of earlier words, and checked mode has no
objection to a read (R145, R262). -/
def specFree (c : Ctx) (r : SpecId) : Prop :=
  (r = .fpst → c.fpHeld = false) ∧ (c.chk = true → c.w.specUncovered r = false)

/-- Results of a uniform 64-bit value. -/
def out64 (c : Ctx) (f : RForm) (x : Nat) : List Result := outS c.anyActive (opndNum f.d) true x

/-- A warp's trap frame lies where the warp may write. -/
def frameOk (s : State) (b : Block) (g : Grid) (w : WarpId) (s1 : State) (ls : List (DWord × Option Loc)) : Prop :=
  s.frameLocs b g (frameAddr g.record w) = (s1, .ok ls)

end Sys2Proof.Claims

/-- R24-R26, R260-R262: `SREAD` delivers a special register's value under R29, and `SWRITE` writes the bits that the
register has; a read-only number reads its field, and writing one traps ILLEGAL_OPERAND 0x02 at the word. -/
def Sys2Proof.Claims.SpecialRegisters : Prop :=
  (∀ f, Completes (.sread f) (shSread f)
    { pre := fun c => ∀ r, specOf (spNum f.a) = some r → specFree c r,
      out := fun c =>
        let x : Nat → Nat := match specOf (spNum f.a) with
          | some r => fun _ => (c.w.readSpec r).toNat
          | none => c.roSpec (spNum f.a)
        let wide := (specOf (spNum f.a)).isSome && spWide (spNum f.a)
        if isS f.d then outS c.anyActive (opndNum f.d) wide (x 0) else outV (c.regwrite f.g) (opndNum f.d) wide x }) ∧
  (∀ f r, specOf (spNum f.d) = some r → ∀ s w c, Issues (shSwrite f) noRow7 s w c → c.anyActive = true →
    (r = .fpst → c.fpHeld = false) →
    ∃ t b x, exec (.swrite f) s = .next t ∧ t.warp? w = some (b, x) ∧ x.pc = nextPc c.pc ∧
      x.spec r = (BitVec.ofNat 128 (if spWide (spNum f.d) then (c.uni64 f.a).toNat else c.uni32 f.a) &&& specMask r) ∧
      (∀ q, q ≠ r → x.spec q = c.w.spec q) ∧
      (∀ n : RegId, n.ofWarp = true → x.landed x.win.num n = c.w.landed (c.w.win.num + 1) n) ∧
      t.mem = s.mem ∧ t.side = s.side) ∧
  (∀ f r, specOf (spNum f.d) = some r → Completes (.swrite f) (shSwrite f)
    { pre := fun c => c.anyActive = false ∧ (r = .fpst → c.fpHeld = false) }) ∧
  (∀ f s w c n, Offers s w c → f.d = .sp n → n.toNat ≤ 0x16 → specOf n.toNat = none →
    guardOk .always false f.g = true → hintsOk false (shSwrite f).lat f.h = true → (shSwrite f).modOk = true →
    exec (.swrite f) s = .next (s.takeTrap w { cause := .illegalOperand, detail := 0x02 } c.w.pc)) ∧
  (∀ f s w c, Issues (shSread f) noRow7 s w c → specOf (spNum f.a) = some .fpst → c.fpHeld = true →
    exec (.sread f) s = .next s)

/-- R260, R269: `TRAP` and `BRK` take their traps, with DONE set, when a lane is selected, and otherwise do nothing. -/
def Sys2Proof.Claims.SoftwareTraps : Prop :=
  (∀ f, Completes (.trap f) (shTrap f) { pre := fun c => c.regwrite f.g = 0 }) ∧
  (∀ f, Completes (.brk f) (shTrap f) { pre := fun c => c.regwrite f.g = 0 }) ∧
  (∀ f s w c, Issues (shTrap f) noRow7 s w c → c.regwrite f.g ≠ 0 →
    exec (.trap f) s = .next ((c.s.counted c.blk.core w.grid).takeTrap w
      { cause := .software, detail := f.x.setWidth 8, addr := f.x.setWidth 64 } c.pc true)) ∧
  (∀ f s w c, Issues (shTrap f) noRow7 s w c → c.regwrite f.g ≠ 0 →
    exec (.brk f) s = .next ((c.s.counted c.blk.core w.grid).takeTrap w
      { cause := .breakpoint, detail := f.x.setWidth 8, addr := f.x.setWidth 64 } c.pc true))

/-- R269, R270, R273, R275: what taking a trap saves and where it goes, and when the warp stops instead: without a
handler, in it already, or with a frame that cannot be written. The frame's line holds the frame's bytes after the entry:
in memory where the die of the warp's core is the line's home, in that die's copy where the home is another, and in a
scratchpad where the frame lies there.
Where a clause rests on the model's own choice or inference and not on the spec's words, that is log 21, 92, 101 and 102. -/
def Obligations.TrapEntry : Prop :=
  (∀ (s : State) (w : WarpId) (b : Block) (x : Warp) (g : Grid) (t : TrapInfo) tpc done fpc diag s1 ls, s.warp? w = some (b, x) → s.grid? w.grid = some g →
    Rec.trapv g.record = true → x.inTrap = false → frameOk s b g w s1 ls →
    ∃ b1 y, (s.takeTrap w t tpc done fpc diag).warp? w = some (b1, y) ∧
      y.pc = Rec.handler g.record ∧ y.inTrap = true ∧ y.trapcause = BitVec.ofNat 32 (t.cause.code.toNat + 256 * t.detail.toNat) ∧
      y.trappc = tpc ∧ y.trapaddr = t.addr ∧ y.wait = none ∧ y.win.fly = [] ∧ y.retired = x.retired ∧
      (∀ l, l < 32 → nestOf y.nest l = if bit x.retired l then nestOf x.nest l else 0) ∧
      (∀ r : RegId, r.ofWarp = true → y.base r = x.landed x.win.num r) ∧
      y.mode = x.mode ∧ y.fpst = x.fpst ∧ y.stack = x.stack ∧ y.win.ops = x.win.ops ∧
      (∀ p ∈ y.pend, p.info.cause = .poison)) ∧
  (∀ (s : State) (w : WarpId) (b : Block) (x : Warp) (g : Grid) (t : TrapInfo) tpc done fpc s1 va l ls,
    s.warp? w = some (b, x) → s.grid? w.grid = some g → Rec.trapv g.record = true → x.inTrap = false →
    frameOk s b g w s1 ((va, some l) :: ls) → s1.lineNow b (some l) = true →
    (let t1 := s.takeTrap w t tpc done fpc
     let fr := frameBytes (causeWord t) done tpc t.addr x.nest x.live fpc none
     let d := dieOfCore b.core
     (∀ pa, l = .mem pa → homeDie (pa / 128) = d → s1.lost (pa / 128) = false → nothingComing s1 →
       ∀ k, k < 128 → some (t1.byte (128 * (pa / 128) + k)) = fr[k]?) ∧
     (∀ pa, l = .mem pa → homeDie (pa / 128) ≠ d → d < s1.dies.length →
       ∃ cp, (t1.die d).copy? (pa / 128) = some cp ∧ ∀ k, k < 128 → some (byteAt cp.data k) = fr[k]? ∧ bit cp.have_ k = true) ∧
     (∀ v o, l = .scratch v o → (s1.block? v).isSome = true →
       ∃ b1, t1.block? v = some b1 ∧ ∀ k, k < 128 → some (b1.sbyte (128 * (o / 128) + k)) = fr[k]?))) ∧
  (∀ (s : State) (w : WarpId) (b : Block) (x : Warp) (g : Grid) (t : TrapInfo) tpc done fpc diag, s.warp? w = some (b, x) → s.grid? w.grid = some g →
    (Rec.trapv g.record = false ∨ x.inTrap = true) →
    ∃ b1 y, (s.takeTrap w t tpc done fpc diag).warp? w = some (b1, y) ∧ y.stopped = true ∧ y.pend = [] ∧ y.wait = none ∧
      y.pc = x.pc ∧ (s.takeTrap w t tpc done fpc diag).mem = s.mem ∧
      (s.takeTrap w t tpc done fpc diag).fq.pending = s.fq.pending ++
        [warpRec (if x.inTrap then 6 else 5) b w t tpc 0 .nobody]) ∧
  (∀ (s : State) (w : WarpId) (b : Block) (x : Warp) (g : Grid) (t e : TrapInfo) tpc done fpc diag s1, s.warp? w = some (b, x) →
    s.grid? w.grid = some g → Rec.trapv g.record = true → x.inTrap = false →
    s.frameLocs b g (frameAddr g.record w) = (s1, .error e) → s.takeTrap w t tpc done fpc diag = s1.stopWarp w t tpc) ∧
  (∀ (tcause : Word) done (tpc taddr : DWord) (nest : BitVec 128) (live : Mask) (fpc : DWord),
    let fr := frameBytes tcause done tpc taddr nest live fpc none
    fr.length = 128 ∧ natLE (fr.take 4) = tcause.toNat ∧ natLE ((fr.drop 4).take 4) = b2n done ∧
      natLE ((fr.drop 8).take 8) = tpc.toNat ∧ natLE ((fr.drop 16).take 8) = taddr.toNat ∧
      natLE ((fr.drop 24).take 16) = nest.toNat ∧ natLE ((fr.drop 40).take 4) = live.toNat ∧
      natLE ((fr.drop 48).take 8) = fpc.toNat)

/-- R271: the return from a trap: outside a handler ILLEGAL_OPCODE; otherwise, once W and A are 0, it restores the nesting
counters of the frame and goes on at TPC, or its successor under DONE. -/
def Obligations.ReturnFromTrap : Prop :=
  (∀ f s w c, Issues (shRte f) noRow7 s w c → c.w.inTrap = false →
    exec (.rte f) s = .next (c.s.takeTrap w { cause := .illegalOpcode, detail := 0x02 } c.pc)) ∧
  (∀ f s w c, Issues (shRte f) noRow7 s w c → c.w.inTrap = true → (c.w.win.count .w ≠ 0 ∨ c.w.win.count .a ≠ 0) →
    exec (.rte f) s = .next s) ∧
  (∀ f s w c s1 fr, Issues (shRte f) noRow7 s w c → c.w.inTrap = true → c.w.win.count .w = 0 → c.w.win.count .a = 0 →
    c.readFrame = .got s1 fr false → legalPc (if bit fr 32 then nextPc c.w.trappc else c.w.trappc) = true →
    ∃ t, exec (.rte f) s = .next t ∧
      Leaves s1 t w c [] (if bit fr 32 then nextPc c.w.trappc else c.w.trappc)
        (fun x => { x with nest := framedNest x fr, inTrap := false }))

/-- R263-R268: the generator gives a word of its function per lane and advances its counter by 8, its state is read and
set in halves, and the clocks and event counters are read whole. -/
def Sys2Proof.Claims.GeneratorAndClocks : Prop :=
  (∀ f s w c, Issues (shRng f) noRow7 s w c →
    (c.chk = true → c.w.specUncovered .key = false ∧ c.w.specUncovered .ctr = false) → c.anylive = true →
    ∃ t, exec (.rng f) s = .next t ∧
      Leaves s t w c (outV (c.regwrite f.g) (opndNum f.d) false (rngLane f.ty (c.w.readSpec .key) (c.w.readSpec .ctr)))
        (nextPc c.pc) (fun x => { x with ctr := c.w.readSpec .ctr + 8, specs := x.specs.filter (fun q => q.spec ≠ .ctr) })) ∧
  (∀ f, Completes (.ctrget f) (shCtrget f)
    { pre := fun c => c.chk = true → c.w.specUncovered (genSel f) = false,
      out := fun c =>
        let x := (c.w.readSpec (genSel f)).toNat
        outS c.anyActive (opndNum f.d) true (x % 2 ^ 64) ++ outS c.anyActive (opndNum f.d + 2) true (x / 2 ^ 64) }) ∧
  (∀ f s w c, Issues (shCtrset f) noRow7 s w c → c.anyActive = true →
    (c.chk = true → f.opx = 1 → c.w.specUncovered .ctr = false) →
    ∃ t b x, exec (.ctrset f) s = .next t ∧ t.warp? w = some (b, x) ∧ x.pc = nextPc c.pc ∧
      (let v : BitVec 128 := c.sreg64 (opndNum f.a + 2) ++ c.sreg64 (opndNum f.a)
       x.spec (genSel f) = if f.opx = 1 then c.w.readSpec .ctr + v else v) ∧
      (∀ q, q ≠ genSel f → x.spec q = c.w.spec q) ∧ t.mem = s.mem ∧ t.side = s.side) ∧
  (∀ f, Gives (.clock f) (shClock f) (fun c => out64 c f ((c.clk - (c.s.die c.die).clk0) % 2 ^ 64))) ∧
  (∀ f, Gives (.gtime f) (shClock f) (fun c => out64 c f c.s.gtime.toNat)) ∧
  (∀ f, Gives (.pmrd f) (shPmrd f) (fun c => out64 c f
    ((c.s.core c.blk.core).counter (c.uni32 f.a % 256)).toNat)) ∧
  (∀ k c : BitVec 128, ∀ i, rngWord k c i < 2 ^ 32)

/-! ### The checks before a word issues (R24, R30, R33, R68-R90) -/

namespace Sys2Proof.Claims

/-- A register that a word reads: through an operand that it reads, or as its lane guard (R30, R33, R68). -/
def readsReg (sh : Shape) (r : RegId) : Prop :=
  r ∈ slotReads sh.ds sh.d ∨ r ∈ slotReads sh.as sh.a ∨ r ∈ slotReads sh.bs sh.b ∨ r ∈ slotReads sh.cs sh.c ∨
    (sh.guard = .lanes ∧ sh.g.idx ≠ 7 ∧ r = .k sh.g.idx.toNat)

/-- A register that a word writes through an operand. -/
def writesReg (sh : Shape) (r : RegId) : Prop :=
  r ∈ slotWrites sh.ds sh.d ∨ r ∈ slotWrites sh.as sh.a ∨ r ∈ slotWrites sh.bs sh.b ∨ r ∈ slotWrites sh.cs sh.c

/-- ILLEGAL_OPERAND with a detail. -/
def illOperand (d : Byte) : Option TrapInfo := some { cause := .illegalOperand, detail := d }

/-- Row 5 of R90 on one slot. -/
def slotRow (dc : Declared) (sp : SlotSpec) (o : Opnd) : Option TrapInfo :=
  match slotCheck dc sp o with
  | some x => illOperand x
  | none => none

end Sys2Proof.Claims

/-- R24, R30, R33, R68-R82, R85, R90: a word that fails a row of R90 raises that row's trap at itself and changes nothing
else: rows 1 to 6 and the range of a transfer before any wait, a register or stack target (row 7) once the waits are over; the
first failing row is the one that is raised. In a matrix stream the trap stops the stream. Row 8 is `CheckedMode`.
Where a clause rests on the model's own choice or inference and not on the spec's words, that is log 84. -/
def Sys2Proof.Claims.WordChecks : Prop :=
  (∀ i sh s w c t, wordShape i = some sh → Offers s w c → sh.check false (Rec.declared c.g.record) c.w.pc = some t →
    exec i s = .next (s.takeTrap w t c.w.pc)) ∧
  (∀ i sh s w c t, wordShape i = some sh → Offers s w c → sh.check false (Rec.declared c.g.record) c.w.pc = none →
    issueGate c.w.win sh = true → wordTarget c i = some t → exec i s = .next (s.takeTrap w t c.w.pc)) ∧
  (∀ i sh s w c, wordShape i = some sh → Offers s w c → sh.check false (Rec.declared c.g.record) c.w.pc = none →
    issueGate c.w.win sh = false → exec i s = .next s) ∧
  (∀ i sh s b k q g t, wordShape i = some sh → s.cur = some (.seq b) → s.seq? b = some (k, q) → s.grid? b.grid = some g →
    q.canIssue (s.clkOf (dieOfCore k.core)) = true → sh.check true (Rec.declared g.record) q.pc = some t →
    exec i s = .next (s.streamTrap b t q.pc)) ∧
  (∀ (sh : Shape) inSeq dc pc, sh.check inSeq dc pc =
    [ if (sh.stream = .warp ∧ inSeq = true) ∨ (sh.stream = .seq ∧ inSeq = false) then some { cause := .illegalOpcode, detail := 0x01 } else none,
      if guardOk sh.guard inSeq sh.g then none else illOperand 0x07,
      if hintsOk inSeq sh.lat sh.h then none else illOperand 0x06,
      if sh.modOk then none else illOperand 0x05,
      slotRow dc sh.ds sh.d, if sh.spBad then illOperand 0x02 else none,
      slotRow dc sh.as sh.a, slotRow dc sh.bs sh.b, slotRow dc sh.cs sh.c,
      if sh.ordOk then none else some { cause := .illegalOrder },
      sh.offs.bind (fun x => if jTargetOk pc x then none
        else some { cause := .illegalPc, detail := 0x01, addr := jTargetPc pc x }) ].findSome? id) ∧
  (∀ dc sp o, opndReserved o = true → slotCheck dc sp o = some 0x01) ∧
  (∀ dc (sp : SlotSpec) o cl, opndReserved o = false → opndCls o = some cl → cl ∈ sp.cls →
    slotCheck dc sp o = if countOk dc sp o then none else some 0x04) ∧
  (∀ dc (sp : SlotSpec) o cl, opndReserved o = false → opndCls o = some cl → sp.cls ≠ [] → cl ∉ sp.cls → slotCheck dc sp o = some 0x02) ∧
  (∀ dc (sp : SlotSpec) o, opndReserved o = false → opndCls o = none → sp.cls ≠ [] → sp.opt = false → slotCheck dc sp o = some 0x03) ∧
  (∀ dc (sp : SlotSpec) o cl, opndReserved o = false → opndCls o = some cl → cl ≠ .sp → sp.cls = [] → slotCheck dc sp o = some 0x03) ∧
  (∀ f s w c, Offers s w c → (shSwrite f).check false (Rec.declared c.g.record) c.w.pc = illOperand 0x02 →
    exec (.swrite f) s = .next (s.takeTrap w { cause := .illegalOperand, detail := 0x02 } c.w.pc))

/-- R30, R33, R90: row 8. In checked mode a word that reads a register whose newest result is not covered, or that writes one that
has such a result, raises UNDERSIZED_STALL at itself and changes nothing else.
Where a clause rests on the model's own choice or inference and not on the spec's words, that is log 84. -/
def Sys2Proof.Claims.CheckedMode : Prop :=
  (∀ i sh s w c, wordShape i = some sh → Offers s w c → sh.check false (Rec.declared c.g.record) c.w.pc = none →
    issueGate c.w.win sh = true → wordTarget c i = none → c.chk = true →
    ((∃ r, readsReg sh r ∧ c.w.win.badRead r = true) ∨ (∃ r, writesReg sh r ∧ c.w.win.badWrite r = true)) →
    ∃ d, coverage c.w.win sh = some d ∧ exec i s = .next (s.takeTrap w { cause := .undersizedStall, detail := d } c.w.pc))

/-! ### Results and completions of a warp's operations (R32, R33, R189, R198, R202, R203, R206, R229) -/

/-- R32: a counter falls in issue order on its path: exactly the performed operations at the front of each path are
retired, one whose data came back early (R33) only once it is performed to its end. -/
def Sys2Proof.Claims.PathCountersFallInOrder : Prop :=
  ∀ (ops : List Op) (p : Path),
    (retireGo [] ops).filter (fun o => o.path = p) = (ops.filter (fun o => o.path = p)).dropWhile (fun o => o.done && !o.early)

/-- R28-R31, R33: what a read of a register returns: the results that are covered and not expired, in order, over the
register file; a register that operations still counted have pending reads, slot by slot, as its value before them or as
the result of one that has landed. Checked mode counts a register as not to be read while a bit of it has its latest result
uncovered or an operation has it pending, and as not to be written while one has. -/
def Sys2Proof.Claims.WindowReads : Prop :=
  (∀ (wn : Win) v r, wn.readFrom v r =
    (wn.fly.filter (fun f => f.reg = r ∧ f.born + f.lat ≤ wn.nominal ∧ ¬(f.wo = true ∧ f.num + 8 < wn.num))).foldl
      (fun v f => merge f.mask v f.val) v) ∧
  (∀ (wn : Win) base c r, (∀ o ∈ wn.ops, o.done = true → ∀ p ∈ o.dst, p.1 ≠ r) → wn.read base c r = wn.readFrom (base r) r) ∧
  (∀ (wn : Win) base c r pre post o mask v, wn.ops = pre ++ o :: post → o.done = true → o.dst = [(r, mask)] →
    o.old = [(r, v)] → o.clob = [] → (∀ q ∈ pre ++ post, q.done = true → ∀ p ∈ q.dst, p.1 ≠ r) →
    (let after := wn.readFrom (base r) r
     let before := ({ wn with fly := o.oldFly } : Win).readFrom v r
     ∀ i, i < r.slots → wn.read base c r &&& r.slotMask i = after &&& r.slotMask i ∨
       wn.read base c r &&& r.slotMask i = merge mask after before &&& r.slotMask i)) ∧
  (∀ (wn : Win) base c r, wn.badRead r = false → wn.read base c r =
    (wn.fly.filter (fun f => f.reg = r ∧ ¬(f.wo = true ∧ f.num + 8 < wn.num))).foldl (fun v f => merge f.mask v f.val) (base r)) ∧
  (∀ (wn : Win) r, wn.uncovered r = true ↔ ∃ pre f post i, wn.fly = pre ++ f :: post ∧ f.reg = r ∧
    ¬(f.wo = true ∧ f.num + 8 < wn.num) ∧ wn.nominal < f.born + f.lat ∧ f.mask.getLsbD i = true ∧
    ∀ g ∈ post, g.reg = r → ¬(g.wo = true ∧ g.num + 8 < wn.num) → g.mask.getLsbD i = false) ∧
  (∀ (wn : Win) r, wn.badWrite r = true ↔ ∃ o ∈ wn.ops, ∃ p ∈ o.dst, p.1 = r) ∧
  (∀ (wn : Win) r, wn.badRead r = true ↔ wn.uncovered r = true ∨ wn.badWrite r = true)

/-- R32, R33, R171, R189, R190, R202, R206: each operation, when its time comes: a load's registers take the bytes
read, a store's lines are written, an atomic in a scratchpad leaves the new value and delivers the old, FIFO banks give and
take entries, an accumulator row is delivered.
Where a clause rests on the model's own choice or inference and not on the spec's words, that is log 8, 62, 82 and 86. -/
def Obligations.OperationsPerformed : Prop :=
  (∀ s w i b x o ps n d, Due s w i .g b x o → o.kind = .load ps n d → cleanDst o →
    o.kind.asks.all (s.askReady b.core o.scope (.op (.warp w) o.num)) = true →
    (let r := s.readAsks b.core o.scope o.cp.toNat (some w) (.op (.warp w) o.num) (orderBy (fun q => q.loc.rank) o.kind.asks)
     r.2.all (fun g => !g.poi) = true →
      ∃ t, exec (.loadDataReturn w i) s = .next t ∧ landed t w x o (loadVal o.kind r.2))) ∧
  (∀ s w i b x o ls, Due s w i .w b x o → o.kind = .store ls → cleanDst o → o.releases = false →
    (∀ l ∈ ls, (∀ d a, l.loc ≠ .peer d a)) → ls.all (s.putReady b.core o.scope (.op (.warp w) o.num)) = true →
    ∃ t, exec (.storePerformed (.warp w) i) s = .next t ∧ landed t w x o (fun _ => 0) ∧
      t.mem = ((orderBy (fun p => p.loc.rank) ls).foldl (fun s p => s.putHere b w o o.scope p) s).mem) ∧
  (∀ s w i b x o p val cmp sub ty d k off, Due s w i .a b x o → o.kind = .atom [⟨p, val, cmp⟩] sub ty false (some d) →
    cleanDst o → o.releases = false → s.outOf (.op (.warp w) o.num) = [] → p.loc = .scratch k off → ∀ kb, s.block? k = some kb →
    ∃ t kb1, exec (.atomicComplete w i) s = .next t ∧ t.block? k = some kb1 ∧
      (let old := kb.snat off (tyBytes ty)
       kb1.scratch = (kb.sput off (bytesLE (tyBytes ty) (atomOp sub ty old (val.toNat % 2 ^ tyW ty)))).scratch ∧
       landed t w x o (atomVal d [(p.lane, old)]))) ∧
  (∀ s w i b x o f d m e rest, Due s w i .s b x o → o.kind = .fifoPop f d m → cleanDst o → b.fifo f = e :: rest →
    ∃ t b1, exec (.scratchOpComplete (.warp w) i) s = .next t ∧ t.block? w.blockId = some b1 ∧ b1.fifo f = rest ∧
      landed t w x o (fun _ => e &&& laneBits m)) ∧
  (∀ s w i b x o f e, Due s w i .s b x o → o.kind = .fifoPush f e → o.dst = [] → f < b.fifos.length → (b.fifo f).length < 256 →
    ∃ t b1, exec (.scratchOpComplete (.warp w) i) s = .next t ∧ t.block? w.blockId = some b1 ∧ b1.fifo f = b.fifo f ++ [e] ∧
      landed t w x o (fun _ => 0)) ∧
  (∀ s w i b x o f d m, Due s w i .s b x o → o.kind = .fifoPop f d m → b.fifo f = [] →
    exec (.scratchOpComplete (.warp w) i) s = .next s) ∧
  (∀ s b x o tile row d m, s.warp? s.on.w = some (b, x) → x.win.ops.find? (fun o => o.path == .m) = some o → o.done = false → o.early = false →
    o.kind = .accrd tile row d m → cleanDst o →
    ∃ t, exec .pathMComplete s = .next t ∧ landed t s.on.w x o (fun _ => b.accRow tile row)) ∧
  (∀ s w i b x g o f d m, s.warp? w = some (b, x) → s.grid? w.grid = some g → x.win.ops[i]? = some o → o.done = false →
    o.kind = .fifoPop f d m → o.clk + Rec.tb g.record ≤ s.clkOf (dieOfCore b.core) → x.inTrap = false →
    ∃ t b1 x1, exec (.fifoWaitTimeout w i) s = .next t ∧ t.warp? w = some (b1, x1) ∧
      (∃ p ∈ x1.pend, p.info.cause = .fifoMisuse ∧ p.info.detail = 0x02 ∧ p.info.addr = o.pc ∧ p.fpc = o.pc) ∧
      (∀ r : RegId, r.ofWarp = true → x1.base r = x.base r))

/-- R81, R83, R212, R227, R274, R276: the boundary of a warp's instructions: a fetch fills the code block of the PC, a
pending trap is taken, a serviced warp issues again, and the time-outs of barriers end waits with FLAG.
Where a clause rests on the model's own choice or inference and not on the spec's words, that is log 13, 26, 74 and 93. -/
def Obligations.InstructionBoundary : Prop :=
  (∀ s w b x g pa d e, s.warp? w = some (b, x) → s.grid? w.grid = some g → x.canIssue (s.clkOf (dieOfCore b.core)) = true →
    x.frame = [] → s.route g.ctx x.pc .fetch = .heap pa → s.locked (pa / 128) = false →
    s.pocRead? (dieOfCore b.core) (pa / 128) (BitVec.allOnes 128) false = some (d, e, false) →
    ∃ t b1, exec (.instructionFetchReturn (.warp w)) s = .next t ∧
      t.warp? w = some (b1, { x with ibuf := some (x.pc.toNat / 128, d) }) ∧ t.mem = s.mem) ∧
  (∀ s b x p, s.warp? s.on.w = some (b, x) → x.trapDue (s.clkOf (dieOfCore b.core)) = true → x.due = some p →
    exec .pendingTrapTaken s = .next ((s.setWarp s.on.w (fun x => { x with pend := x.pend.erase p })).takeTrap s.on.w p.info
      (if p.row1 then p.tpc else x.pc) p.row1 p.fpc)) ∧
  (∀ s b x u, s.warp? s.on.w = some (b, x) → x.susp = some u → u.serviced = true → x.running = true → x.held = false →
    ∃ t b1, exec .warpReissue s = .next t ∧ t.warp? s.on.w = some (b1, { x with susp := none })) ∧
  (∀ s b n k, s.block? b = some k → n < k.bars.length → (k.bar n).begun = true → (k.bar n).torem = 0 →
    (s.die (dieOfCore k.core)).clocked = true →
    ∃ t k1, exec (.barrierTimeout (.numbered b n)) s = .next t ∧ t.block? b = some k1 ∧ (k1.bar n).fallen = true) ∧
  (∀ s b x o p, s.warp? s.on.w = some (b, x) → x.wait = some (.object o p 0) → x.inTrap = false → x.held = false →
    (s.die (dieOfCore b.core)).clocked = true →
    exec .bowaitTimeout s = .next ((s.countPm b.core 0x06 1).takeTrap s.on.w
      { cause := .flag, detail := BitVec.ofNat 8 (b2n p + 6), addr := BitVec.ofNat 64 o } (nextPc x.pc) false 0
      (some (diagObject b o))))


/-! ### Engines, the matrix array and the merge of partials -/

namespace Sys2Proof.Claims

/-- Operation `o` is the oldest kick of warp `w` on a path, its status register `S[d]` pending, and no scratchpad access that
its waits order before it is still to be performed (R215, R295). -/
structure Kicked (s : State) (w : WarpId) (p : Path) (b : Block) (x : Warp) (g : Grid) (o : Op) (d : Nat) : Prop where
  warp : s.warp? w = some (b, x)
  grid : s.grid? w.grid = some g
  first : s.firstOp (.warp w) p = some o
  free : s.kickSynced (.warp w) o = false
  dst : o.dst = sPend d 1
  clob : o.clob = []

/-- The kick ends with status `st`. -/
def Answers (i : Instr) (s : State) (w : WarpId) (x : Warp) (o : Op) (st : Byte) : Prop :=
  ∃ t, exec i s = .next t ∧ landed t w x o (fun _ => st.setWidth 1024)

/-- The request at `off` of block `b` for the copy engine: what R217 to R219 ask of it. -/
def copyGood (b : Block) (nbobj sb off : Nat) : Prop :=
  let w := b.snat off 4
  let ss := 64 * b.snat (off + 4) 2
  let ds := 64 * b.snat (off + 6) 2
  let conv := field w 0 4
  let f := (elemOfCode (field w 4 3)).getD .e4m3
  let u := if f.width = 6 then 384 else 128
  let src := b.snat (off + 8) 8
  let dst := b.snat (off + 16) 8
  let s := shapeOf b ss
  let d := shapeOf b ds
  field w 7 1 = 0 ∧ field w 16 16 = 0 ∧ b.snat (off + 32) 32 = 0 ∧ conv ≤ 3 ∧ (conv ≠ 0 → field w 4 3 ≤ 5) ∧
    (conv ≤ 1 → b.snat (off + 24) 8 = 0) ∧ ss + 64 ≤ sb ∧ ds + 64 ≤ sb ∧ s.rsv = false ∧ d.rsv = false ∧
    s.ok = true ∧ d.ok = true ∧ s.total = d.total ∧
    (conv = 1 → s.lineSide u src = true ∧ d.lineSide u dst = true) ∧
    (conv = 2 → s.dense f = true ∧ d.lineSide u dst = true) ∧
    (conv = 3 → s.lineSide u src = true ∧ d.dense f = true) ∧
    (field w 8 8 = 0xFF ∨ field w 8 8 < nbobj)

/-- The request at `off` for the gather/scatter engine (R221). -/
def gatherGood (b : Block) (nbobj off : Nat) (hbm : DWord → Bool) : Prop :=
  let w := b.snat off 4
  let rowb := b.snat (off + 4) 2
  field w 1 7 = 0 ∧ field w 16 16 = 0 ∧ b.snat (off + 6) 2 = 0 ∧ b.snat (off + 12) 4 = 0 ∧ b.snat (off + 48) 16 = 0 ∧
    1 ≤ rowb ∧ rowb ≤ 4096 ∧ rowb % 32 = 0 ∧ 1 ≤ b.snat (off + 8) 4 ∧ (field w 8 8 = 0xFF ∨ field w 8 8 < nbobj) ∧
    hbm (BitVec.ofNat 64 (b.snat (off + 16) 8)) = true

/-- The bytes of a request that an engine reads. -/
def copyAsks (b : Block) (off : Nat) : List Ask :=
  [scratchAsk b.id off 64, scratchAsk b.id (64 * b.snat (off + 4) 2) 64, scratchAsk b.id (64 * b.snat (off + 6) 2) 64]

/-- A `LAUNCH` of record `va` on queue `q` may be read: what the warp did before it is performed at `.dev`, in the state
`s1` (R361). -/
def launchReady (s : State) (w : WarpId) (b : Block) (x : Warp) (o : Op) (q : BitVec 6) (s1 : State) : Prop :=
  (∀ p ∈ x.win.ops, p.num < o.num → p.kind.isLsu = true → p.done = true) ∧ s.releaseLocked b.core w = false ∧
    s.launchBefore w b.core o q = false ∧ s1 = (s.reddDrain w).releaseWb b.core w ∧ s1.noSpills w = true ∧
    s1.settled (dieOfCore b.core) false = true

end Sys2Proof.Claims

/-- R214-R219, R221, R361, R391: the oldest kick on path C or F ends with its status: a refused one with its code; `CPYK` and
`GSK` with 0x00 and their operation on the engine's list, with the fields of the request, exactly where the request is good;
`LAUNCH` with 0x00 and its record in the queue's slot TAIL under that slot's LAP, or with the first code that applies;
`COLK` with its plan listed or its code; a Rook operation on a region of this device is handed to it. -/
def Sys2Proof.Claims.KicksAnswered : Prop :=
  (∀ s w b x g o st d, Kicked s w .c b x g o d → o.kind = .kick (.refused st) (some (.s d)) →
    Answers (.engineRequestRead (.warp w)) s w x o st) ∧
  (∀ s w b x g o off d st e, Kicked s w .c b x g o d → o.kind = .kick (.copy off) (some (.s d)) →
    x.win.touches o (copyAsks b off) = false → s.copies b.core < 64 →
    checkCopy b (Rec.nbobj g.record) (Rec.scrb g.record) off s.nextEng = (st, e) →
    ∃ t, exec (.engineRequestRead (.warp w)) s = .next t ∧ landed t w x o (fun _ => st.setWidth 1024) ∧
      t.eng = s.eng ++ e.toList) ∧
  (∀ s w b x g o off d st e, Kicked s w .c b x g o d → o.kind = .kick (.gather off) (some (.s d)) →
    x.win.touches o [scratchAsk b.id off 64] = false →
    checkGather b (Rec.nbobj g.record) off s.nextEng (s.inHbm g.ctx) = (st, e) →
    ∃ t, exec (.engineRequestRead (.warp w)) s = .next t ∧ landed t w x o (fun _ => st.setWidth 1024) ∧
      t.eng = s.eng ++ e.toList) ∧
  (∀ b nb sb off id, (checkCopy b nb sb off id).1 = 0 ↔ copyGood b nb sb off) ∧
  (∀ b nb sb off id st e, checkCopy b nb sb off id = (st, some e) → st = 0 ∧ e.id = id ∧ e.block = b.id ∧ e.core = b.core ∧
    e.gather = false ∧ e.conv = field (b.snat off 4) 0 4 ∧ e.bobj = field (b.snat off 4) 8 8 ∧
    e.total = (shapeOf b (64 * b.snat (off + 4) 2)).total ∧ e.src.toNat = b.snat (off + 8) 8 ∧
    e.dst.toNat = b.snat (off + 16) 8 ∧ e.scl.toNat = b.snat (off + 24) 8 ∧ e.next = 0) ∧
  (∀ b nb off id hbm, (checkGather b nb off id hbm).1 = 0 ↔ gatherGood b nb off hbm) ∧
  (∀ b nb off id hbm st e, checkGather b nb off id hbm = (st, some e) → st = 0 ∧ e.id = id ∧ e.block = b.id ∧
    e.core = b.core ∧ e.gather = true ∧ e.bobj = field (b.snat off 4) 8 8 ∧ e.dir = b.snat off 4 % 2 ∧
    e.rowb = b.snat (off + 4) 2 ∧ e.total = b.snat (off + 8) 4 * b.snat (off + 4) 2 ∧ e.src.toNat = b.snat (off + 16) 8 ∧
    e.pitch.toNat = b.snat (off + 24) 8 ∧ e.idx.toNat = b.snat (off + 32) 8 ∧ e.dst.toNat = b.snat (off + 40) 8 ∧ e.next = 0) ∧
  (∀ s w b x g o va q d s1, Kicked s w .c b x g o d → o.kind = .kick (.launch va q) (some (.s d)) →
    launchReady s w b x o q s1 →
    (let qu := s1.queue q.toNat
     (s1.slotStatus q.toNat ≠ 0 → Answers (.engineRequestRead (.warp w)) s w x o (s1.slotStatus q.toNat)) ∧
     (s1.slotStatus q.toNat = 0 → ∀ s2, s1.kickPlace b g.ctx va .read = (s2, .refused) →
       Answers (.engineRequestRead (.warp w)) s w x o 0x22) ∧
     (s1.slotStatus q.toNat = 0 → ∀ s2 pa, s1.kickPlace b g.ctx va .read = (s2, .at_ pa) → s2.atPeer (pa / 128) = false →
       s2.lineBusy (pa / 128) = false → s2.slotBusy q.toNat = false → s2.poisoned (pa / 128) = false →
       (let r := (s2.homeRead (pa / 128)).1
        (Rec.rkr r = true → Answers (.engineRequestRead (.warp w)) s w x o 0x23) ∧
        (Rec.rkr r = false → s2.lost (qu.slotPa qu.tail.toNat / 128) = false → nothingComing s2 → s2.queue q.toNat = qu →
          ∃ t, exec (.engineRequestRead (.warp w)) s = .next t ∧ landed t w x o (fun _ => 0) ∧
            (t.queue q.toNat).tail = qu.tail + 1 ∧ (t.queue q.toNat).head = qu.head ∧
            lineOf t.mem (qu.slotPa qu.tail.toNat / 128) = recWithLap r (lapOf qu.qlog.toNat qu.tail.toNat)))))) ∧
  (∀ (s : State) n, (s.queue n).qstate = 0 ∨ (s.queue n).disabling = true ∨ (s.queue n).devq = false → s.slotStatus n = 0x20) ∧
  (∀ (s : State) n, (s.queue n).qstate ≠ 0 → (s.queue n).disabling = false → (s.queue n).devq = true →
    s.slotStatus n = if 2 ^ (s.queue n).qlog.toNat ≤ ((s.queue n).tail - (s.queue n).head).toNat then 0x21 else 0) ∧
  (∀ (r : VReg) lap i, (recWithLap r lap).getLsbD i = if i = 0 then lap else r.getLsbD i) ∧
  (∀ s w b x g o st d ps, Kicked s w .f b x g o d → o.kind = .kick (.refused st) (some (.s d)) →
    Answers (.fabricAnswer w ps) s w x o st) ∧
  (∀ s w b x g o va d ps sA p0 sB p1 r e hi e1, Kicked s w .f b x g o d → o.kind = .kick (.coll va) (some (.s d)) →
    s.kickPlace b g.ctx va .read = (sA, .at_ p0) → sA.kickPlace b g.ctx (va + 128) .read = (sB, .at_ p1) →
    sB.locked (p0 / 128) = false → sB.locked (p1 / 128) = false →
    x.win.touches o ([p0, p1].map (fun p => { va := va, loc := (Loc.mem p).base, mask := BitVec.allOnes 128, side := false })) = false →
    (let s1 := (sB.planWb b.core p0).planWb b.core p1
     let c := dieOfCore b.core
     s1.pocRead? c (p0 / 128) (BitVec.allOnes 128) false = some (r, e, false) →
     s1.pocRead? c (p1 / 128) (BitVec.allOnes 128) false = some (hi, e1, false) →
     (let st := PlanF.check r hi ((s1.fab.plans.filter (fun p => p.die == c)).length)
      ∃ t, exec (.fabricAnswer w ps) s = .next t ∧ landed t w x o (fun _ => st.setWidth 1024) ∧
        t.fab.plans = s1.fab.plans ++ (if st = 0 then [{ id := s1.fab.nextPlan, die := c, grid := w.grid, bytes := r }] else [])))) ∧
  (∀ s w b x g o va ls tag d ps, Kicked s w .f b x g o d →
    (o.kind = .kick (.rkput va ls tag) (some (.s d)) ∨ o.kind = .kick (.rkget va ls tag) (some (.s d))) →
    s.fab.rookOwn.find? (fun r => r.w == w && r.num == o.num) = none → s.outOf (.op (.warp w) o.num) = [] →
    x.win.touches o [scratchAsk b.id tag 32] = false →
    ((tagOf b tag).bad = true → Answers (.fabricAnswer w ps) s w x o 0x01) ∧
    ((tagOf b tag).bad = false → (tagOf b tag).dev = s.fab.fabid.toNat →
      ∃ t, exec (.fabricAnswer w ps) s = .next t ∧ t.fab.rookOwn = s.fab.rookOwn ++ [{ w := w, num := o.num }] ∧
        t.warp? w = some (b, x))) ∧
  (∀ s w b x g o va ls tag d ps r st, Kicked s w .f b x g o d →
    (o.kind = .kick (.rkput va ls tag) (some (.s d)) ∨ o.kind = .kick (.rkget va ls tag) (some (.s d))) →
    s.fab.rookOwn.find? (fun r => r.w == w && r.num == o.num) = some r → r.status = some st →
    Answers (.fabricAnswer w ps) s w x o st)

namespace Sys2Proof.Claims

/-- Element (i, j) of the tile in progress after the block sums of row `ra` of tile `ta` of A over blocks `bs`, in their
order, each added with one rounding (R63, R65, R241). -/
def elemAfter (v : Block) (r : MmaRun) (ta ra j : Nat) (bs : List Nat) (t : Word) : Word :=
  BitVec.ofNat 32 (bs.foldl (fun t n =>
    let a := v.operand (descOf r.dA) r.fa ta ra n
    let b := v.operand (descOf r.dB) r.fb (r.tile % r.tn) j n
    (fadd fp32 .rne (fdecode fp32 t) (fdecode fp32 (blockSum (a.1.zip b.1) a.2 b.2))).bits) t.toNat)

end Sys2Proof.Claims

/-- R63-R65, R234-R236, R241, R242, R257: a turn of the array adds the block sums of its blocks, ascending, to each element
of the tile in progress and leaves every other tile; `MMAG` adds its listed rows with the tile's last turn; a block sum is
the canonical NaN, an infinity or one rounding of the exact sum; a tile's write ends.
Where a clause rests on the model's own choice or inference and not on the spec's words, that is log 24. -/
def Sys2Proof.Claims.ArrayTurns : Prop :=
  (∀ s b k q r, s.seq? b = some (k, q) → s.on.block = b → q.run = some r → q.stopped = false →
    (s.die (dieOfCore k.core)).clocked = true → s.clkOf (dieOfCore k.core) % 4 = k.slot → r.ready ≤ s.clkOf (dieOfCore k.core) →
    ∃ t k1 q1, exec .matrixTurn s = .next t ∧ t.seq? b = some (k1, q1) ∧ k1.acc = (k.addTurn (k.seqView s.freeCtr) r).acc ∧
      q1 = q.afterTurn r (s.clkOf (dieOfCore k.core)) ∧ t.mem = s.mem) ∧
  (∀ (k : Block) c, k.unseen = [] → k.seqView c = k) ∧
  (∀ (k v : Block) (r : MmaRun) i j, r.gather = false → i < 32 → j < 32 →
    lane ((k.addTurn v r).accRow r.tileNo i) j =
      elemAfter v r (r.tile / r.tn) i j (r.blocksAt r.turn) (lane (k.accRow r.tileNo i) j)) ∧
  (∀ (k v : Block) (r : MmaRun) i j, r.gather = true → (∀ p ∈ r.rows, p.2.1 < 32) → i < 32 → j < 32 →
    lane ((k.addTurn v r).accRow r.tileNo i) j =
      if r.turn + 1 < r.turns then lane (k.accRow r.tileNo i) j
      else (r.rows.filter (fun p => p.2.1 == i && !p.2.2)).foldl (fun t p => elemAfter v r 0 p.1 j (List.range r.kb) t)
        (lane (k.accRow r.tileNo i) j)) ∧
  (∀ (k v : Block) (r : MmaRun) t i, (∀ p ∈ r.rows, p.2.1 < 32) → i < 32 → t ≠ r.tileNo →
    (k.addTurn v r).accRow t i = k.accRow t i) ∧
  (∀ ab sA sB, sA = 0xFF ∨ sB = 0xFF ∨ (∃ p ∈ ab, p.1.isNan = true ∨ p.2.isNan = true) →
    blockSum ab sA sB = 0x7FC00000) ∧
  (∀ ab sA sB, (∃ p ∈ ab, (p.1.isInf = true ∧ p.2.isZero = true) ∨ (p.1.isZero = true ∧ p.2.isInf = true)) ∨
      (∃ p ∈ ab, ∃ q ∈ ab, (fprod p.1 p.2) = .inf true ∧ (fprod q.1 q.2) = .inf false) →
    blockSum ab sA sB = 0x7FC00000) ∧
  (∀ ab sA sB n, sA ≠ 0xFF → sB ≠ 0xFF → (∀ p ∈ ab, p.1.isNan = false ∧ p.2.isNan = false) →
    (∃ p ∈ ab, fprod p.1 p.2 = .inf n) → (∀ p ∈ ab, fprod p.1 p.2 ≠ .inf (!n) ∧ (fprod p.1 p.2).isNan = false) →
    blockSum ab sA sB = if n then 0xFF800000 else 0x7F800000) ∧
  (∀ ab sA sB, sA ≠ 0xFF → sB ≠ 0xFF → (∀ p ∈ ab, p.1.isNan = false ∧ p.2.isNan = false ∧ p.1.isInf = false ∧ p.2.isInf = false) →
    blockSum ab sA sB = (fsum fp32 .rne (ab.all (fun p => (p.1.sign != p.2.sign) && (p.1.isZero || p.2.isZero)))
      (ab.map (fun p => (p.1.sign != p.2.sign, p.1.tri.2.1 * p.2.tri.2.1, p.1.tri.2.2 + p.2.tri.2.2 + sA + sB - 254)))).bits) ∧
  (∀ n, blockSum ([(.fin false 1 24, .fin false 1 0), (.fin false 1 0, .fin false 1 0), (.fin true 1 24, .fin false 1 0)] ++
    List.replicate n (.fin false 0 0, .fin false 0 0)) 127 127 = 0x3F800000) ∧
  [0x4B800000, 0x3F800000, 0x3F800000].foldl accAdd 0 = 0x4B800000 ∧
  (∀ s b k q tile, s.seq? b = some (k, q) → q.ending = false →
    ∃ t k1 q1, exec (.tileWriteComplete b tile) s = .next t ∧ t.seq? b = some (k1, q1) ∧
      q1.busy = q.busy.filter (fun y => y.tile != tile || y.pending (s.clkOf (dieOfCore k.core))) ∧ k1.acc = k.acc)

/-- R208, R313: once a grid's blocks are gone, a slice takes the partials staged for the grid and leaves at each of their
addresses the value there combined with them in ascending order of (die, core, quadrant, block, warp).
Where a clause rests on the model's own choice or inference and not on the spec's words, that is log 105. -/
def Sys2Proof.Claims.PartialsMerged : Prop :=
  (∀ s g gr slice, s.grid? g = some gr → s.blocksGone gr = true → gr.recover = false → Rec.rbk gr.record = false →
    s.castle.moves = [] → s.poison = [] → nothingComing s →
    (∀ p ∈ s.mergeOf g slice, s.locked (p.pa / 128) = false ∧ s.parked? (p.pa / 128) = false ∧ s.lost (p.pa / 128) = false ∧
      p.pa % tyBytes p.ty = 0) →
    ∃ t, exec (.reddMerge g slice) s = .next t ∧ t.staged = s.staged.filter (fun p => !(p.mine g slice)) ∧
      (∀ p ∈ s.mergeOf g slice,
        (∀ q ∈ s.mergeOf g slice, (q.pa = p.pa → q.ty = p.ty) ∧
          (q.pa ≠ p.pa → q.pa + tyBytes q.ty ≤ p.pa ∨ p.pa + tyBytes p.ty ≤ q.pa)) →
        t.natAt p.pa (tyBytes p.ty) =
          (((s.mergeOf g slice).foldl (fun l p => insertStaged p l) []).filter (fun q => q.pa == p.pa)).foldl
            (fun x q => atomOp q.op q.ty x q.val.toNat % 2 ^ (8 * tyBytes q.ty)) (s.natAt p.pa (tyBytes p.ty))) ∧
      (∀ a, (∀ p ∈ s.mergeOf g slice, a < p.pa ∨ p.pa + tyBytes p.ty ≤ a) → t.byte a = s.byte a)) ∧
  (∀ (x y : Staged) (l : List Staged), x.before y = true → insertStaged x (y :: l) = x :: y :: l) ∧
  (∀ (x y : Staged) (l : List Staged), x.before y = false → insertStaged x (y :: l) = y :: insertStaged x l) ∧
  (∀ x y z : Staged, x.before y = true → y.before z = true → x.before z = true) ∧
  (∀ x y : Staged, x.before y = true ↔ Prod.Lex (· < ·) (Prod.Lex (· < ·) (Prod.Lex (· < ·) (Prod.Lex (· < ·) (· < ·))))
    (x.die, x.core, x.quadrant, x.block, x.warp) (y.die, y.core, y.quadrant, y.block, y.warp))

/-- R63-R65, R208, R214-R219, R221, R234-R236, R241, R242, R313, R361: engines answer the oldest kick, the array adds its
turns' block sums, and a slice merges a grid's staged partials.
Where a clause rests on the model's own choice or inference and not on the spec's words, that is log 24, 105 and 113. -/
def Obligations.EnginesAndArray : Prop := KicksAnswered ∧ ArrayTurns ∧ PartialsMerged

/-! ### The fault queue and the TLB flush (R276, R277, R317, R376-R378) -/

/-- R276, R277, R376-R378: the oldest record goes to its slot with its sequence number while the ring has room; an answer
serves or rejects the agent that waits for that number, or reports that none does; a flush removes the entries that it
selects from every core and ends when nothing that they translated is outstanding.
Where a clause rests on the model's own choice or inference and not on the spec's words, that is log 27. -/
def Sys2Proof.Claims.FaultAnswers : Prop :=
  (∀ s r rest, s.fq.pending = r :: rest → s.fq.hasRoom = true →
    (let n := s.fq.fqtail
     let pa := s.fq.fqbase.toNat + 64 * (n.toNat % 2 ^ s.fq.fqlog.toNat)
     pa % 64 = 0 → s.lost (pa / 128) = false → nothingComing s → s.locked (pa / 128) = false → s.parked? (pa / 128) = false →
     ∃ t, exec .faultRecordWrite s = .next t ∧ t.fq.fqtail = n + 1 ∧ t.fq.pending = rest ∧
       t.fq.waiting = (if r.waiter = .nobody then s.fq.waiting else s.fq.waiting ++ [(n, r)]) ∧
       t.natAt pa 64 = natLE (r.toBytes n) ∧ (∀ a, (a < pa ∨ pa + 64 ≤ a) → t.byte a = s.byte a))) ∧
  (∀ s, s.fq.pending ≠ [] → s.fq.hasRoom = false → exec .faultRecordWrite s = .next s) ∧
  (∀ s p w b x u, heard s → s.fq.waiting.find? (fun p => p.1 == s.fq.ansseq) = some p → p.2.waiter = .warp w →
    s.warp? w = some (b, x) → x.susp = some u →
    ∃ t b1 x1, exec .faultAnswerService s = .next t ∧ t.fq.ares = 0 ∧
      t.fq.waiting = s.fq.waiting.filter (fun q => q.1 != p.1) ∧ t.warp? w = some (b1, x1) ∧
      x1.susp = some { u with serviced := true } ∧ x1.pc = x.pc ∧ t.mem = s.mem) ∧
  (∀ s p w b x u, heard s → s.fq.waiting.find? (fun p => p.1 == s.fq.ansseq) = some p → p.2.waiter = .warp w →
    s.warp? w = some (b, x) → x.susp = some u → u.release = none → u.at_ = none →
    exec .faultAnswerReject s = .next (((s.setFq (fun q => { q with ares := 0, waiting := q.waiting.filter (fun x => x.1 != p.1) })).setWarp
      w (fun x => { x with susp := none })).takeTrap w { cause := u.cause, detail := u.detail, addr := u.addr } x.pc)) ∧
  (∀ s, heard s → s.fq.waiting.find? (fun p => p.1 == s.fq.ansseq) = none →
    exec .faultAnswerService s = .next (s.setFq (fun q => { q with ares := 1 })) ∧
    exec .faultAnswerReject s = .next (s.setFq (fun q => { q with ares := 1 }))) ∧
  (∀ s, heard s → s.fq.flush = none → ∃ t, exec .tlbFlushContext s = .next t ∧ t.fq.flush.isSome = true ∧ t.mem = s.mem ∧
    (∀ k ∈ t.cores, ∀ e ∈ k.tlb, e.ctx ≠ s.fq.tfctx.toNat) ∧ t.blocks = s.blocks ∧ t.cores.length = s.cores.length) ∧
  (∀ s, heard s → s.fq.flush = none → ∃ t, exec .tlbFlushPage s = .next t ∧ t.fq.flush.isSome = true ∧ t.mem = s.mem ∧
    (∀ k ∈ t.cores, ∀ e ∈ k.tlb, e.ctx = s.fq.tfctx.toNat →
      ¬(e.page ≤ s.fq.tfva.toNat ∧ s.fq.tfva.toNat < e.page + e.size)) ∧
    (∀ (i : Nat) (k : Core), s.cores[i]? = some k → ∃ k1 : Core, t.cores[i]? = some k1 ∧ ∀ e ∈ k.tlb, (e.ctx ≠ s.fq.tfctx.toNat ∨
      ¬(e.page ≤ s.fq.tfva.toNat ∧ s.fq.tfva.toNat < e.page + e.size)) → e ∈ k1.tlb)) ∧
  (∀ s f, s.fq.flush = some f → s.flushHeld f = false →
    ∃ t, exec .tlbFlushDone s = .next t ∧ t.fq.flush = none ∧ t.mem = s.mem ∧ t.blocks = s.blocks) ∧
  (∀ s f, s.fq.flush = some f → s.flushHeld f = true → exec .tlbFlushDone s = .next s)

/-! ### Address translation (R327, R369-R374, R379, R383) -/

namespace Sys2Proof.Claims

/-- The 8 bytes of a walk's entry at level `lv` of the table at `t`, at their address. -/
def entryAddr (g : DWord) (lv t : Nat) : Nat :=
  t + 8 * (match lv with
    | 0 => field g.toNat 48 9 | 1 => field g.toNat 39 9 | 2 => field g.toNat 30 9 | 3 => field g.toNat 21 9
    | _ => field g.toNat 16 5)

/-- Bytes of a page whose leaf lies at a level. -/
def pageBytes (lv : Nat) : Nat := match lv with
  | 2 => 2 ^ 30 | 3 => 2 ^ 21 | _ => 2 ^ 16

/-- An entry that R370 calls malformed. -/
def malformed (e lv : Nat) : Prop :=
  e.testBit 7 = true ∨ field e 57 7 ≠ 0 ∨
    (e.testBit 1 = true ∧ (lv < 2 ∨ field e 5 2 = 3 ∨ (field e 5 2 ≠ 1 ∧ field e 47 10 ≠ 0) ∨
      (field e 5 2 ≠ 2 ∧ (256 * field e 8 39) % pageBytes lv ≠ 0))) ∨
    (e.testBit 1 = false ∧ (lv = 4 ∨ field e 2 5 ≠ 0 ∨ field e 47 10 ≠ 0 ∨
      (256 * field e 8 39) % (if lv = 3 then 256 else 4096) ≠ 0))

/-- A translation fault of the address, and a denial of an access to it. -/
def noPlace (g : DWord) (d : Byte) : TrapInfo := { cause := .translation, detail := d, addr := g }
def denied (g : DWord) (acc : Acc) : TrapInfo :=
  { cause := .permission, addr := g, detail := match acc with
    | .read => 0x06 | .write => 0x07 | .atomic => 0x07 | .fetch => 0x08 }

end Sys2Proof.Claims

/-- R327, R369-R374, R379, R383: the route of an address: reserved bits, the scratchpad window, an invalid context, the heap with
its permissions, then the page tables; the walk, entry by entry, with each of its faults; a hit in the TLB, which denies an access
only after one re-walk; the place that a leaf gives; a write of a line that holds a leaf removes its entries from every core. -/
def Sys2Proof.Claims.Translation : Prop :=
  (∀ (s : State) core ctx blk sb (g : DWord) n acc,
    (let c := s.context ctx
     let off := g.toNat - 0x01FFFFFFFF800000
     let heap : Prop := c.hbase.toNat ≤ g.toNat ∧ g.toNat < c.hbase.toNat + c.hlim.toNat
     let inside : Prop := 0x01FFFFFFFF800000 ≤ g.toNat
     (2 ^ 57 ≤ g.toNat → s.xlat core ctx blk sb g n acc = (s, .error (noPlace g 0x05))) ∧
     (g.toNat < 2 ^ 57 → inside → off + n ≤ sb → s.xlat core ctx blk sb g n acc = (s, .ok (.scratch blk off))) ∧
     (g.toNat < 2 ^ 57 → inside → sb < off + n →
       s.xlat core ctx blk sb g n acc = (s, .error { cause := .permission, detail := 0x01, addr := g })) ∧
     (g.toNat < 2 ^ 57 → ¬inside → c.cvalid = false → s.xlat core ctx blk sb g n acc = (s, .error (noPlace g 0x07))) ∧
     (g.toNat < 2 ^ 57 → ¬inside → c.cvalid = true → heap → s.xlat core ctx blk sb g n acc =
       (s, if (match acc with
           | .read => c.hrd | .write => c.hwr | .atomic => c.hrd && c.hwr | .fetch => c.hex) = true
         then .ok (.mem ((g.toNat + c.hofs.toNat) % 2 ^ 64)) else .error (denied g acc))) ∧
     (g.toNat < 2 ^ 57 → ¬inside → c.cvalid = true → ¬heap → s.xlat core ctx blk sb g n acc = s.tableXlat core ctx g acc))) ∧
  (∀ (s : State) ctx g, (s.context ctx).ptroot = 0 → s.walk ctx g = .error (noPlace g 0x0A)) ∧
  (∀ (s : State) ctx g, (s.context ctx).ptroot ≠ 0 → s.walk ctx g = s.walkFrom g 5 0 (s.context ctx).ptroot.toNat) ∧
  (∀ (s : State) g lv t, lv ≤ 4 →
    (let ea := entryAddr g lv t
     let e := s.readNat ea 8
     let r := s.walkFrom g (5 - lv) lv t
     s.lineBusy (ea / 128) = false →
     (s.poisoned (ea / 128) = true → r = .error (noPlace g 0x08)) ∧
     (s.poisoned (ea / 128) = false →
       (e.testBit 0 = false → r = .error (noPlace g (BitVec.ofNat 8 lv))) ∧
       (e.testBit 0 = true → malformed e lv → r = .error (noPlace g 0x06)) ∧
       (e.testBit 0 = true → ¬malformed e lv →
         (e.testBit 1 = false → r = s.walkFrom g (5 - (lv + 1)) (lv + 1) (256 * field e 8 39)) ∧
         (e.testBit 1 = true →
           (let own : Prop := field e 5 2 = 0 ∨ (field e 5 2 = 1 ∧ field e 47 10 = s.fab.fabid.toNat)
            (own → tierOf (256 * field e 8 39) = none → r = .error (noPlace g 0x09)) ∧
            (field e 5 2 = 2 → (∀ m ∈ s.castle.moves, m.rec_ ≠ 256 * field e 8 39) → r = .error (noPlace g 0x06)) ∧
            ((own → (tierOf (256 * field e 8 39)).isSome = true) →
              (field e 5 2 = 2 → ∃ m ∈ s.castle.moves, m.rec_ = 256 * field e 8 39) → r = .ok ⟨e, ea, lv⟩))))))) ∧
  (∀ (s : State) core ctx (g : DWord) acc e, (s.core core).tlbHit ctx g.toNat = some e → core < s.cores.length →
    (pteAllows e.pte.toNat acc = true → ∃ t, s.tableXlat core ctx g acc = (t, .ok (e.at_.plus (g.toNat - e.page))) ∧ t.mem = s.mem ∧
      (t.core core).tlb.head? = some e) ∧
    (pteAllows e.pte.toNat acc = false →
      (∀ f, s.walk ctx g = .error f → ∃ t, s.tableXlat core ctx g acc = (t, .error f) ∧ t.mem = s.mem) ∧
      (∀ l, s.walk ctx g = .ok l → pteAllows l.pte acc = true →
        ∃ t, s.tableXlat core ctx g acc = (t, .ok (s.leafPlace l.pte (g.toNat % pageBytes l.lv))) ∧ t.mem = s.mem) ∧
      (∀ l, s.walk ctx g = .ok l → pteAllows l.pte acc = false →
        ∃ t, s.tableXlat core ctx g acc = (t, .error (denied g acc)) ∧ t.mem = s.mem))) ∧
  (∀ (s : State) core ctx (g : DWord) acc l, (s.core core).tlbHit ctx g.toNat = none → core < s.cores.length → s.walk ctx g = .ok l →
    ∃ t e, s.tableXlat core ctx g acc =
        (t, if pteAllows l.pte acc = true then .ok (s.leafPlace l.pte (g.toNat % pageBytes l.lv)) else .error (denied g acc)) ∧
      t.mem = s.mem ∧ (t.core core).tlb.head? = some e ∧ e.ctx = ctx ∧ e.page = g.toNat / pageBytes l.lv * pageBytes l.lv ∧
      e.size = pageBytes l.lv ∧ e.la = l.ea / 128) ∧
  (∀ (s : State) core ctx (g : DWord) acc f, (s.core core).tlbHit ctx g.toNat = none → s.walk ctx g = .error f →
    s.tableXlat core ctx g acc = (s, .error f)) ∧
  (∀ (c : Core) ctx g e, c.tlbHit ctx g = some e → e ∈ c.tlb ∧ e.ctx = ctx ∧ e.page ≤ g ∧ g < e.page + e.size) ∧
  (∀ ts e, (tlbInstall ts e).length ≤ 128 ∧ e ∈ tlbInstall ts e) ∧
  (∀ e, pteAllows e .read = e.testBit 2 ∧ pteAllows e .write = e.testBit 3 ∧
    pteAllows e .atomic = (e.testBit 2 && e.testBit 3) ∧ pteAllows e .fetch = e.testBit 4) ∧
  (∀ (s : State) e off,
    (field e 5 2 = 0 → s.leafPlace e off = .mem (256 * field e 8 39 + off)) ∧
    (field e 5 2 = 1 → s.leafPlace e off = if field e 47 10 = s.fab.fabid.toNat then .mem (256 * field e 8 39 + off)
      else .peer (field e 47 10) (256 * field e 8 39 + off)) ∧
    (∀ m, field e 5 2 = 2 → s.castle.moves.find? (fun m => m.rec_ = 256 * field e 8 39) = some m →
      s.leafPlace e off = .mem (128 * m.keyLine + off))) ∧
  (∀ (s : State) grid line p, s.lost line = false → ∀ k ∈ (s.homeWrite grid line p).cores, ∀ e ∈ k.tlb, e.la ≠ line)

/-! ### Queues, grids and blocks (R17, R320, R344-R363) -/

/-- R17, R225, R275, R314, R346, R348, R351, R356, R363: the commands on a queue, the launch or refusal of its head record,
the placing of blocks, the ends of warps, blocks and grids, the fields of the completion record in memory with DONE past it
and the host's caches recalled, and the end command.
Where a clause rests on the model's own choice or inference and not on the spec's words, that is log 29, 30, 60, 95 and
106. -/
def Obligations.GridLifecycle : Prop :=
  (∀ s, heard s → (s.queue s.on.n).qstate = 0 → (s.queue s.on.n).basesOk = true → s.on.n < s.queues.length →
    s.gridsOf s.on.n = [] →
    ∃ t, exec .queueEnable s = .next t ∧ (t.queue s.on.n).head = 0 ∧ (t.queue s.on.n).done = 0 ∧ (t.queue s.on.n).tail = 0 ∧
      (t.queue s.on.n).efail = false ∧ ((t.queue s.on.n).qstate = 1 ∨ (t.queue s.on.n).qstate = 3) ∧ t.mem = s.mem) ∧
  (∀ s, heard s → ((s.queue s.on.n).qstate ≠ 0 ∨ (s.queue s.on.n).basesOk = false) →
    exec .queueEnable s = .next (s.setQueue s.on.n (fun q => { q with efail := true }))) ∧
  (∀ s, heard s → (s.queue s.on.n).qstate ≠ 0 → s.on.n < s.queues.length → s.gridsOf s.on.n = [] →
    ∃ t, exec .queueDisable s = .next t ∧ (t.queue s.on.n).qstate = 0 ∧ (t.queue s.on.n).disabling = false ∧ t.mem = s.mem) ∧
  (∀ s, heard s → (s.queue s.on.n).qstate ≠ 0 → s.on.n < s.queues.length → s.lineBusy (s.queue s.on.n).headLine = false →
    ∃ t, exec .launchSlotSnoop s = .next t ∧
      (t.queue s.on.n).snoop = (s.homeRead ((s.queue s.on.n).slotPa (s.queue s.on.n).head.toNat / 128)).1 ∧ t.mem = s.mem) ∧
  (∀ s g, s.launching s.on.n = .go g → s.nextLaunch = some s.on.n →
    ∃ t, exec .gridLaunch s = .next t ∧ t.grids = s.grids ++ [g] ∧ t.front.lastQueue = s.on.n ∧
      (s.on.n < s.queues.length → (t.queue s.on.n).head = (s.queue s.on.n).head + 1) ∧ t.blocks = s.blocks) ∧
  (∀ s c sz, s.launching s.on.n = .refuse c sz → s.refusalHeld s.on.n = false → exec .gridLaunch s = .next (s.refuseRecord s.on.n c sz)) ∧
  (∀ s g t, s.grid? s.on.w.grid = some g → s.free? g = true →
    s.grids.any (fun x => s.before x g && s.free? x && (s.placeNext x).isSome) = false → s.placeNext g = some t → s.front.restore = none →
    exec .blockPlace s = .next (t.settleQueue (gridQueue g.id))) ∧
  (∀ s b x, s.warp? s.on.w = some (b, x) → x.terminated = true → x.win.ops = [] → x.spills = [] →
    ∃ t b1, exec .warpSlotFree s = .next t ∧ t.warp? s.on.w = some (b1, { x with freed := true })) ∧
  (∀ s b g, s.block? s.on.block = some b → s.grid? s.on.w.grid = some g → g.recover = false → s.blockEnds b = true →
    s.clusterAll g b s.blockEnds = true →
    ∃ t, exec .blockEnd s = .next t ∧ t.block? s.on.block = none ∧ (∀ v, v ≠ s.on.block → t.block? v = s.block? v) ∧
      t.mem = s.mem) ∧
  (∀ s g, s.grid? s.on.w.grid = some g → s.blocksGone g = true → g.recover = false → s.gridIdle g.id = true →
    s.orderedOf g.id = [] → s.msgsOf g.id = false → s.completionHeld (gridQueue g.id) (g.id.setWidth 26) = false →
    exec .gridComplete s = .next (s.completeGrid g) ∧
    ∃ t, exec .gridComplete s = .next t ∧ t.grid? g.id = none ∧ t.fq = s.fq ∧ t.hostCache = [] ∧
      (gridQueue g.id < s.queues.length → (t.queue (gridQueue g.id)).done = g.id.setWidth 26 + 1) ∧
      (let pa := s.completionAt (gridQueue g.id) (g.id.setWidth 26)
       settlesAt s pa 32 → g.nspill < 2 ^ 32 → g.variant < 2 ^ 32 →
       holdsAt t pa [(0, 4, g.id.toNat), (4, 1, (if g.ending then 0x14 else g.status).toNat),
         (5, 3, b2n g.spill + 2 * b2n g.pois), (8, 4, g.nspill), (0xC, 4, g.sizev.toNat), (0x10, 8, (g.tstart.getD 0).toNat),
         (0x18, 4, match g.tstart with
           | some ts => min (s.gtime - ts).toNat (2 ^ 32 - 1)
           | none => 0), (0x1C, 4, g.variant)])) ∧
  (∀ s qn c sz, qn < s.queues.length →
    (let n := (s.queue qn).head
     let t := s.refuseRecord qn c sz
     (t.queue qn).done = n + 1 ∧ (t.queue qn).head = n + 1 ∧ t.hostCache = [] ∧
       (settlesAt s (s.completionAt qn n) 32 →
        holdsAt t (s.completionAt qn n) [(0, 4, (gridIdOf qn n).toNat), (4, 4, c.toNat), (8, 4, 0), (0xC, 4, sz.toNat),
          (0x10, 16, 0)]))) ∧
  (∀ s, heard s → s.grid? s.front.cmdgrid = none →
    exec .gridEnd s = .next { s with front := { s.front with cres := 2 } }) ∧
  (∀ s g, heard s → s.grid? s.front.cmdgrid = some g →
    ∃ t g1, exec .gridEnd s = .next t ∧ t.front.cres = 0 ∧ t.grid? s.front.cmdgrid = some g1 ∧ g1.ending = true ∧ g1.savedBlocks = [] ∧
      g1.recover = false)

/-! ### Pre-emption, save and restore, and retraining (R37-R45, R259, R278-R284, R362-R364) -/

namespace Sys2Proof.Claims

/-- The fields of R38 and R39 in a warp's record: its header, registers and lane state. -/
def warpFields (r : VReg) (x : Warp) (i : Nat) : Prop :=
  let bs := warpRecord r x i
  let nS := Rec.nS r
  let nV := Rec.nV r
  bs.length = warpSize r ∧
  fieldsIn bs [(0, 2, 1), (2, 2, i), (4, 1, nV / 8), (5, 1, nS / 32), (6, 2, 0), (8, 8, x.savedPc.toNat), (0x10, 8, 0),
    (0x18, 8, x.stack.length), (0xA0, 4, x.fpst.toNat), (0xA4, 4, x.mode.toNat), (0xA8, 4, x.trapcause.toNat),
    (0xB0, 8, x.trappc.toNat), (0xB8, 8, x.trapaddr.toNat), (0xC0, 16, x.key.toNat), (0xD0, 16, x.ctr.toNat), (0xE0, 32, 0),
    (288 + 4 * nS, 16, x.nest.toNat), (304 + 4 * nS, 4, x.retired.toNat), (308 + 4 * nS, 4, x.helper.toNat),
    (312 + 4 * nS, 72, 0)] ∧
  fieldsIn bs [(0xAC, 4, b2n x.inTrap + 2 * b2n x.susp.isSome + 4 * b2n x.forced + (match x.wait with
    | some (.numbered n _) => 8 + 256 * n
    | _ => 0))] ∧
  (∀ n a, x.stack[n]? = some a → fieldsIn bs [(0x20 + 8 * n, 8, a.toNat)]) ∧
  (∀ n, n < nS → fieldsIn bs [(256 + 4 * n, 4, (x.base (.s n)).toNat)]) ∧
  (∀ n, n < 8 → fieldsIn bs [(256 + 4 * nS + 4 * n, 4, (x.base (.k n)).toNat)]) ∧
  (∀ n, n < nV → fieldsIn bs [(384 + 4 * nS + 128 * n, 128, (x.base (.v n)).toNat),
    (384 + 4 * nS + 128 * nV + 8 * n, 8, (x.base (.e n)).toNat)])

/-- The fields of R40 to R42 in a block's record. -/
def blockFields (g : Grid) (b : Block) : Prop :=
  let bs := blockRecord g b
  let r := g.record
  let o := 256 + (if Rec.mstr r then 512 else 0)
  bs.length = blockSize r ∧
  fieldsIn bs [(0, 2, 2), (2, 1, Rec.nwarps r - 1), (3, 1, b2n (Rec.mstr r)), (4, 1, Rec.nacc r), (5, 1, Rec.nbar r), (6, 2, 0),
    (8, 4, blockX g b.id.block % 2 ^ 32), (0xC, 4, blockY g b.id.block % 2 ^ 32), (0x10, 4, blockZ g b.id.block % 2 ^ 32),
    (0x14, 4, b.id.block % Rec.clus r), (0x18, 4, b.id.block / Rec.clus r % 2 ^ 32), (0x1C, 4, b.portion % 2 ^ 32),
    (0x20, 8, seqPc b), (0x28, 8, 0), (0x30, 4, Rec.scrb r), (0x34, 4, Rec.nthr r), (0x38, 200, 0)] ∧
  (∀ n, n < 64 → Rec.mstr r = true → fieldsIn bs [(256 + 8 * n, 8, (mBase b.m (.m n)).toNat)]) ∧
  (∀ n, n < 16 → fieldsIn bs (if n < Rec.nbar r then
      [(o + 16 * n, 4, ((b.bar n).exp + 256 * (b.bar n).arr + 2 ^ 16 * b2n (b.bar n).phase + 2 ^ 17 * b2n (b.bar n).fallen +
        2 ^ 18 * b2n (b.bar n).seqp + 2 ^ 19 * b2n (b.bar n).seqa) % 2 ^ 32), (o + 16 * n + 4, 4, (b.bar n).amask.toNat),
       (o + 16 * n + 8, 4, (b.bar n).torem % 2 ^ 32), (o + 16 * n + 12, 4, 0)]
    else [(o + 16 * n, 16, 0)])) ∧
  (∀ t i, t < Rec.nacc r → i < 32 → fieldsIn bs [(o + 256 + 4096 * t + 128 * i, 128, (b.accRow t i).toNat)]) ∧
  (∀ n, n < (Rec.scrb r + 127) / 128 → fieldsIn bs [(blockHead r + 136 * n, 128, (b.sline n).toNat),
    (blockHead r + 136 * n + 128, 8, (b.sside n).toNat)])

/-- The fields of R280 and R281 in the header of a save area of the blocks `ls`. -/
def headerFields (g : Grid) (status : Nat) (ls : List Nat) (elapsed : Nat) : Prop :=
  let bs := saveHeader g status ls elapsed
  let cl := (clustersOf g ls).length
  bs.length = 256 ∧
  fieldsIn bs [(0, 4, 3), (4, 4, status), (8, 4, g.id.toNat), (0xC, 4, 0), (0x10, 8, ls.length),
    (0x18, 8, blkOff cl + ls.length * wholeSize g.record), (0x20, 8, 0x100), (0x28, 4, cl), (0x2C, 4, 0), (0x30, 8, blkOff cl),
    (0x38, 8, elapsed), (0x80, 128, 0)] ∧
  (∀ d, d < 4 → fieldsIn bs [(0x40 + 16 * d, 2, (g.dbar d).exp % 65536), (0x42 + 16 * d, 2, (g.dbar d).arr % 65536),
    (0x44 + 16 * d, 4, b2n (g.dbar d).phase + 2 * b2n (g.dbar d).fallen), (0x48 + 16 * d, 4, (g.dbar d).torem % 2 ^ 32),
    (0x4C + 16 * d, 4, 0)])

/-- The bytes of `bs` stand in memory from `pa` on. -/
def written (s : State) (pa : Nat) (bs : List Byte) : Prop := ∀ k x, bs[k]? = some x → s.byte (pa + k) = x

end Sys2Proof.Claims

/-- R43, R278, R362, R363: the pre-emption command is accepted or refused by CRES; a warp stops with its results written
at a quiet point or, forced, after 64 more instructions, a stream at its own; each block's record is written and its
resources freed, and the cluster table and the header complete the save. The records hold the fields of R37 to R42, R280
and R281.
Where a clause rests on the model's own choice or inference and not on the spec's words, that is log 31, 79, 81, 99 and 109. -/
def Obligations.Preemption : Prop :=
  (∀ s g, heard s → s.front.cbusy = false → s.grid? s.front.cmdgrid = some g → csaOk s.front.cmdcsa = true → g.state ≠ .saved →
    ∃ t, exec .gridPreempt s = .next t ∧ t.front.cres = 0 ∧ t.front.cbusy = true ∧
      t.front.job = some { grid := g.id, csa := s.front.cmdcsa, startNs := s.now, deadline := s.front.cmddl.toNat } ∧
      (∀ w b x, s.warp? w = some (b, x) → b.id.grid = g.id → ∃ b1, t.warp? w = some (b1, { x with sinceCmd := 0 }))) ∧
  (∀ s, heard s → s.front.cbusy = true → exec .gridPreempt s = .next (s.setCres 1)) ∧
  (∀ s, heard s → s.front.cbusy = false → s.grid? s.front.cmdgrid = none → exec .gridPreempt s = .next (s.setCres 2)) ∧
  (∀ s g, heard s → s.front.cbusy = false → s.grid? s.front.cmdgrid = some g → csaOk s.front.cmdcsa = false →
    exec .gridPreempt s = .next (s.setCres 3)) ∧
  (∀ s g, heard s → s.front.cbusy = false → s.grid? s.front.cmdgrid = some g → csaOk s.front.cmdcsa = true → g.state = .saved →
    exec .gridPreempt s = .next (s.setCres 4)) ∧
  (∀ s b x, s.warp? s.on.w = some (b, x) → s.stopping s.on.w.grid = true → x.canStop = true →
    (x.atOnce = true ∨ x.quiet = true) →
    ∃ t b1 x1, exec .warpQuietStop s = .next t ∧ t.warp? s.on.w = some (b1, x1) ∧ x1.held = true ∧ x1.pc = x.pc ∧
      x1.forced = (x.forced || !x.quiet) ∧ x1.win.fly = [] ∧ x1.win.ops = x.win.ops ∧ x1.nest = x.nest ∧
      (∀ r : RegId, r.ofWarp = true → x1.base r = x.landed x.win.num r) ∧ t.mem = s.mem) ∧
  (∀ s b x, s.warp? s.on.w = some (b, x) → s.stopping s.on.w.grid = true → x.canStop = true → 64 ≤ x.sinceCmd →
    ∃ t b1, exec .warpForcedStop s = .next t ∧ t.warp? s.on.w = some (b1, x.hold) ∧ t.mem = s.mem) ∧
  (∀ s b x, s.warp? s.on.w = some (b, x) → x.sinceCmd < 64 → s.front.rstate ≠ 2 → exec .warpForcedStop s = .next s) ∧
  (∀ s k q, s.seq? s.on.block = some (k, q) → s.stopping s.on.block.grid = true → q.run = none → q.win.quiet = true →
    q.held = false →
    ∃ t k1 q1, exec .sequencerStop s = .next t ∧ t.seq? s.on.block = some (k1, q1) ∧ q1.held = true ∧ q1.pc = q.pc ∧
      q1.wait = none ∧ q1.win.fly = [] ∧ (∀ n, mBase k1.m (.m n) = streamLanded k q q.win.num n)) ∧
  (∀ s j b g, s.front.job = some j → s.block? s.on.block = some b → s.grid? s.on.w.grid = some g → s.stopping g.id = true →
    j.grid = g.id → s.readyToSave g.id = true → s.savesHeld = false →
    (s.settleGrid g.id).readyToSave g.id = true → s.rangeBusy (s.recordAt j g b) (wholeSize g.record) = false →
    (let s1 := s.settleGrid g.id
     let pa := s1.recordAt j g b
     exec .blockSave s = .next (s1.saveBlock j g b) ∧
     ∃ t, exec .blockSave s = .next t ∧ t.block? s.on.block = none ∧
       (inHbmRange pa (wholeRecord g b).length = true → settlesAt s1 pa (wholeRecord g b).length →
        written t pa (wholeRecord g b)))) ∧
  (∀ s j g, s.front.job = some j → s.grid? j.grid = some g → s.blocks.any (fun b => b.id.grid == g.id) = false →
    s.savesHeld = false → s.rangeBusy j.csa.toNat (blkOff (clustersOf g (j.blocks.getD [])).length) = false →
    ∃ t g1, exec .saveComplete s = .next t ∧ t.front.job = none ∧ t.front.cbusy = false ∧
      t.grid? j.grid = some g1 ∧ g1.state = .saved ∧
      (let ls := j.blocks.getD []
       let cl := clustersOf g ls
       let late := s.now - j.startNs
       j.failed = false → inHbmRange (j.csa.toNat + 0x100) (32 * cl.length) = true →
       settlesAt s j.csa.toNat (0x100 + 32 * cl.length) →
       written t j.csa.toNat (saveHeader g (if j.deadline = 0 ∨ late ≤ j.deadline then 1 else 2) ls late) ∧
       (∀ i c, cl[i]? = some c → holdsAt t (j.csa.toNat + 0x100 + 32 * i) [(0, 4, c % 2 ^ 32), (4, 12, 0),
         (16, 2, (g.cbar c).exp % 65536), (18, 2, (g.cbar c).arr % 65536),
         (20, 4, b2n (g.cbar c).phase + 2 * b2n (g.cbar c).fallen), (24, 4, (g.cbar c).torem % 2 ^ 32), (28, 4, 0)]))) ∧
  (∀ g (b : Block) i x, b.warps[i]? = some x → (∀ y ∈ b.warps, y.stack.length ≤ 16) →
    (wholeRecord g b).take (blockSize g.record) = blockRecord g b ∧
    ((wholeRecord g b).drop (blockSize g.record + i * warpSize g.record)).take (warpSize g.record) = warpRecord g.record x i) ∧
  (∀ r x i, i < 32 → x.stack.length ≤ 16 → (∀ n p, x.wait = some (.numbered n p) → n < 16) → warpFields r x i) ∧
  (∀ g b, 1 ≤ Rec.clus g.record → blockFields g b) ∧
  (∀ g status ls late, status < 4 → ls.length < 2 ^ 32 → late < 2 ^ 64 → headerFields g status ls late)

/-- R44, R283, R284, R362, R363: a restore is refused by CRES, or begins; its area is checked whole, and RSTAT says in
memory which check failed first or that a reservation was refused, after which nothing of it is left; the granted blocks are
placed with what the area holds, and after the last one the grid runs on with its queue in QSTATE 5. R364: a retraining is
requested, cancelled, becomes active outside a save, and ends after 38 µs with the stack at its new rate.
Where a clause rests on the model's own choice or inference and not on the spec's words, that is log 31, 78 and 80. -/
def Obligations.RestoreAndRetraining : Prop :=
  (∀ s, heard s → s.front.cbusy = true → exec .gridRestore s = .next (s.setCres 1)) ∧
  (∀ s, heard s → s.front.cbusy = false → s.grid? s.front.cmdgrid = none → exec .gridRestore s = .next (s.setCres 2)) ∧
  (∀ s g, heard s → s.front.cbusy = false → s.grid? s.front.cmdgrid = some g → csaOk s.front.cmdcsa = false →
    exec .gridRestore s = .next (s.setCres 3)) ∧
  (∀ s g, heard s → s.front.cbusy = false → s.grid? s.front.cmdgrid = some g → csaOk s.front.cmdcsa = true → g.state ≠ .saved →
    exec .gridRestore s = .next (s.setCres 4)) ∧
  (∀ s g, heard s → s.front.cbusy = false → s.grid? s.front.cmdgrid = some g → csaOk s.front.cmdcsa = true → g.state = .saved →
    exec .gridRestore s = .next { s with front := { s.front with cres := 0, cbusy := true, restore := some { grid := g.id, csa := s.front.cmdcsa } } }) ∧
  (∀ s g j, s.grid? s.on.w.grid = some g → s.front.restore = some j → j.grid = g.id → j.granted = false →
    s.rangeBusy j.csa.toNat (areaSize g) = false →
    (let a := s.areaAt j.csa.toNat (areaSize g)
     let ends (c : Byte) : Prop := ∃ t, exec .blockPlace s = .next t ∧ t.front.restore = none ∧ t.front.cbusy = false ∧
       t.blocks = s.blocks ∧ (∃ g1, t.grid? g.id = some g1 ∧ g1.state = g.state ∧ g1.savedBlocks = g.savedBlocks) ∧
       (settlesAt s (j.csa.toNat + 0xC) 1 → t.byte (j.csa.toNat + 0xC) = c)
     (a.check g ≠ 0 → ends (a.check g)) ∧
     (a.check g = 0 → s.restoreBlocks g (a.records g) [] = none → ends 0x05) ∧
     (∀ t, a.check g = 0 → s.restoreBlocks g (a.records g) [] = some t →
       ∃ u g1, exec .blockPlace s = .next u ∧ u.blocks = t.blocks ∧ u.grid? g.id = some g1 ∧ g1.savedBlocks = [] ∧
         u.front.restore = some { j with granted := true } ∧
         (settlesAt t (j.csa.toNat + 0xC) 1 → u.byte (j.csa.toNat + 0xC) = 0)))) ∧
  (∀ s g j, s.grid? s.on.w.grid = some g → s.front.restore = some j → j.grid = g.id → j.granted = true →
    (∀ b ∈ s.blocks, b.id.grid = g.id → b.frozen = true → Rec.coop g.record = false →
      ∀ b1 ∈ s.blocks, b1.id.grid = g.id → b1.frozen = true → clusterOf g b.id.block = clusterOf g b1.id.block) →
    ∃ t g1, exec .blockPlace s = .next t ∧ t.front.restore = none ∧ t.front.cbusy = false ∧ t.grid? g.id = some g1 ∧
      g1.state = .running ∧ (gridQueue g.id < s.queues.length → (t.queue (gridQueue g.id)).qstate = 5) ∧
      (∀ b, s.block? b.id = some b → b.id.grid = g.id → b.frozen = true →
        t.block? b.id = some { b with
          frozen := false
          warps := b.warps.map (fun x => { x with held := false })
          seq := b.seq.map (fun q => { q with held := false }) }) ∧ t.mem = s.mem) ∧
  (∀ s, heard s → s.front.rstate ≠ 1 → s.front.rstate ≠ 2 → s.front.rstack.toNat < 10 → s.front.rrate.toNat < 4 →
    exec .retrainRequest s = .next (s.setFront (fun f =>
      { f with rstate := 1, rcan := false, rref := false, rhold := some (f.rstack.toNat, f.rrate, 0) }))) ∧
  (∀ s, heard s → (s.front.rstate = 1 ∨ s.front.rstate = 2 ∨ 10 ≤ s.front.rstack.toNat ∨ 4 ≤ s.front.rrate.toNat) →
    exec .retrainRequest s = .next (s.setFront (fun f => { f with rref := true }))) ∧
  (∀ s, heard s → s.front.rstate = 1 → exec .retrainCancel s = .next (s.setFront (fun f =>
    { f with rstate := 0, rcan := true, rref := false, rhold := none }))) ∧
  (∀ s, heard s → s.front.rstate ≠ 1 → exec .retrainCancel s = .next (s.setFront (fun f => { f with rref := true }))) ∧
  (∀ s, s.front.rstate = 1 → s.front.cbusy = false → ∃ t, exec .retrainActivate s = .next t ∧ t.front.rstate = 2 ∧
    t.front.rhold = s.front.rhold.map (fun h => (h.1, h.2.1, s.now)) ∧ t.mem = s.mem ∧ t.blocks = s.blocks) ∧
  (∀ s, s.front.rstate = 1 → s.front.cbusy = true → exec .retrainActivate s = .next s) ∧
  (∀ s st rate t0, s.front.rhold = some (st, rate, t0) → s.front.rstate = 2 → t0 + 38000 ≤ s.now →
    ∃ t, exec .retrainDone s = .next t ∧ t.front.rstate = 3 ∧ t.front.rhold = none ∧
      t.front.rates = s.front.rates.set st rate ∧ t.mem = s.mem ∧ t.blocks = s.blocks) ∧
  (∀ s st rate t0, s.front.rhold = some (st, rate, t0) → s.now < t0 + 38000 → exec .retrainDone s = .next s)

/-! ### Banks, lines between dies, and the host (R296-R304, R321-R324, R334, R335, R340, R341, R366) -/

/-- R321-R324: a bank command reports busy, owned or illegal by RES, and LBANK shows its bank; an accepted one is busy
until, in a later clk, the bank takes its new mode, one that leaves CACHE mode once it holds no lines: the spec's scan of 256
clk is not counted (log 7).
Where a clause rests on the model's own choice or inference and not on the spec's words, that is log 7, 28 and 107. -/
def Obligations.BankCommands : Prop :=
  (∀ s, heard s → s.on.n < s.cores.length → (s.core s.on.n).busy = true →
    (let t := s.setCore s.on.n (fun k => { k with res := 3, lbank := BitVec.ofNat 4 s.on.m })
     exec .bankToOff s = .next t ∧ exec .bankToCache s = .next t ∧ exec .bankToFifo s = .next t)) ∧
  (∀ s, heard s → s.on.n < s.cores.length → s.on.m < 16 → (s.core s.on.n).busy = false → (s.core s.on.n).isOwned s.on.m = false →
    (let begun (t : State) (goal : BankMode) : Prop :=
       (t.core s.on.n).busy = true ∧ (t.core s.on.n).res = 0 ∧ (t.core s.on.n).lbank = BitVec.ofNat 4 s.on.m ∧
       (t.core s.on.n).leaving = some { bank := s.on.m, goal := goal, since := s.clkOf (dieOfCore s.on.n) } ∧
       (t.core s.on.n).modes = (s.core s.on.n).modes ∧ t.mem = s.mem ∧ t.blocks = s.blocks
     ((s.core s.on.n).modeOf s.on.m = .cache → ∃ t, exec .bankToOff s = .next t ∧ begun t .off) ∧
     ((s.core s.on.n).modeOf s.on.m = .cache → ∃ t, exec .bankToFifo s = .next t ∧ begun t .fifo) ∧
     ((s.core s.on.n).modeOf s.on.m = .off ∨ (s.core s.on.n).modeOf s.on.m = .fifo →
       ∃ t, exec .bankToCache s = .next t ∧ begun t .cache))) ∧
  (∀ s, heard s → s.on.n < s.cores.length → (s.core s.on.n).busy = false → (s.core s.on.n).isOwned s.on.m = true →
    (let refused (t : State) : Prop := (t.core s.on.n).res = 1 ∧ (t.core s.on.n).lbank = BitVec.ofNat 4 s.on.m ∧
       (t.core s.on.n).leaving = (s.core s.on.n).leaving ∧ (t.core s.on.n).modes = (s.core s.on.n).modes ∧ t.mem = s.mem
     (∃ t, exec .bankToOff s = .next t ∧ refused t) ∧ (∃ t, exec .bankToCache s = .next t ∧ refused t) ∧
     (∃ t, exec .bankToFifo s = .next t ∧ refused t))) ∧
  (∀ s, heard s → s.on.n < s.cores.length → (s.core s.on.n).busy = false → (s.core s.on.n).isOwned s.on.m = false →
    (let illegal (t : State) : Prop := (t.core s.on.n).res = 2 ∧ (t.core s.on.n).modes = (s.core s.on.n).modes ∧ t.mem = s.mem
     ((s.core s.on.n).modeOf s.on.m = .cache → ∃ t, exec .bankToCache s = .next t ∧ illegal t) ∧
     ((s.core s.on.n).modeOf s.on.m ≠ .cache → (∃ t, exec .bankToOff s = .next t ∧ illegal t) ∧
       (∃ t, exec .bankToFifo s = .next t ∧ illegal t)))) ∧
  (∀ s l, s.on.n < s.cores.length → (s.core s.on.n).leaving = some l → l.bank < (s.core s.on.n).modes.length →
    l.since < s.clkOf (dieOfCore s.on.n) → (∀ x ∈ (s.core s.on.n).l1, x.bank ≠ l.bank) →
    ∃ t, exec .bankModeChange s = .next t ∧ (t.core s.on.n).modeOf l.bank = l.goal ∧ (t.core s.on.n).leaving = none ∧
      (∀ b, b ≠ l.bank → (t.core s.on.n).modeOf b = (s.core s.on.n).modeOf b) ∧
      (t.core s.on.n).busy = false ∧ (t.core s.on.n).res = 0 ∧ t.mem = s.mem) ∧
  (∀ s l, (s.core s.on.n).leaving = some l → s.clkOf (dieOfCore s.on.n) ≤ l.since → exec .bankModeChange s = .next s)

namespace Sys2Proof.Claims

/-- Nothing holds a message at its destination: no copy lock, and, where it brings the home's bytes, no parked die (R385,
R442). -/
def arrives (s : State) (m : Msg) : Prop :=
  homeDie m.line = m.dst → s.copyLocked m.line = false ∧ (m.put.isSome = true → s.parked? m.line = false)

/-- The stamp of a message is the next of its source, and no later than the destination's count of any other die (R299). -/
def stampNext (s : State) (m : Msg) : Prop :=
  stampAt (s.clockOf m.dst) m.src = stampAt m.stamp m.src - 1 ∧
    ∀ k, k < 4 → k ≠ m.src → cntLe (stampAt m.stamp k) (stampAt (s.clockOf m.dst) k) = true

end Sys2Proof.Claims

/-- R299, R300, R304, R334, R340, R341, R366, R444: a stamped write is applied exactly when its stamp is the next of its source
and no later than the clock of any other die, and the die then counts it; a copy that a write without its bytes reaches
keeps only what the die has written itself; a fetched line is read at a home that holds it
and has applied what the fetch waits for, and installed once the die's clock has reached the home's; fills land unless
their channel is held; a refresh holds its channel; the host's accesses go to the home, or to the line that the host's
caches hold, have no effect while the hub recovers, and an address of no range faults.
Where a clause rests on the model's own choice or inference and not on the spec's words, that is log 34, 56, 67, 75, 77,
87 and 100. -/
def Obligations.LinesAndHost : Prop :=
  (∀ s m, s.msgs[s.on.n]? = some m → m.dst < s.dies.length → m.src < (s.die m.dst).vclk.length → arrives s m → stampNext s m →
    ∃ t s1, exec .crossDieWriteApply s = .next t ∧ s.applyMsg m = some s1 ∧ t.msgs = s1.msgs.eraseIdx s.on.n ∧
      stampAt (t.die m.dst).vclk m.src = stampAt m.stamp m.src ∧
      (m.put = none → t.mem = s.mem ∧
        (∀ d line, d ≠ m.dst ∨ line ≠ m.line ∨ homeDie m.line = m.dst → (t.die d).copy? line = (s.die d).copy? line) ∧
        (homeDie m.line ≠ m.dst → ∀ c, (t.die m.dst).copy? m.line = some c →
          c.have_ &&& ~~~(s.unapplied m.dst m.line).1 = 0))) ∧
  (∀ s m, s.msgs[s.on.n]? = some m → ¬ stampNext s m → exec .crossDieWriteApply s = .next s) ∧
  (∀ (s : State) m data mask side sm, m.put = some (data, mask, side, sm) → homeDie m.line = m.dst → s.applyMsg m ≠ none →
    s.poisoned m.line = false → m.grid = none →
    ∃ t, s.applyMsg m = some t ∧ ∀ a, t.byte a =
      if a / 128 = m.line ∧ bit mask (a % 128) = true then byteAt data (a % 128) else s.byte a) ∧
  (∀ s f data side v, s.fetches[s.on.n]? = some f → f.got = some (data, side, v) → reached (s.die f.die).vclk v = true →
    f.die < s.dies.length → (∀ k ∈ s.cores, ∀ e ∈ k.prefs, e.1 ≠ f.line) →
    ∃ t, exec .remoteLineFetch s = .next t ∧ t.fetches.length + 1 = s.fetches.length ∧ t.mem = s.mem ∧
      (t.die f.die).copy? f.line = ({ s.die f.die with copies := installCopy (s.die f.die).copies f.line data side }).copy? f.line) ∧
  (∀ s f, s.fetches[s.on.n]? = some f → f.got = none → s.lost f.line = false → s.homeServes f = true →
    ∃ t, exec .remoteLineFetch s = .next t ∧ t.mem = s.mem ∧ t.dies = s.dies ∧ t.fetches[s.on.n]? =
      some { f with got := some ((s.homeRead f.line).1, (s.homeRead f.line).2.1, s.clockOf (homeDie f.line)) }) ∧
  (∀ s d line f, (s.die d).fills.find? (fun f => f.1 == line) = some f → d < s.dies.length → s.parked? line = false →
    (∀ c, (s.currentLine line).bind s.channelOf = some c → s.channelHeld c = false) →
    s.castle.moves = [] → homeDie line ≠ 4 → (∀ k ∈ s.cores, ∀ e ∈ k.prefs, e.1 ≠ line) →
    ∃ t, exec (.l2FillLand d line) s = .next t ∧ ((t.die d).l2? line).isSome = true ∧
      (∀ g ∈ (t.die d).fills, g.1 ≠ line) ∧ t.mem = s.mem) ∧
  (∀ s ch, ∃ t, exec (.memoryRefresh ch) s = .next t ∧ t.channelHeld ch = true ∧ t.mem = s.mem ∧ t.dies = s.dies) ∧
  (∀ s line data mask, (tierOf (128 * line)).isSome = true → s.locked line = false → s.parked? line = false → s.hub.bootst ≠ 4 →
    exec (.hostCxlWrite line data mask) s = .next ((s.devWrite none line { data := data, mask := mask }).hostDrop line)) ∧
  (∀ s line, (tierOf (128 * line)).isSome = true → s.locked line = false → s.parked? line = false → s.hub.bootst ≠ 4 →
    s.hostCache.find? (fun p => p.1 == line) = none → s.atPeer line = false →
    ∃ t, exec (.hostCxlRead line) s = .next t ∧ t.hostRead = some (line, (s.homeRead line).1) ∧ t.mem = s.mem ∧
      (homed line = true → t.hostCache.find? (fun p => p.1 == line) = some (line, (s.homeRead line).1))) ∧
  (∀ s line p, (tierOf (128 * line)).isSome = true → s.hostCache.find? (fun p => p.1 == line) = some p →
    exec (.hostCxlRead line) s = .next { s with hostRead := some (line, p.2) }) ∧
  (∀ (s : State) line data mask, (tierOf (128 * line)).isSome = true → s.hub.bootst = 4 →
    exec (.hostCxlWrite line data mask) s = .next s ∧
    (s.hostCache.find? (fun p => p.1 == line) = none → exec (.hostCxlRead line) s = .next s)) ∧
  (∀ s line data mask, tierOf (128 * line) = none →
    exec (.hostCxlWrite line data mask) s = .fault (.noSuchAddress (128 * line)) ∧
    exec (.hostCxlRead line) s = .fault (.noSuchAddress (128 * line)))

/-- R5, R296, R331, R391: bytes of memory: little-endian order, a write of a line at its home reads back under its mask and
leaves every other byte, a poisoned line reads as poison until a whole write, and a write at a die's point of coherence
merges into the die's copy of a line homed elsewhere.
Where a clause rests on the model's own choice or inference and not on the spec's words, that is log 3 and 72. -/
def Obligations.MemoryBytes : Prop :=
  (∀ (s : State) line p a, (s.applyPut line p).byte a =
    if a / 128 = line ∧ bit p.mask (a % 128) = true then byteAt p.data (a % 128) else s.byte a) ∧
  (∀ (s : State) pa bs, pa % 128 + bs.length ≤ 128 → s.lost (pa / 128) = false → nothingComing s → ∀ a,
    (s.devBytes none pa bs).byte a = if pa ≤ a ∧ a < pa + bs.length then bs.getD (a - pa) 0 else s.byte a) ∧
  (∀ (s : State) line p, s.castle.moves = [] → s.poisoned line = false →
    ((s.devWrite none line p).homeRead line).1 = merge (byteBits p.mask) (s.homeRead line).1 p.data) ∧
  (∀ (s : State) line, s.castle.moves = [] → s.poisoned line = true → s.homeRead line = (0, eInit, true)) ∧
  (∀ (s : State) line data side, s.castle.moves = [] → s.lost line = false → (s.devLine none line data side).poisoned line = false ∧
    (s.devLine none line data side).homeRead line = (data, side, false)) ∧
  (∀ (s : State) line p, s.poison.contains line = true → (p.mask ≠ BitVec.allOnes 128 ∨ p.sideMask = 0) →
    (s.applyPut line p).poison = s.poison) ∧
  (∀ (s : State) d g line p c, homeDie line ≠ d → homeDie line ≠ 4 → d < s.dies.length → (s.die d).copy? line = some c →
    ((s.pocWrite d g line p).die d).copy? line = some
      { c with data := merge (byteBits p.mask) c.data p.data, have_ := c.have_ ||| p.mask
               side := merge (slotBits p.sideMask) c.side p.side, sideHave := c.sideHave ||| p.sideMask })

/-! ### Castle: moves, events, hotness, the checkpoint, and recovery (R380-R396) -/

/-- The engine carries out a command at once: the ring has room for what waits, no earlier command waits, and nothing holds a line
that the command reads (R381, R388; R385, R442). -/
def Sys2Proof.Claims.engineFree (s : State) (n : Nat) : Prop :=
  heard s ∧ s.castle.ringHeld = false ∧ s.castle.cmds = [] ∧ s.cmdHeld n s.castle.csrec = false

/-- R381, R382, R384, R387, R388: the move command's refusals in their order, the move it starts with the MOTION leaf in
place, the abort command, commands that a full event ring holds, and the aborts that the destination and another agent's
write of the leaf begin.
Where a clause rests on the model's own choice or inference and not on the spec's words, that is log 37, 38 and 89. -/
def Obligations.CastleCommands : Prop :=
  (∀ (s : State), heard s → s.castle.ringHeld = true ∨ s.castle.cmds ≠ [] →
    (let held (n : Nat) : State := { s with castle := { s.castle with cmds := s.castle.cmds ++ [(n, s.castle.csrec)] } }
     exec .castleMove s = .next (held 1) ∧ exec .castleAbortCmd s = .next (held 2) ∧ exec .checkpoint s = .next (held 3) ∧
     exec .hotnessSync s = .next (held 4) ∧ exec .hotnessDecay s = .next (held 5))) ∧
  (∀ (s : State), engineFree s 1 → 16 ≤ s.castle.moves.length → exec .castleMove s = .next (s.csres 1)) ∧
  (∀ (s : State), engineFree s 1 → s.castle.moves.length < 16 → s.castle.recOk = false →
    exec .castleMove s = .next (s.csres 2)) ∧
  (∀ (s : State) m, engineFree s 1 → s.castle.moves.length < 16 → s.castle.recOk = true →
    s.move? s.castle.csrec.toNat = some m → exec .castleMove s = .next (s.csres 8)) ∧
  (∀ (s : State), engineFree s 1 → s.castle.moves.length < 16 → s.castle.recOk = true →
    s.move? s.castle.csrec.toNat = none → nothingComing s →
    (let r := s.readNat s.castle.csrec.toNat 256
     let size := moveSize (field r 2 2)
     let ptea := field r 64 47
     let e := s.readNat ptea 8
     let src := s.pageLoc (pteKind e == 1) (ptePeer e) (pteAddr e)
     let dst := s.pageLoc (pteBit r 4) (field r 192 10) (field r 128 47)
     let free : Prop := field r 2 2 ≠ 3 ∧ ∀ p ∈ moveReserved, field r p.1 p.2 = 0
     let leaf : Prop := (tierOf ptea).isSome = true ∧ ptea % 8 = 0 ∧ s.leafOk e size = true
     (¬free → exec .castleMove s = .next (s.csres 7)) ∧
     (free → ¬leaf → exec .castleMove s = .next (s.csres 3)) ∧
     (free → leaf → destOk src dst size = false → exec .castleMove s = .next (s.csres 4)) ∧
     (free → leaf → destOk src dst size = true → s.poisoned (ptea / 128) = false →
       ∃ t m, exec .castleMove s = .next t ∧ t.castle.csres = 0 ∧ t.castle.moves.length = s.castle.moves.length + 1 ∧
         m ∈ t.castle.moves ∧ m.rec_ = s.castle.csrec.toNat ∧ m.size = size ∧ m.ptea = ptea ∧ m.src = src ∧ m.dst = dst ∧
         m.phase = .copying ∧ m.oldpte.toNat = e ∧ t.blocks = s.blocks ∧
         (field (t.natAt ptea 8) 0 5 = field e 0 5 ∧ pteKind (t.natAt ptea 8) = 2 ∧ pteAddr (t.natAt ptea 8) = m.rec_)))) ∧
  (∀ (s : State), engineFree s 2 → s.castle.recOk = false → exec .castleAbortCmd s = .next (s.csres 2)) ∧
  (∀ (s : State), engineFree s 2 → s.castle.recOk = true → (∀ m ∈ s.castle.moves, m.rec_ ≠ s.castle.csrec.toNat) →
    exec .castleAbortCmd s = .next (s.csres 5)) ∧
  (∀ (s : State) i m, engineFree s 2 → s.castle.recOk = true →
    s.castle.moves.findIdx? (fun m => m.rec_ == s.castle.csrec.toNat) = some i → s.castle.moves[i]? = some m → m.phase = .copying →
    ∃ t, exec .castleAbortCmd s = .next t ∧ t.castle.csres = 0 ∧ t.mem = s.mem ∧
      t.castle.moves[i]? = some { m with phase := .aborting 3, lock := none, allLocked := none }) ∧
  (∀ (s : State) i m ls, s.castle.moves[i]? = some m → m.phase = .copying →
    ∃ t, exec (.castleAbort i .destError ls) s = .next t ∧ t.mem = s.mem ∧
      t.castle.moves[i]? = some { m with phase := .aborting 1, lock := none, allLocked := none, bad := m.bad ++ ls }) ∧
  (∀ (s : State) i m ls, s.castle.moves[i]? = some m → m.phase = .copying → m.leafHit = true →
    ∃ t, exec (.castleAbort i .leafWritten ls) s = .next t ∧ t.mem = s.mem ∧
      t.castle.moves[i]? = some { m with phase := .aborting 4, lock := none, allLocked := none }) ∧
  (∀ (s : State) i m ls, s.castle.moves[i]? = some m → m.leafHit = false →
    exec (.castleAbort i .leafWritten ls) s = .next s.sendUnlocked) ∧
  (∀ (s : State) i m a ls, s.castle.moves[i]? = some m → m.phase = .copying → m.src = .mem a → 512 * (m.chunk + 1) ≤ m.lines →
    m.rec_ % 256 = 0 → settlesAt s m.rec_ 128 →
    ∃ t m1, exec (.castleAbort i .destUnreachable ls) s = .next t ∧ t.castle.moves[i]? = some m1 ∧ m1.phase = .aborting 2 ∧
      m1.moved = 0 ∧ m1.chunk = 0 ∧ m1.poisoned = m.poisoned + m.movedCount ∧ holdsAt t m.rec_ [(4, 4, 0), (0x40, 64, 0)] ∧
      (∀ j, j < m.lines → m.movedLine j = true → t.poisoned (a / 128 + j) = true))

/-- R384, R385, R387: a move locks one line at a time and copies it whole, with its sidecar and poison; a lock held for
LMAX, or the locks of a completion held for CMAX, are released; the completion takes every lock, writes the new leaf, and
ends the move.
Where a clause rests on the model's own choice or inference and not on the spec's words, that is log 37, 38 and 90. -/
def Obligations.CastleMoves : Prop :=
  (∀ (s : State) m j, s.castle.moves[s.on.n]? = some m → s.castle.ringHeld = false → m.allLocked = none → m.lock = none →
    m.turnLine = some j → s.lockable m j = true →
    ∃ t, exec .castleLineCopy s = .next t ∧ t.castle.moves[s.on.n]? = some { m with lock := some (j, s.moveClk m) } ∧
      t.mem = s.mem ∧ t.side = s.side ∧ t.poison = s.poison) ∧
  (∀ (s : State) m a b j t0, s.castle.moves[s.on.n]? = some m → s.castle.ringHeld = false → m.allLocked = none →
    m.lock = some (j, t0) → s.moveClk m < t0 + m.lmax → m.phase = .copying → m.src = .mem a → m.dst = .mem b →
    m.rec_ % 256 = 0 → m.rec_ / 128 ≠ b / 128 + j → s.lost (b / 128 + j) = false → j / 512 = m.chunk → j < m.lines →
    s.atPeer (a / 128 + j) = false → s.moveParked m j 1 = false → (∀ n ∈ s.castle.moves, n.inKey (b / 128 + j) = false) → nothingComing s →
    ∃ t m1, exec .castleLineCopy s = .next t ∧ t.castle.moves[s.on.n]? = some m1 ∧ m1.lock = none ∧ m1.movedLine j = true ∧
      t.homeRead (b / 128 + j) = s.homeRead (a / 128 + j)) ∧
  (∀ (s : State) m j t0, s.castle.moves[s.on.n]? = some m → m.lock = some (j, t0) → t0 + m.lmax ≤ s.moveClk m →
    ∃ t, exec .lineLockTimeout s = .next t ∧ t.castle.moves[s.on.n]? = some { m with lock := none } ∧ t.mem = s.mem) ∧
  (∀ (s : State) m j t0, s.castle.moves[s.on.n]? = some m → s.castle.ringHeld = false → m.allLocked = none →
    m.lock = some (j, t0) → t0 + m.lmax ≤ s.moveClk m →
    ∃ t, exec .castleLineCopy s = .next t ∧ t.castle.moves[s.on.n]? = some { m with lock := none } ∧ t.mem = s.mem) ∧
  (∀ (s : State) m j t0, s.castle.moves[s.on.n]? = some m → m.lock = some (j, t0) → s.moveClk m < t0 + m.lmax →
    exec .lineLockTimeout s = .next s.sendUnlocked) ∧
  (∀ (s : State) m a, s.castle.moves[s.on.n]? = some m → s.castle.ringHeld = false → m.canComplete = true → m.lock = none →
    m.allLocked = none → m.src = .mem a →
    ∃ t, exec .castleMoveComplete s = .next t ∧ t.castle.moves[s.on.n]? = some { m with allLocked := some (s.moveClk m) } ∧
      t.mem = s.mem) ∧
  (∀ (s : State) m a b t0, s.castle.moves[s.on.n]? = some m → s.castle.ringHeld = false → m.canComplete = true → m.lock = none →
    m.allLocked = some t0 → s.moveClk m < t0 + 16384 → s.moveParked m 0 m.lines = false → m.phase = .copying → m.src = .mem a → m.dst = .mem b → m.wb = [] →
    s.l1Lines m = [] → s.outOf (.castle m.rec_) = [] → s.writesComing m = false → m.ptea % 8 = 0 →
    m.ptea / 128 ≠ m.rec_ / 128 → m.inKey (m.ptea / 128) = false → m.inKey (m.rec_ / 128) = false →
    s.lost (m.ptea / 128) = false → nothingComing s →
    ∃ t e, exec .castleMoveComplete s = .next t ∧ t.castle.moves.length + 1 = s.castle.moves.length ∧
      t.natAt m.ptea 8 = m.newpte.toNat ∧ t.castle.events = s.castle.events ++ [e] ∧ e.kind = 1 ∧ e.addr.toNat = m.rec_ % 2 ^ 64 ∧
      (∀ k ∈ t.cores, ∀ l ∈ k.l1, m.inKey l.line = false) ∧ (∀ d ∈ t.dies, ∀ l ∈ d.l2, m.inKey l.line = false)) ∧
  (∀ (s : State) m t0, s.castle.moves[s.on.n]? = some m → m.allLocked = some t0 → t0 + 16384 ≤ s.moveClk m →
    ∃ t, exec .completionLockTimeout s = .next t ∧ t.castle.moves[s.on.n]? = some { m with allLocked := none } ∧ t.mem = s.mem) ∧
  (∀ (s : State) m t0, s.castle.moves[s.on.n]? = some m → m.allLocked = some t0 → s.moveClk m < t0 + 16384 →
    exec .completionLockTimeout s = .next s.sendUnlocked)

/-- R388, R390, R392, R393: events go to the ring in order, and a full ring holds all but hints; hotness counts are added
to the table and shifted; the checkpoint command is checked, copies each line with its sidecar and poison, and ends with an
event.
Where a clause rests on the model's own choice or inference and not on the spec's words, that is log 39, 40 and 72. -/
def Obligations.EventsHotnessCheckpoint : Prop :=
  (∀ (s : State) e rest, s.castle.events = e :: rest → s.castle.cmds = [] → s.castle.hasRoom = true →
    s.castle.cebase.toNat % 32 = 0 → nothingComing s →
    (let pa := s.castle.cebase.toNat + 32 * (s.castle.cetail.toNat % 2 ^ s.castle.celog.toNat)
     s.lost (pa / 128) = false → s.locked (pa / 128) = false → s.parked? (pa / 128) = false →
     ∃ t, exec .castleEventWrite s = .next t ∧ t.castle.events = rest ∧ t.castle.cetail = s.castle.cetail + 1 ∧
       (∀ i, i < 32 → t.byte (pa + i) = (e.toBytes s.castle.cetail).getD i 0) ∧
       (∀ x, (x < pa ∨ pa + 32 ≤ x) → t.byte x = s.byte x))) ∧
  (∀ (s : State), s.castle.cmds = [] → s.castle.hasRoom = false →
    exec .castleEventWrite s = .next { s with castle := { s.castle with events := s.castle.events.filter (fun e => !e.isHint) } }) ∧
  (∀ (s : State), s.castle.cmds = [] → s.castle.hasRoom = true →
    (let pa := s.castle.cebase.toNat + 32 * (s.castle.cetail.toNat % 2 ^ s.castle.celog.toNat)
     s.locked (pa / 128) = true ∨ s.parked? (pa / 128) = true → exec .castleEventWrite s = .next s)) ∧
  (∀ (s : State), engineFree s 4 → s.castle.hotbase = 0 →
    (∃ t e, exec .hotnessSync s = .next t ∧ t.castle.hot = [] ∧ t.hostCache = [] ∧ t.castle.csres = 0 ∧ t.castle.events = s.castle.events ++ [e] ∧
      e.kind = 4 ∧ t.mem = s.mem) ∧
    (∃ t e, exec .hotnessDecay s = .next t ∧ t.castle.hot = [] ∧ t.hostCache = [] ∧ t.castle.csres = 0 ∧ t.castle.events = s.castle.events ++ [e] ∧
      e.kind = 4 ∧ t.mem = s.mem)) ∧
  (∀ (s : State) k, s.castle.hotbase ≠ 0 → s.castle.hotbase.toNat % 8 = 0 → k ∈ s.hotKeys → (∀ l, s.lost l = false) →
    engineFree s 4 → s.castle.moves = [] → nothingComing s →
    (let a := s.castle.hotbase.toNat + 2 * k
     let n := min (s.readNat a 2 + tget 0 s.castle.hot k) 0xFFFF
     (∃ t, exec .hotnessSync s = .next t ∧ t.castle.hot = [] ∧ t.hostCache = [] ∧ t.natAt a 2 = n) ∧
     (∃ t, exec .hotnessDecay s = .next t ∧ t.castle.hot = [] ∧ t.hostCache = [] ∧ t.natAt a 2 = n >>> min s.castle.dshift.toNat 16))) ∧
  (∀ (s : State), engineFree s 3 → s.castle.ckbusy = true → exec .checkpoint s = .next (s.csres 1)) ∧
  (∀ (s : State), engineFree s 3 → s.castle.ckbusy = false →
    ¬(halfOk s.castle.ckdst0 0x400000000000 0x600000000000 = true ∧ halfOk s.castle.ckdst1 0x600000000000 0x800000000000 = true) →
    exec .checkpoint s = .next (s.csres 6)) ∧
  (∀ (s : State), engineFree s 3 → s.castle.ckbusy = false → halfOk s.castle.ckdst0 0x400000000000 0x600000000000 = true →
    halfOk s.castle.ckdst1 0x600000000000 0x800000000000 = true →
    ∃ t, exec .checkpoint s = .next t ∧ t.castle.csres = 0 ∧ t.castle.ckbusy = true ∧ t.castle.ckdone = 0 ∧ t.castle.ckpois = 0 ∧
      t.castle.ckGroup = 0 ∧ t.mem = s.mem) ∧
  (∀ (s : State) k, s.castle.ckbusy = true → s.castle.ringHeld = false → s.castle.ckGroup < imageRuns → s.castle.moves = [] → s.runHeld = false → k < 64 →
    (∀ l, s.lost l = false) → halfOk s.castle.ckdst0 0x400000000000 0x600000000000 = true →
    halfOk s.castle.ckdst1 0x600000000000 0x800000000000 = true →
    (let n := 64 * s.castle.ckGroup + k
     s.copyRun.castle.ckdone = s.castle.ckdone + 64 ∧ s.copyRun.castle.ckGroup = s.castle.ckGroup + 1 ∧
     (s.copyRun.homeRead (s.castle.groupPa (n / 4) / 128 + n % 4)).1 = (s.homeRead (imageLine n)).1 ∧
     (s.copyRun.homeRead (s.castle.groupPa (n / 4) / 128 + n % 4)).2.2 = (s.homeRead (imageLine n)).2.2)) ∧
  (∀ (s : State), s.castle.ckbusy = true → imageRuns ≤ s.castle.ckGroup →
    ∃ t e, exec .checkpointDone s = .next t ∧ t.castle.ckbusy = false ∧ t.castle.events = s.castle.events ++ [e] ∧ e.kind = 3 ∧
      t.mem = s.mem) ∧
  (∀ (s : State), s.castle.ckbusy = false → exec .checkpointDone s = .next s)

/-- R394, R396: recovery writes the log back, so that every line takes its first entry's image, and frees the grid's
blocks; the relaunch starts the record again with its log empty.
Where a clause rests on the model's own choice or inference and not on the spec's words, that is log 36. -/
def Obligations.RollbackRecovers : Prop :=
  (∀ (s : State) g, s.grid? s.on.w.grid = some g → g.recover = true → gridQueue g.id < s.qctxs.length →
    (s.qctx (gridQueue g.id)).rbst ≠ 3 → (∀ e ∈ s.eng, e.block.grid ≠ g.id) → nothingComing s →
    (∀ m ∈ s.msgs, m.grid = some g.id → m.put = none) → (∀ l, s.lost l = false) → s.castle.moves = [] →
    s.undoHeld (s.qctx (gridQueue g.id)) = false →
    (let q := s.qctx (gridQueue g.id)
     let entry (n : Nat) : Nat := q.ulbase.toNat + 160 * n
     let lineAt (n : Nat) : Nat := s.readNat (entry n) 8 % 2 ^ 47 / 128
     (∀ n, n < q.ulused.toNat → 128 * lineAt n + 128 ≤ q.ulbase.toNat ∨ entry q.ulused.toNat ≤ 128 * lineAt n) →
     (∀ l, l ∈ q.ulpois → 128 * l + 128 ≤ q.ulbase.toNat ∨ entry q.ulused.toNat ≤ 128 * l) →
     ∃ t, exec .rollbackRecovery s = .next t ∧ (t.qctx (gridQueue g.id)).rbst = 3 ∧
       (∀ b ∈ t.blocks, b.id.grid ≠ g.id) ∧
       (∀ n, n < q.ulused.toNat → (∀ m, m < n → lineAt m ≠ lineAt n) →
         t.homeRead (lineAt n) = if q.ulpois.contains (lineAt n) then (0, eInit, true) else
           (BitVec.ofNat 1024 (s.readNat (entry n + 0x10) 128), BitVec.ofNat 64 (s.readNat (entry n + 0x90) 8), false)) ∧
       (∀ l, (∀ n, n < q.ulused.toNat → lineAt n ≠ l) → t.homeRead l = s.homeRead l))) ∧
  (∀ (s : State) g, s.grid? s.on.w.grid = some g → g.recover = true → gridQueue g.id < s.qctxs.length →
    (s.qctx (gridQueue g.id)).rbst = 3 →
    ∃ t, exec .gridRelaunch s = .next t ∧ t.grid? s.on.w.grid = some g.again ∧ t.mem = s.mem ∧
      (let q := s.qctx (gridQueue g.id)
       t.qctx (gridQueue g.id) = { q with ulused := 0, ulpois := [], rbst := if q.ulsize = 0 then 2 else 1,
                                          reln := true, rbcnt := q.rbcnt + 1 })) ∧
  (∀ (s : State) g, s.grid? s.on.w.grid = some g → (s.qctx (gridQueue g.id)).rbst ≠ 3 → exec .gridRelaunch s = .next s)

/-! ### The fabric: requests, admission, incarnations, keys, Waipor, the engines and collectives (R398-R420) -/

namespace Sys2Proof.Claims

/-- The answer leaves through its station, or is held there while the station's key is exhausted (R413, R414). -/
def replied (s t : State) (r : PeerReply) : Prop :=
  if (((s.fab.stations[r.station]?).getD {}).use s.now).2 = true then
    t.fab.replies = s.fab.replies ++ [r] ∧ t.fab.heldReplies = s.fab.heldReplies
  else t.fab.replies = s.fab.replies ∧ t.fab.heldReplies = s.fab.heldReplies ++ [r]

/-- A request of a peer is taken: the device has an identifier, the station is up, and the incarnation is current. -/
def takes (s : State) (r : PeerReq) : Prop :=
  s.fab.fvalid = true ∧ bit s.fab.stup r.station.toNat = true ∧ s.staleInc r = false

/-- A line of this device that nothing holds back from a peer. -/
def open_ (s : State) (line : Nat) : Prop :=
  (tierOf (128 * line)).isSome = true ∧ s.peerWaits line = false

/-- The answer to a request, without data. -/
def plainAnswer (r : PeerReq) (st : PeerStatus) : PeerReply :=
  { dev := r.src.toNat, id := r.id, st := st, side := eInit, station := r.station.toNat }

end Sys2Proof.Claims

/-- R399, R402-R406, R408: a station trains only under an identifier; a peer's request is dropped in a stale incarnation,
answered with error outside memory or at a poisoned line, and otherwise performed at the home; a bulk write without room
is dropped whole, a reservation is granted in order, its window runs from its grant time for 20,000 ns, and a write sent within it is admitted when it arrives; a dropped write
goes again from then on, and its sixteenth drop ends it; a response or a time-out ends our own request.
Where a clause rests on the model's own choice or inference and not on the spec's words, that is log 16, 42, 44 and 73. -/
def Obligations.PeerRequests : Prop :=
  (∀ (s : State) st, s.fab.fvalid = true → ∃ t, exec (.stationLinkChange st true) s = .next t ∧
    ∀ i, i < 16 → bit t.fab.stup i = (i == st.toNat || bit s.fab.stup i)) ∧
  (∀ (s : State) st, ∃ t, exec (.stationLinkChange st false) s = .next t ∧
    ∀ i, i < 16 → bit t.fab.stup i = (i != st.toNat && bit s.fab.stup i)) ∧
  (∀ (s : State) st, s.fab.fvalid = false → ∃ t, exec (.stationLinkChange st true) s = .next t ∧ t.fab.stup = s.fab.stup) ∧
  (∀ (s : State) r, (s.fab.fvalid = false ∨ bit s.fab.stup r.station.toNat = false) →
    exec (.peerRequestReceive r) s = .next s) ∧
  (∀ (s : State) r, s.fab.fvalid = true → bit s.fab.stup r.station.toNat = true → s.staleInc r = true → announces r = false →
    ∃ t, exec (.peerRequestReceive r) s = .next t ∧ t.fab.incdrop = satInc s.fab.incdrop ∧ t.mem = s.mem ∧
      t.fab.replies = s.fab.replies) ∧
  (∀ (s : State) r line halves side, takes s r → r.op = .read line halves side → open_ s line → s.atPeer line = false →
    (s.homeRead line).2.2 = false →
    ∃ t, exec (.peerRequestReceive r) s = .next t ∧ t.mem = s.mem ∧
      replied s t { plainAnswer r .ok with
        data := merge (byteBits (halfMask halves)) 0 (s.homeRead line).1, side := if side then (s.homeRead line).2.1 else eInit }) ∧
  (∀ (s : State) r line halves side, takes s r → r.op = .read line halves side →
    ((tierOf (128 * line)).isNone = true ∨ (open_ s line ∧ s.atPeer line = false ∧ (s.homeRead line).2.2 = true)) →
    ∃ t, exec (.peerRequestReceive r) s = .next t ∧ t.mem = s.mem ∧ replied s t (plainAnswer r .error)) ∧
  (∀ (s : State) r line data mask side sm, takes s r → r.op = .write line data mask side sm false → open_ s line →
    s.lost line = false → nothingComing s →
    ∃ t, exec (.peerRequestReceive r) s = .next t ∧ replied s t (plainAnswer r .ok) ∧
      (∀ a, t.byte a = if a / 128 = line ∧ bit mask (a % 128) = true then byteAt data (a % 128) else s.byte a)) ∧
  (∀ (s : State) r line data mask side sm, takes s r → r.op = .write line data mask side sm true → open_ s line →
    s.lost line = false → nothingComing s →
    ∃ t st, exec (.peerRequestReceive r) s = .next t ∧ replied s t (plainAnswer r st) ∧
      ((st = .ok ∧ t.fab.dropcnt = s.fab.dropcnt ∧
        (∀ a, t.byte a = if a / 128 = line ∧ bit mask (a % 128) = true then byteAt data (a % 128) else s.byte a)) ∨
       (st = .drop ∧ t.fab.dropcnt = satInc s.fab.dropcnt ∧ t.mem = s.mem ∧
        s.fab.windowOf s.gtime.toNat r.src.toNat r.station.toNat 128 = none ∧
        1048576 < (s.fab.bulk[r.station.toNat]?).getD 0 + s.fab.aside s.gtime.toNat r.station.toNat + 128))) ∧
  (∀ (s : State) src st bytes, s.fab.fvalid = true → s.staleFrom src.dev src.die src.inc = false →
    (let now := s.gtime.toNat
     let mine := s.fab.rsv.filter (fun r => r.station == st.toNat)
     ∃ t r, exec (.bulkReservationRequest src st bytes) s = .next t ∧ t.fab.rsv = s.fab.rsv ++ [r] ∧ r.src = src.dev.toNat ∧
       r.station = st.toNat ∧ r.bytes = min bytes 1048576 ∧ t.fab.rsvcnt = satInc s.fab.rsvcnt ∧ now ≤ r.start ∧
       replied s t { dev := src.dev.toNat, id := 0, st := .ok, code := r.start, station := st.toNat } ∧
       (sumNat (mine.map (fun q => q.bytes)) + r.bytes ≤ 1048576 → r.start = now) ∧
       (1048576 < sumNat (mine.map (fun q => q.bytes)) + r.bytes → ∀ q ∈ mine, q.start + 20000 ≤ r.start))) ∧
  (∀ (s : State) src st bytes, s.fab.fvalid = true → s.staleFrom src.dev src.die src.inc = true →
    ∃ t, exec (.bulkReservationRequest src st bytes) s = .next t ∧ t.fab.rsv = s.fab.rsv ∧
      t.fab.incdrop = satInc s.fab.incdrop) ∧
  (∀ (s : State) r n now src st, s.fab.windowOf now src st n = some r →
    r ∈ s.fab.rsv ∧ r.src = src ∧ r.station = st ∧ n ≤ r.bytes ∧ r.start ≤ now) ∧
  (∀ (r : Reservation) now, r.open_ now = true ↔ r.start ≤ now ∧ now < r.start + 20000) ∧
  (∀ (s : State) o tg, s.on.m = 1 → s.fab.out.find? (fun o => o.id == s.on.n) = some o → o.window = some tg →
    s.gtime.toNat < tg → exec .reservationWindowStart s = .next s) ∧
  (∀ (s : State) o tg, s.on.m = 1 → s.fab.out.find? (fun o => o.id == s.on.n) = some o → o.window = some tg →
    tg ≤ s.gtime.toNat → (∀ p ∈ s.fab.fences, some p.1 ≠ o.fence) →
    (let k := (s.fab.stations[s.stationOf o.line o.dev]?).getD {}
     k.lapsed = false → (k.use s.now).2 = true →
     ∃ t, exec .reservationWindowStart s = .next t ∧ t.mem = s.mem ∧
       (∀ q ∈ t.fab.out, q.id = s.on.n → q.left = some s.now ∧ q.window = none ∧ q.op = o.op ∧ q.drops = o.drops))) ∧
  (∀ (s : State) r, s.fab.rsv[s.on.n]? = some r → r.start + 20000 + s.fab.treq.toNat ≤ s.gtime.toNat →
    ∃ t, exec .reservationWindowExpire s = .next t ∧ t.fab.rsv = s.fab.rsv.eraseIdx s.on.n ∧ t.mem = s.mem) ∧
  (∀ (s : State) r, s.fab.rsv[s.on.n]? = some r → s.gtime.toNat < r.start + 20000 + s.fab.treq.toNat →
    exec .reservationWindowExpire s = .next s) ∧
  (∀ (s : State) id st data side, (∀ o ∈ s.fab.out, o.id = id → o.answer.isSome = true ∨ o.left = none) →
    exec (.peerResponseReceive id st data side) s = .next s) ∧
  (∀ (s : State) o st data side, s.fab.out.find? (fun q => q.id == o.id && q.answer.isNone && q.left.isSome) = some o →
    (∀ d k, o.owner ≠ .reserve d k) → st.st ≠ .drop →
    ∃ t, exec (.peerResponseReceive o.id st data side) s = .next t ∧ t.mem = s.mem ∧
      (∀ q ∈ t.fab.out, q.id = o.id → q.answer = some (st.st, data, side)) ∧
      (∀ q ∈ s.fab.out, q.id ≠ o.id → (∀ d k, q.owner ≠ .rookGet d k) → q.owner ≠ .hub → q ∈ t.fab.out)) ∧
  (∀ (s : State) o sel data side, s.fab.out.find? (fun q => q.id == o.id && q.answer.isNone && q.left.isSome) = some o →
    (∀ d k, o.owner ≠ .reserve d k) → 15 ≤ o.drops →
    ∃ t, exec (.peerResponseReceive o.id ⟨.drop, sel⟩ data side) s = .next t ∧
      (∀ q ∈ t.fab.out, q.id = o.id → q.answer = some (.drop, 0, eInit))) ∧
  (∀ (s : State) o sel data side, s.fab.out.find? (fun q => q.id == o.id && q.answer.isNone && q.left.isSome) = some o →
    (∀ d k, o.owner ≠ .reserve d k) → o.drops < 15 → o.id < s.fab.nextReq → (∀ q ∈ s.fab.out, q.id = o.id → q = o) →
    ∃ t, exec (.peerResponseReceive o.id ⟨.drop, sel⟩ data side) s = .next t ∧ t.mem = s.mem ∧
      (∀ q ∈ t.fab.out, q.id = o.id → q = { o with drops := o.drops + 1, left := none })) ∧
  (∀ (s : State) o u, s.fab.out.find? (fun q => q.id == o.id && q.answer.isNone) = some o → o.left = some u →
    (∀ d k, o.owner ≠ .reserve d k) → u + s.fab.treq.toNat ≤ s.now →
    ∃ t, exec (.peerRequestTimeout o.id) s = .next t ∧ t.fab.tocnt = satInc s.fab.tocnt ∧ t.mem = s.mem ∧
      (∀ q ∈ t.fab.out, q.id = o.id → q.answer = some (.error, 0, eInit))) ∧
  (∀ (s : State) o, s.fab.out.find? (fun q => q.id == o.id && q.answer.isNone) = some o → o.left = none →
    exec (.peerRequestTimeout o.id) s = .next s)

namespace Sys2Proof.Claims

/-- The hub's message has gone to every other device of the fabric, as a request of die `d`, where no station's exhausted key is
past KTO (R401, R407, R409). -/
def told (s t : State) (d : Nat) (op : PeerOp) : Prop :=
  s.fab.fvalid = true → (∀ k ∈ s.fab.stations, k.lapsed = false) →
    ∀ k, k < 1024 → k ≠ s.fab.fabid.toNat → Config.joined k = true →
      ∃ o ∈ t.fab.out, o.owner = .hub ∧ o.dev = k ∧ o.die = d ∧ o.op = op ∧ (o.left.isSome = true ∨ o.heldK = true)

end Sys2Proof.Claims

/-- R407-R409, R413, R414: an announcement records the incarnation and lifts the fence; a notice fences and ends the
requests that have not left; a die's reset raises its incarnation and announces it, under QUIESCE after a notice and only once
every device has acknowledged or 2 × TREQ have passed; a key is installed as the next key or refused, and at KTO the held traffic ends with error.
Where a clause rests on the model's own choice or inference and not on the spec's words, that is log 16, 43 and 45. -/
def Obligations.ResetsAndKeys : Prop :=
  (∀ (s : State) dev d inc, s.fab.fvalid = true → ∃ t, exec (.incarnationAnnounce dev d inc) s = .next t ∧ t.mem = s.mem ∧
    tget 0 t.fab.peerInc (4 * dev.toNat + d.toNat) = inc ∧ (∀ p ∈ t.fab.fences, p.1 ≠ 4 * dev.toNat + d.toNat) ∧
    (∀ k, k ≠ 4 * dev.toNat + d.toNat → tget 0 t.fab.peerInc k = tget 0 s.fab.peerInc k)) ∧
  (∀ (s : State) dev d, s.fab.fvalid = true → ∃ t, exec (.quiesceNotice dev d) s = .next t ∧ t.mem = s.mem ∧
    (4 * dev.toNat + d.toNat, s.now) ∈ t.fab.fences ∧
    (∀ o ∈ t.fab.out, o.fence = some (4 * dev.toNat + d.toNat) → o.left = none →
      o.answer.isSome = true)) ∧
  (∀ (s : State) dev q, s.fab.quiesce = some q → ∃ t q1, exec (.quiesceAcknowledge dev) s = .next t ∧
    t.fab.quiesce = some q1 ∧ q1.die = q.die ∧ q1.since = q.since ∧
    (∀ d, d ∈ q1.acks ↔ d = dev.toNat ∨ d ∈ q.acks)) ∧
  (∀ (s : State), s.on.n < s.fab.inc.length →
    (s.fab.rstpol = false ∨ ∃ q, s.fab.quiesce = some q ∧ q.die = s.on.n ∧
      (s.allAcked q = true ∨ q.since + 2 * s.fab.treq.toNat ≤ s.now)) →
    ∃ t, exec .dieReset s = .next t ∧ t.fab.inc[s.on.n]? = (s.fab.inc[s.on.n]?).map (· + 1) ∧ t.fab.quiesce = none ∧
      (∀ o ∈ t.fab.out, o.die = s.on.n → o.owner = .hub) ∧ t.mem = s.mem ∧
      (s.on.n < s.dies.length → (t.die s.on.n).clk0 = s.clkOf s.on.n) ∧
      (∀ i, s.fab.inc[s.on.n]? = some i → told s t s.on.n (.announce (BitVec.ofNat 2 s.on.n) (i + 1)))) ∧
  (∀ (s : State), s.fab.rstpol = true → s.fab.quiesce = none →
    ∃ t, exec .dieReset s = .next t ∧ t.fab.quiesce = some { die := s.on.n, since := s.now } ∧ t.fab.inc = s.fab.inc ∧
      told s t s.on.n (.notice (BitVec.ofNat 2 s.on.n))) ∧
  (∀ (s : State) q, s.fab.rstpol = true → s.fab.quiesce = some q → q.die = s.on.n → s.allAcked q = false →
    s.now < q.since + 2 * s.fab.treq.toNat → exec .dieReset s = .next s) ∧
  (∀ (s : State), heard s → keyTarget s.fab.ktgt.toNat = none →
    ∃ t, exec .keyInstall s = .next t ∧ t.fab.kres = 2 ∧ t.fab.stations = s.fab.stations ∧ t.fab.flows = s.fab.flows) ∧
  (∀ (s : State) (st : BitVec 4) k, heard s → s.fab.ktgt.toNat = st.toNat → s.fab.stations[st.toNat]? = some k → k.next.isSome = true →
    ∃ t, exec .keyInstall s = .next t ∧ t.fab.kres = 1 ∧ t.fab.stations = s.fab.stations) ∧
  (∀ (s : State) (st : BitVec 4) k, heard s → s.fab.ktgt.toNat = st.toNat → s.fab.stations[st.toNat]? = some k → k.next = none →
    (∀ o ∈ s.fab.out, o.heldAt st.toNat = false) → (∀ r ∈ s.fab.heldReplies, r.station ≠ st.toNat) →
    ∃ t, exec .keyInstall s = .next t ∧ t.fab.kres = 0 ∧ t.fab.stations[st.toNat]? =
      some { k with next := some ⟨s.fab.salt, s.fab.key⟩, kx := none, lapsed := false }) ∧
  (∀ (s : State) (f : BitVec 10), heard s → s.fab.ktgt.toNat = 1024 + f.toNat → s.flowBusy f.toNat = false →
    (s.flow f.toNat).keys.next = none →
    ∃ t, exec .keyInstall s = .next t ∧ t.fab.kres = 0 ∧ (t.flow f.toNat).keys.next = some ⟨s.fab.salt, s.fab.key⟩ ∧
      (t.flow f.toNat).keys.kx = none ∧ (t.flow f.toNat).keys.cur = (s.flow f.toNat).keys.cur) ∧
  (∀ (s : State) (st : BitVec 4) k, s.fab.stations[st.toNat]? = some k → k.late s.now s.fab.kto.toNat = true →
    (∀ o ∈ s.fab.out, o.owner ≠ .hub ∧ ∀ d n, o.owner ≠ .rookGet d n) →
    ∃ t, exec (.keyInstallTimeout (.station st)) s = .next t ∧ t.mem = s.mem ∧
      t.fab.kxerr.toNat = min (s.fab.kxerr.toNat + (s.fab.out.filter (PeerOut.heldAt st.toNat)).length) 0xFFFFFFFF ∧
      t.fab.stations[st.toNat]? = some { k with lapsed := true } ∧
      (∀ o ∈ s.fab.out, o.heldAt st.toNat = true → { o with answer := some (.error, 0, eInit) } ∈ t.fab.out) ∧
      (∀ o ∈ s.fab.out, o.heldAt st.toNat = false → o ∈ t.fab.out)) ∧
  (∀ (s : State) (f : BitVec 10), (s.flow f.toNat).keys.late s.now s.fab.kto.toNat = true → s.flowBusy f.toNat = false →
    ∃ t, exec (.keyInstallTimeout (.flow f)) s = .next t ∧ (t.flow f.toNat).keys.lapsed = true ∧ (t.flow f.toNat).held = [] ∧
      (t.flow f.toNat).queue = [] ∧ (∀ p ∈ t.fab.plans, f.toNat ∈ p.flows → p.status.getD 0 ≠ 0) ∧
      (t.flow f.toNat).sent = (s.flow f.toNat).sent.filter (fun x => !((s.flow f.toNat).held.contains x.seq)) ∧
      t.mem = s.mem) ∧
  (∀ (k : KeySlot) now, k.next = none → k.cur.isSome = true →
    ((k.use now).2 = true ↔ k.ctr < 2 ^ 32 - 1) ∧ ((k.use now).1.kx ≠ k.kx → k.ctr = 2 ^ 32 - 2)) ∧
  (∀ (k : KeySlot) x now, k.next = some x → (k.use now).2 = true ∧ (k.use now).1.cur = some x ∧ (k.use now).1.ctr = 1 ∧
    (k.use now).1.sel = !k.sel ∧ (k.use now).1.prev = k.cur) ∧
  (∀ (k : KeySlot), (k.seen k.sel).prev = none ∧ (k.seen k.sel).cur = k.cur ∧ k.seen (!k.sel) = k)

/-- R410-R412: a flow sends at most 32,768 unacknowledged segments, each with the next bytes of its queue encrypted under a fresh
counter and tagged; an authentic segment ends what it acknowledges, its number is noted, in order, out of order or again, and the
first gap is acknowledged; a segment is
sent again when overtaken three times or after RTO, and the sixteenth expiry in a row takes the flow down; a segment whose
tag fails is dropped and counted.
Where a clause rests on the model's own choice or inference and not on the spec's words, that is log 46. -/
def Obligations.WaiporFlows : Prop :=
  (∀ (s : State) (f : BitVec 10) (seq : Word) q rest bs, s.flowOpen f.toNat = true → s.flowBusy f.toNat = false →
    (s.flow f.toNat).nextSeq % 2 ^ 32 = seq.toNat → (s.flow f.toNat).queue = q :: rest → s.segRead q = .ok bs →
    (∀ x ∈ (s.flow f.toNat).sent, x.seq % 2 ^ 32 ≠ seq.toNat) → (s.flow f.toNat).sent.length < 32768 →
    ((s.flow f.toNat).keys.use s.now).2 = true →
    ∃ t y, exec (.waiporSegmentSend f seq) s = .next t ∧ (t.flow f.toNat).nextSeq = (s.flow f.toNat).nextSeq + 1 ∧
      (t.flow f.toNat).sent = (s.flow f.toNat).sent ++
        [{ seq := (s.flow f.toNat).nextSeq, at_ := s.now, sends := 1, data := q }] ∧ (t.flow f.toNat).queue = rest ∧
      (t.flow f.toNat).wire = some y ∧ y.data = true ∧ y.seq = seq ∧ y.payload.length ≤ 4096 ∧ y.ctr.toNat = (t.flow f.toNat).keys.ctr - 1 ∧
      y.ksel = (t.flow f.toNat).keys.sel ∧
      (∀ k, (t.flow f.toNat).keys.cur = some k → segAuthentic y k = true ∧
        y.payload = (Config.gcmBody k.salt k.key y.ctr bs).take 4096) ∧
      (t.flow f.toNat).keys = ((s.flow f.toNat).keys.use s.now).1) ∧
  (∀ (s : State) (f : BitVec 10) (seq : Word), s.flowOpen f.toNat = true →
    (∀ x ∈ (s.flow f.toNat).sent, x.seq % 2 ^ 32 ≠ seq.toNat) → 32768 ≤ (s.flow f.toNat).sent.length →
    exec (.waiporSegmentSend f seq) s = .next s) ∧
  (∀ (s : State) (f : BitVec 10) (seq : Word) x, s.flowOpen f.toNat = true →
    (s.flow f.toNat).sent.find? (fun x => x.seq % 2 ^ 32 == seq.toNat) = some x → x.later < 3 →
    exec (.waiporSegmentSend f seq) s = .next s) ∧
  (∀ (s : State) (f : BitVec 10) (seq : Word) x bs, s.flowOpen f.toNat = true → s.flowBusy f.toNat = false →
    (s.flow f.toNat).sent.find? (fun x => x.seq % 2 ^ 32 == seq.toNat) = some x → 3 ≤ x.later → s.segRead x.data = .ok bs →
    ((s.flow f.toNat).keys.use s.now).2 = true →
    ∃ t, exec (.waiporSegmentSend f seq) s = .next t ∧
      (∃ y, (t.flow f.toNat).wire = some y ∧ y.data = true ∧ y.seq.toNat = x.seq % 2 ^ 32) ∧
      (∀ z ∈ (t.flow f.toNat).sent, z.seq = x.seq → z.at_ = s.now ∧ z.later = 0) ∧
      (s.flowPa f.toNat % 64 = 0 → settlesAt s (s.flowPa f.toNat) 64 →
        t.flowWord f.toNat 0x30 = (s.flowWord f.toNat 0x30 + 1) % 2 ^ 32)) ∧
  (∀ (s : State) (f : BitVec 10) (seq : Word) x, s.flowOpen f.toNat = true →
    (s.flow f.toNat).sent.find? (fun x => x.seq % 2 ^ 32 == seq.toNat) = some x → s.now < x.at_ + s.rto f.toNat →
    exec (.waiporRtoExpire f seq) s = .next s) ∧
  (∀ (s : State) (f : BitVec 10) (seq : Word) x bs, s.flowOpen f.toNat = true → s.flowBusy f.toNat = false →
    (s.flow f.toNat).sent.find? (fun x => x.seq % 2 ^ 32 == seq.toNat) = some x → x.at_ + s.rto f.toNat ≤ s.now →
    (s.flow f.toNat).held.contains x.seq = false → s.segRead x.data = .ok bs →
    (s.flow f.toNat).rtos < 15 → ((s.flow f.toNat).keys.use s.now).2 = true →
    ∃ t, exec (.waiporRtoExpire f seq) s = .next t ∧ (t.flow f.toNat).rtos = (s.flow f.toNat).rtos + 1 ∧
      (∃ y, (t.flow f.toNat).wire = some y ∧ y.data = true ∧ y.seq.toNat = x.seq % 2 ^ 32) ∧
      (∀ z ∈ (t.flow f.toNat).sent, z.seq = x.seq → z.at_ = s.now ∧ z.later = 0) ∧
      (t.flow f.toNat).sent.length = (s.flow f.toNat).sent.length) ∧
  (∀ (s : State) (f : BitVec 10) (seq : Word) x, s.flowOpen f.toNat = true → s.flowBusy f.toNat = false →
    (s.flow f.toNat).sent.find? (fun x => x.seq % 2 ^ 32 == seq.toNat) = some x → x.at_ + s.rto f.toNat ≤ s.now →
    (s.flow f.toNat).held.contains x.seq = false →
    15 ≤ (s.flow f.toNat).rtos → s.flowPa f.toNat % 64 = 0 → settlesAt s (s.flowPa f.toNat) 64 →
    ∃ t, exec (.waiporRtoExpire f seq) s = .next t ∧ (t.flow f.toNat).sent = [] ∧ (t.flow f.toNat).queue = [] ∧
      (∀ p ∈ t.fab.plans, f.toNat ∈ p.flows → p.status.getD 0 ≠ 0) ∧ (t.flowWord f.toNat 0).testBit 3 = true) ∧
  (∀ (s : State) (f : BitVec 10) seg, f.toNat < s.fab.nflow.toNat → (s.flowWord f.toNat 0).testBit 2 = true →
    s.flowMatch f.toNat seg = true → (∀ k ∈ (s.flow f.toNat).keys.candidates seg.ksel, segAuthentic seg k = false) →
    s.flowBusy f.toNat = false → s.flowPa f.toNat % 64 = 0 → settlesAt s (s.flowPa f.toNat) 64 →
    ∃ t, exec (.waiporSegmentReceive f seg) s = .next t ∧ t.fab.flows = s.fab.flows ∧
      t.flowWord f.toNat 0x34 = (s.flowWord f.toNat 0x34 + 1) % 2 ^ 32) ∧
  (∀ (s : State) (f : BitVec 10) seg k, f.toNat < s.fab.nflow.toNat → (s.flowWord f.toNat 0).testBit 2 = true →
    s.flowMatch f.toNat seg = true → s.flowBusy f.toNat = false →
    k ∈ (s.flow f.toNat).keys.candidates seg.ksel → segAuthentic seg k = true →
    (let w := s.flow f.toNat
     let acks := w.ackTo (nearSeq ((w.sent.head?.map (fun x => x.seq)).getD w.nextSeq) seg.ackb.toNat) seg.sack
     let q := nearSeq w.ackb seg.seq.toNat
     ∃ t, exec (.waiporSegmentReceive f seg) s = .next t ∧ t.fab.plans = s.fab.plans ∧
       (t.flow f.toNat).sent = acks.sent ∧ (t.flow f.toNat).rtos = acks.rtos ∧ (t.flow f.toNat).nextSeq = w.nextSeq ∧
       (seg.data = false → (t.flow f.toNat).ackb = w.ackb ∧ (t.flow f.toNat).got = w.got) ∧
       (seg.data = true → q = w.ackb → w.ackb ∉ w.got → (t.flow f.toNat).ackb ∉ (t.flow f.toNat).got ∧ w.ackb < (t.flow f.toNat).ackb ∧
         (∀ x, w.ackb < x → x < (t.flow f.toNat).ackb → x ∈ w.got)) ∧
       (seg.data = true → w.ackb < q → q ∉ w.got → w.ackb ∉ w.got →
         (t.flow f.toNat).ackb = w.ackb ∧ (∀ x, x ∈ (t.flow f.toNat).got ↔ (x = q ∨ x ∈ w.got) ∧ w.ackb ≤ x)) ∧
       (seg.data = true → (q < w.ackb ∨ q ∈ w.got) → (t.flow f.toNat).ackb = w.ackb ∧ (t.flow f.toNat).got = w.got) ∧
       (seg.data = true → s.flowOpen f.toNat = true → (w.keys.use s.now).2 = true → ∃ y, (t.flow f.toNat).wire = some y ∧ y.data = false ∧
         y.ackb.toNat = (t.flow f.toNat).ackb % 2 ^ 32))) ∧
  (∀ (s : State) (f : BitVec 10) seg, s.flowMatch f.toNat seg = false → exec (.waiporSegmentReceive f seg) s = .next s) ∧
  (∀ (w : Flow) seq, seq = w.ackb → w.got = [] → (w.take seq).ackb = seq + 1 ∧ (w.take seq).got = []) ∧
  (∀ (w : Flow) seq, w.ackb < seq → seq ∉ w.got → w.ackb ∉ w.got → (w.take seq).ackb = w.ackb ∧ seq ∈ (w.take seq).got) ∧
  (∀ (w : Flow) seq, (seq < w.ackb ∨ seq ∈ w.got) → (w.take seq).ackb = w.ackb ∧ (w.take seq).got = w.got) ∧
  (∀ (w : Flow) ackb sack x, x ∈ w.sent → ackb ≤ x.seq → ackb + 64 < x.seq → ∃ y ∈ (w.ackTo ackb sack).sent, y.seq = x.seq) ∧
  (∀ (w : Flow) ackb sack, ∀ y ∈ (w.ackTo ackb sack).sent, ackb ≤ y.seq)

namespace Sys2Proof.Claims

/-- An engine finds line `pa` of its own die ready to take bytes for its block's grid, which logs nothing. -/
def engTakes (s : State) (e : EngOp) (g : Grid) (pa : Nat) : Prop :=
  homeDie (pa / 128) = dieOfCore e.core ∧ s.lost (pa / 128) = false ∧ s.locked (pa / 128) = false ∧
    s.outOf (.engine e.id) = [] ∧ s.logging e.block.grid = false ∧ g.id = e.block.grid ∧ nothingComing s

end Sys2Proof.Claims

/-- R218, R220, R221: a copy writes the bytes that it has read to its next destination line and goes on; a gather/scatter
row reads its index first, then moves its bytes. -/
def Sys2Proof.Claims.CopiesAndRows : Prop :=
  (∀ (s : State) e b g s1 s2 bs sd pa, s.eng.find? (fun e => e.id == s.on.n && e.gather == false && !e.waiting) = some e →
    (∀ e1 ∈ s.eng, e1.id = e.id → e1 = e) → s.block? e.block = some b → s.grid? e.block.grid = some g → e.conv = 0 →
    (let p := walkAt e.dshape e.dst e.next
     let k := min (min p.2 (128 - p.1.toNat % 128)) (e.total - e.next)
     s.engReads (.engine e.id) b g false (spans (walkAt e.sshape e.src) e.next k) = .got s1 bs sd →
     s1.engXlat b g p.1 k .write = (s2, .ok (.mem pa)) → pa % 128 = p.1.toNat % 128 → engTakes s2 e g pa →
     ∃ t, exec .copyLineWritten s = .next t ∧ (∀ i, i < k → i < bs.length → t.byte (pa + i) = bs.getD i 0) ∧
       (∀ a, (a < pa ∨ pa + k ≤ a) → t.byte a = s2.byte a) ∧
       (if e.total ≤ e.next + k then ∀ e1 ∈ t.eng, e1.id ≠ e.id else ∀ e1 ∈ t.eng, e1.id = e.id → e1.next = e.next + k))) ∧
  (∀ (s : State) e b g s1 bs sd, s.eng.find? (fun e => e.id == s.on.n && e.gather == true && !e.waiting) = some e →
    (∀ e1 ∈ s.eng, e1.id = e.id → e1 = e) → s.block? e.block = some b → s.grid? e.block.grid = some g → e.sshape = [] →
    s.engReads (.engine e.id) b g false (spans (flat (e.idx + BitVec.ofNat 64 (4 * (e.next / e.rowb)))) 0 4) = .got s1 bs sd →
    ∃ t, exec .gatherRowDone s = .next t ∧ t.mem = s1.mem ∧ (∀ e1 ∈ t.eng, e1.id = e.id → e1.sshape = [(natLE bs : Int)])) ∧
  (∀ (s : State) e b g s1 s2 bs sd pa r, s.eng.find? (fun e => e.id == s.on.n && e.gather == true && !e.waiting) = some e →
    (∀ e1 ∈ s.eng, e1.id = e.id → e1 = e) → s.block? e.block = some b → s.grid? e.block.grid = some g → e.sshape = [(r : Int)] →
    (let o := e.next % e.rowb
     let tab := e.src + BitVec.ofInt 64 ((r : Int) * (e.pitch.toNat : Int)) + BitVec.ofNat 64 o
     let den := e.dst + BitVec.ofNat 64 e.next
     let from_ := if e.dir = 0 then tab else den
     let tgt := if e.dir = 0 then den else tab
     let k := min (e.rowb - o) (128 - tgt.toNat % 128)
     s.engReads (.engine e.id) b g false (spans (flat from_) 0 k) = .got s1 bs sd →
     s1.engXlat b g tgt k .write = (s2, .ok (.mem pa)) → pa % 128 = tgt.toNat % 128 → engTakes s2 e g pa →
     ∃ t, exec .gatherRowDone s = .next t ∧ (∀ i, i < k → i < bs.length → t.byte (pa + i) = bs.getD i 0) ∧
       (∀ a, (a < pa ∨ pa + k ≤ a) → t.byte a = s2.byte a) ∧
       (if e.total ≤ e.next + k then ∀ e1 ∈ t.eng, e1.id ≠ e.id else ∀ e1 ∈ t.eng, e1.id = e.id → e1.next = e.next + k)))

namespace Sys2Proof.Claims

/-- A plan can write its completion word at `pa` with a status now: its requests are answered, and nothing of its die or, where
it ends well, of its flows is outstanding (R419). -/
def canEnd (s : State) (p : Plan) (st : Byte) (pa : Nat) : Prop :=
  (∀ o ∈ s.outOf (.plan p.id), o.answer.isSome = true) ∧ s.settled p.die false = true ∧
    (st = 0 → s.planUnacked p.id = false) ∧
    s.planLoc (s.ctxOf p.grid) (PlanF.cword p.bytes) .write = .here pa ∧ pa % 8 = 0 ∧ homeDie (pa / 128) = p.die ∧
    s.locked (pa / 128) = false ∧ s.parked? (pa / 128) = false ∧ s.lost (pa / 128) = false ∧ s.logging p.grid = false ∧
    nothingComing s

/-- A plan has written its completion word with a status, and is over. -/
def planOver (s t : State) (p : Plan) (pa : Nat) (st : Nat) : Prop :=
  t.natAt pa 4 = PlanF.tag p.bytes ∧ t.natAt (pa + 4) 4 = st ∧ (∀ q ∈ t.fab.plans, q.id ≠ p.id) ∧
    (∀ a, (a < pa ∨ pa + 8 ≤ a) → t.byte a = s.byte a)

/-- The plan numbered `i` is this one, and still runs over the ranks that its lists name. -/
def planGoes (s : State) (p : Plan) : Prop :=
  s.fab.plans.find? (fun q => q.id == p.id) = some p ∧ p.status = none ∧ p.cwordSent = false ∧ p.rings.isSome = true ∧
    s.planFlowDown p = false

end Sys2Proof.Claims

/-- R416, R418-R420: a plan starts by reading its lists and sending its parameters to its neighbours; it ends with its completion
word (its tag and its status) written, once its requests are answered and its segments acknowledged, and is over; a mismatch writes
nothing else, a dropped write or a failed request gives the plan its code, a flow that is down ends it; on one rank alone a
reduce-scatter leaves the rank's own values and an all-gather its own part.
Where a clause rests on the model's own choice or inference and not on the spec's words, that is log 17, 18, 47 and 111. -/
def Sys2Proof.Claims.CollectivesEnd : Prop :=
  (∀ (s : State) p why l, s.fab.plans.find? (fun q => q.id == p.id) = some p → p.status = none → p.rings = none →
    s.planRings p (s.ctxOf p.grid) = .ok l →
    ∃ t, exec (.collectiveComplete p.id why) s = .next t ∧ t.mem = s.mem ∧
      t.fab.plans.find? (fun q => q.id == p.id) = some { p with rings := some l } ∧
      (∀ k, PlanF.nin p.bytes ≠ 1 → k = (PlanF.myin p.bytes + 1) % PlanF.nin p.bytes ∨
          k = (PlanF.myin p.bytes + PlanF.nin p.bytes - 1) % PlanF.nin p.bytes →
        ∃ o ∈ t.fab.out, o.owner = .plan p.id ∧ o.dev = l.1.getD k 0 % 1024 ∧ o.op = .params (PlanF.params p.bytes))) ∧
  (∀ (s : State) p why st pa, s.fab.plans.find? (fun q => q.id == p.id) = some p → p.status = some st → p.cwordSent = false →
    canEnd s p st pa →
    ∃ t, exec (.collectiveComplete p.id why) s = .next t ∧
      planOver s t p pa (if st = 0 then outsCode (s.outOf (.plan p.id)) else st).toNat) ∧
  (∀ outs : List PeerOut,
    ((∃ o ∈ outs, ∃ v e, o.answer = some (.drop, v, e)) → outsCode outs = 0x34) ∧
    ((∀ o ∈ outs, ∀ v e, o.answer ≠ some (.drop, v, e)) → (∃ o ∈ outs, o.failed = true) → outsCode outs = 0x30) ∧
    ((∀ o ∈ outs, o.failed = false) → outsCode outs = 0)) ∧
  (∀ (s : State) p why st, s.fab.plans.find? (fun q => q.id == p.id) = some p → p.status = some st →
    (∃ o ∈ s.outOf (.plan p.id), o.answer = none) → exec (.collectiveComplete p.id why) s = .next s) ∧
  (∀ (s : State) p pa, planGoes s p → canEnd s p 0x31 pa →
    ∃ t, exec (.collectiveComplete p.id 0x31) s = .next t ∧ planOver s t p pa 0x31) ∧
  (∀ (s : State) p pa, planGoes s p →
    (let d := s.planWork p (s.ctxOf p.grid) (fun _ => true)
     d.stop = none → d.s.ctxOf p.grid = s.ctxOf p.grid → (∀ o ∈ d.s.outOf (.plan p.id), o.failed = false) → canEnd d.s p 0 pa →
     ∃ t, exec (.collectiveComplete p.id 0x00) s = .next t ∧ planOver d.s t p pa 0)) ∧
  (∀ (s : State) p, planGoes s p →
    (let d := s.planWork p (s.ctxOf p.grid) (fun _ => true)
     d.stop = none → (∃ o ∈ d.s.outOf (.plan p.id), o.answer = none) →
     exec (.collectiveComplete p.id 0x00) s = .next (d.s.setPlan p.id (fun p => { p with status := some 0 })))) ∧
  (∀ (s : State) p, planGoes s p → (s.planWork p (s.ctxOf p.grid) (fun _ => true)).stop = some .wait →
    exec (.collectiveComplete p.id 0x00) s = .next (s.planAskAll p (s.ctxOf p.grid))) ∧
  (∀ (s : State) p why, s.fab.plans.find? (fun q => q.id == p.id) = some p → p.status = none → p.rings.isSome = true →
    s.planFlowDown p = true →
    ∃ t, exec (.collectiveComplete p.id why) s = .next t ∧ (∀ q ∈ t.fab.plans, q.id = p.id → q.status = some 0x32)) ∧
  (∀ (s : State) p xs, (s.planWork p (s.ctxOf p.grid) (fun _ => true)).stop = none →
    PlanF.nin p.bytes = 1 → PlanF.nout p.bytes = 1 → PlanF.myin p.bytes = 0 → PlanF.myout p.bytes = 0 →
    s.planList p (s.ctxOf p.grid) (PlanF.srca p.bytes) (PlanF.elemBytes p.bytes) (PlanF.count p.bytes) = .ok xs →
    (PlanF.op p.bytes = 1 →
      s.planWrites p (s.ctxOf p.grid) (PlanF.dsta p.bytes) (PlanF.elemBytes p.bytes) (fun _ => true) xs =
        .ok (s.planWork p (s.ctxOf p.grid) (fun _ => true)).s) ∧
    (PlanF.op p.bytes = 0 →
      s.planWrites p (s.ctxOf p.grid) (PlanF.dsta p.bytes) (PlanF.elemBytes p.bytes) (fun _ => true)
          (xs.map (fun x => PlanF.narrow p.bytes (PlanF.widen p.bytes x))) =
        .ok (s.planWork p (s.ctxOf p.grid) (fun _ => true)).s)) ∧
  (∀ (s : State) j why, s.fab.plans.find? (fun q => q.id == j) = none → exec (.collectiveComplete j why) s = .next s)

/-! ### The Rook service (R420-R432) -/

namespace Sys2Proof.Claims

/-- The answer `code` has been given to a put or get (R420): a peer's leaves through the station of its device. -/
def answered (s t : State) (src : RookSrc) (code : Byte) : Prop :=
  match src with
  | .peer dev id => replied s t { dev := dev.toNat, id := id, st := .ok, code := code.toNat, station := s.stationOf 0 dev.toNat }
  | .own w num => ∀ r ∈ t.fab.rookOwn, r.w = w → r.num = num → r.status = some code

/-- The state word in 64 bytes of memory (R423). -/
def wordAt (s : State) (pa : Nat) : RkBlock := RkBlock.ofNat (s.natAt pa 64)

/-- Block `b` of region `i` has the state word `x`, at `pa`. -/
structure RkHas (s : State) (i b pa : Nat) (x : RkBlock) : Prop where
  word : s.rkBlock? i b = some x
  place : s.rkPa i ((s.region i).stateVa b) .write = some pa
  unit : pa % 64 = 0
  there : s.lost (pa / 128) = false
  calm : nothingComing s

/-- Nothing is due at the block: no held put of an idle one, no deadline of one that gathers (R424, R427). -/
def quietBlock (s : State) (i b : Nat) (x : RkBlock) : Prop :=
  (x.state = RkState.idle → s.heldFor i b x.step = []) ∧
    (x.state = RkState.gathering → x.dlx = true ∨ x.dlt = 0 ∨ s.gtime.toNat < x.dlt)

/-- A put that a block has taken. -/
def taken (i : Nat) (p : RookOp) (c step : Nat) (held : Bool) : RookPut :=
  { region := i, blk := p.blk.toNat, step := step, contrib := c, src := p.src, held := held, queued := held, lines := p.lines }

end Sys2Proof.Claims

/-- R425, R426, R428: a put is refused by its region, block or contributor; at its block it is accepted once for the step
that gathers, held for the next step, or dropped and counted as duplicate, stale, late or far; its data are
staged, those of held puts in ascending contributor order, and count as received; the sum adds the slots in contributor order, each lane in FP32.
Where a clause rests on the model's own choice or inference and not on the spec's words, that is log 48, 49, 73 and 113. -/
def Obligations.RookPuts : Prop :=
  (∀ (s : State) p c, (s.rookNew p.src = false ∨ s.rookHeld p = true) → exec (.rookPutArrive p c) s = .next s) ∧
  (∀ (s : State) p c, s.rookNew p.src = true → s.rookHeld p = false → exec (.rookPutArrive p c) s = .next (s.putArrive p c.toNat)) ∧
  (∀ (s : State) r rook blk step c lines, takes s r → r.op = .rookPut rook blk step c lines →
    (let s1 := s.seenAt r.station.toNat r.ksel
     let p : RookOp := { rook := rook, blk := blk, step := step, src := .peer r.src r.id, lines := lines }
     exec (.peerRequestReceive r) s = .next (if s1.rookHeld p then s1 else (s1.answerTo r .ok).putArrive p c.toNat))) ∧
  (∀ (s : State) p (c : BitVec 5), s.activeRegion p.rook = none →
    (let t := s.putArrive p c.toNat
     answered s t p.src 0x40 ∧ t.mem = s.mem)) ∧
  (∀ (s : State) p (c : BitVec 5) i, s.activeRegion p.rook = some i → (s.region i).nblk.toNat ≤ p.blk.toNat →
    (let t := s.putArrive p c.toNat
     answered s t p.src 0x41 ∧ t.mem = s.mem)) ∧
  (∀ (s : State) p (c : BitVec 5) i, s.activeRegion p.rook = some i →
    p.blk.toNat < (s.region i).nblk.toNat → bit (s.region i).cmask c.toNat = false →
    (let t := s.putArrive p c.toNat
     answered s t p.src 0x42 ∧ t.mem = s.mem)) ∧
  (∀ (s : State) p (c : BitVec 5) i pa x, s.activeRegion p.rook = some i →
    p.blk.toNat < (s.region i).nblk.toNat → bit (s.region i).cmask c.toNat = true → RkHas s i p.blk.toNat pa x →
    quietBlock s i p.blk.toNat x →
    (let t := s.putArrive p c.toNat
     (x.state = RkState.failed → answered s t p.src 0x45 ∧ t.mem = s.mem) ∧
     (x.state ≠ RkState.failed → p.step.toNat < x.step →
       answered s t p.src 0x44 ∧ t.fab.puts = s.fab.puts ∧
         wordAt t pa = { x with stale := min (x.stale + 1) 0xFFFF } ∧ (t.region i).stalecnt = satInc (s.region i).stalecnt) ∧
     (x.state ≠ RkState.failed → x.step + 1 < p.step.toNat →
       answered s t p.src 0x46 ∧ t.fab.puts = s.fab.puts ∧
         wordAt t pa = { x with far := min (x.far + 1) 0xFFFF } ∧ (t.region i).farcnt = satInc (s.region i).farcnt) ∧
     (x.state ≠ RkState.failed → p.step.toNat = x.step → x.rbmp.testBit c.toNat = true →
       answered s t p.src 0x43 ∧ t.fab.puts = s.fab.puts ∧
         wordAt t pa = { x with dup := min (x.dup + 1) 0xFFFF } ∧ (t.region i).dupcnt = satInc (s.region i).dupcnt) ∧
     (x.state ≠ RkState.failed → p.step.toNat = x.step → x.rbmp.testBit c.toNat = false → RkState.complete ≤ x.state →
       answered s t p.src 0x45 ∧ t.fab.puts = s.fab.puts ∧
         wordAt t pa = { x with late := min (x.late + 1) 0xFFFF } ∧ (t.region i).latecnt = satInc (s.region i).latecnt) ∧
     (x.state = RkState.gathering → p.step.toNat = x.step → x.rbmp.testBit c.toNat = false →
       wordAt t pa = { x with rbmp := x.rbmp + 2 ^ c.toNat } ∧
         t.fab.puts = s.fab.puts ++ [taken i p c.toNat x.step false]) ∧
     (x.state = RkState.idle → p.step.toNat = x.step → x.rbmp.testBit c.toNat = false →
       wordAt t pa = { x with rbmp := x.rbmp + 2 ^ c.toNat, state := RkState.gathering,
                              dlt := (s.gtime.toNat + (s.region i).dlns.toNat) % 2 ^ 64 } ∧
         t.fab.puts = s.fab.puts ++ [taken i p c.toNat x.step false]) ∧
     (x.state ≠ RkState.failed → p.step.toNat = x.step + 1 → x.hbmp.testBit c.toNat = true →
       answered s t p.src 0x43 ∧ t.fab.puts = s.fab.puts ∧ wordAt t pa = { x with dup := min (x.dup + 1) 0xFFFF }) ∧
     (x.state ≠ RkState.failed → p.step.toNat = x.step + 1 → x.hbmp.testBit c.toNat = false → s.heldPuts < 1024 →
       wordAt t pa = { x with hbmp := x.hbmp + 2 ^ c.toNat } ∧
         t.fab.puts = s.fab.puts ++ [taken i p c.toNat (x.step + 1) true]) ∧
     (x.state ≠ RkState.failed → p.step.toNat = x.step + 1 → x.hbmp.testBit c.toNat = false → 1024 ≤ s.heldPuts →
       answered s t p.src 0x47 ∧ t.mem = s.mem ∧ t.fab.puts = s.fab.puts))) ∧
  (∀ (s : State) (i : BitVec 4) (blk : Word) (c : BitVec 5) d p x, s.rkBusy i.toNat blk.toNat = false →
    s.fab.puts.find? (fun p => p.region == i.toNat && p.blk == blk.toNat && p.contrib == c.toNat && !p.held) = some p →
    s.rkBlock? i.toNat blk.toNat = some x → quietBlock s i.toNat blk.toNat x →
    (let s1 := (s.setFab (fun f => { f with puts := f.puts.filter (fun q => q != p) })).dropReads p.src
     (s.outOfTurn p = true → exec (.rookStagingDone i blk c d) s = .next s) ∧
     (s.outOfTurn p = false → x.state = RkState.failed → exec (.rookStagingDone i blk c d) s = .next (s1.rookAnswer p.src 0x45)) ∧
     (s.outOfTurn p = false → x.state ≠ RkState.failed →
       (∀ t, s.putData p = .wait t → exec (.rookStagingDone i blk c d) s = .next t) ∧
       (s.putData p = .failed → x.rbmp.testBit p.contrib = true →
         (let s3 := (s1.setRk i.toNat blk.toNat { x with rbmp := x.rbmp - 2 ^ p.contrib }).rookAnswer p.src 0x30
          ∀ y, s3.rkBlock? i.toNat blk.toNat = some y → y.recv ≠ y.expect → y.dlx = false →
            exec (.rookStagingDone i blk c d) s = .next s3)) ∧
       (∀ ls s2, s.putData p = .got ls →
         s1.rkWrite i.toNat ((s.region i.toNat).blockVa blk.toNat + 66048 + 16384 * (s.region i.toNat).slotOf p.contrib) false
           (ls.map (fun v => (v, 0))) = some s2 →
         (let s3 := (s2 : State).setRk i.toNat blk.toNat { x with recv := x.recv + 1 }
          let s4 := s3.rookAnswer p.src (if blk.toNat ∈ (s3.region i.toNat).dead then 0x49 else 0x00)
          ∀ y, s4.rkBlock? i.toNat blk.toNat = some y →
            (y.state = RkState.gathering → y.recv = y.expect →
              exec (.rookStagingDone i blk c d) s = .next ((s4.setRegion i.toNat (fun r =>
                { r with forced := r.forced.filter (fun q => q.1 != blk.toNat) })).completeRk i.toNat blk.toNat y false)) ∧
            (y.recv ≠ y.expect → y.dlx = false → exec (.rookStagingDone i blk c d) s = .next s4)))))) ∧
  (∀ (a : VReg) rest l, l < 32 → lane (sumLine (a :: rest) none) l =
    rest.foldl (fun g v => f32add g (lane v l)) (lane a l)) ∧
  (∀ (a : VReg) rest f l, l < 32 → lane (sumLine (a :: rest) (some f)) l =
    f32mul (rest.foldl (fun g v => f32add g (lane v l)) (lane a l)) f)

/-- R424, R427, R429, R430: at its deadline a block that gathers follows its policy, once the puts accepted before are
staged; the commands on held blocks complete or skip them; a COMPLETE block forms its sum and launches its update; the
update's end fails the block, mirrors it or publishes it; publication ends with the next step, which an idle block's held puts then
join; a subscriber that some line has failed to reach takes no step word.
Where a clause rests on the model's own choice or inference and not on the spec's words, that is log 48, 49 and 113. -/
def Obligations.RookBlocks : Prop :=
  (∀ (s : State) pa x, RkHas s s.on.n s.on.m pa x → s.rkBusy s.on.n s.on.m = false → x.state = RkState.idle →
    s.heldFor s.on.n s.on.m x.step ≠ [] →
    ∃ t, exec .rookDeadline s = .next t ∧ (wordAt t pa).state = RkState.gathering ∧ (wordAt t pa).step = x.step ∧
      (wordAt t pa).dlt = (s.gtime.toNat + (s.region s.on.n).dlns.toNat) % 2 ^ 64 ∧
      (∀ c, c < 32 → (wordAt t pa).rbmp.testBit c =
        (x.rbmp.testBit c || (s.heldFor s.on.n s.on.m x.step).any (fun p => p.contrib == c))) ∧
      (∀ p ∈ s.heldFor s.on.n s.on.m x.step, { p with held := false } ∈ t.fab.puts)) ∧
  (∀ (s : State) pa x, RkHas s s.on.n s.on.m pa x → s.rkBusy s.on.n s.on.m = false → s.on.n < s.fab.regions.length →
    x.state = RkState.gathering → x.dlx = false → x.dlt ≠ 0 → x.dlt ≤ s.gtime.toNat → (s.region s.on.n).role = 1 →
    (s.staging s.on.n s.on.m = [] → (s.region s.on.n).policy = 0 →
      ∃ t, exec .rookDeadline s = .next t ∧ wordAt t pa = { x with dlx := true } ∧ t.irqs = s.irqs ++ [80 + s.on.n] ∧
        (t.region s.on.n).dlcnt = satInc (s.region s.on.n).dlcnt ∧ s.on.m ∈ (t.region s.on.n).stalled) ∧
    (s.staging s.on.n s.on.m ≠ [] →
      ∃ t, exec .rookDeadline s = .next t ∧ wordAt t pa = { x with dlx := true } ∧ t.irqs = s.irqs ∧
        (t.region s.on.n).dlcnt = satInc (s.region s.on.n).dlcnt ∧
        (∀ p ∈ t.fab.puts, p.region = s.on.n → p.blk = s.on.m → p.held = false → p.before = true))) ∧
  (∀ (s : State) x, s.rkBlock? s.on.n s.on.m = some x →
    quietBlock s s.on.n s.on.m x → exec .rookDeadline s = .next s) ∧
  (∀ (s : State) x, heard s → s.regionBusy s.on.n = false → (s.region s.on.n).rblk ≠ 0xFFFFFFFF →
    (s.region s.on.n).rblk.toNat < (s.region s.on.n).nblk.toNat →
    s.rkBlock? s.on.n (s.region s.on.n).rblk.toNat = some x → quietBlock s s.on.n (s.region s.on.n).rblk.toNat x →
    (let b := (s.region s.on.n).rblk.toNat
     let d := s.dropStaging s.on.n b x
     let held : Prop := x.state = RkState.gathering ∧ x.dlx = true ∧ (s.region s.on.n).policy = 0 ∧ (s.region s.on.n).role = 1
     let early : Prop := ∃ p ∈ s.staging s.on.n b, p.before = true
     let noted (part : Bool) : State := s.setRegion s.on.n (fun r => { r with forced := r.forced.filter (fun q => q.1 != b) ++ [(b, part)] })
     (held → early → exec .rookForcePartial s = .next (noted true) ∧ exec .rookForceSkip s = .next (noted false)) ∧
     (held → ¬early → exec .rookForcePartial s = .next (s.completeRk s.on.n b x true) ∧
       exec .rookForceSkip s = .next (d.1.skipRk s.on.n b d.2)) ∧
     (¬held → exec .rookForcePartial s = .next s ∧ exec .rookForceSkip s = .next s))) ∧
  (∀ (s : State) i b pa x part, RkHas s i b pa x → s.staging i b = [] → (part = true → x.recv ≠ 0) →
    wordAt (s.completeRk i b x part) pa = { x with state := RkState.complete, part := part }) ∧
  (∀ (s : State) x, s.rkBusy s.on.n s.on.m = false → s.rkBlock? s.on.n s.on.m = some x → x.state = RkState.complete →
    (let i := s.on.n
     let b := s.on.m
     let r := s.region i
     let s0 := s.dropOut (.template i b)
     (∀ t, s.template i b = .wait t → exec .rookUpdateDone s = .next t) ∧
     (∀ st s1, s.template i b = .bad st → s0.sumBlock i b x = some s1 → exec .rookUpdateDone s = .next (s1.failRk i b st.toNat)) ∧
     (∀ rec_ ks s1 s2, s.template i b = .got rec_ ks → s0.sumBlock i b x = some s1 →
       (s1 : State).rkWrite i (r.blockVa b + 65536) false
         ((List.range 4).map (fun k => ((s1.region i).konstLine b x ((ks[k]?).getD 0) k, 0))) = some s2 →
       (s1.region i).blockVa b = r.blockVa b → (s1.region i).uq = r.uq →
       (let q := r.uq.toNat
        let n := (s2.queue q).tail
        let f := s2.fillSlot q (withKconst rec_ (r.blockVa b + 65536)) true
        (f.2 ≠ 0 → exec .rookUpdateDone s = .next (s2.failRk i b f.2.toNat)) ∧
        (f.2 = 0 → exec .rookUpdateDone s = .next ((f.1.setQueue q (fun c => { c with rook := c.rook ++ [(n, i, BitVec.ofNat 32 b)] })).setRk i b
          { x with state := RkState.updating, ugrid := (gridIdOf q n).toNat })))))) ∧
  (∀ (s : State) e pa x, s.fab.ends.find? (fun e => e.region == s.on.n && e.blk == s.on.m) = some e →
    RkHas s s.on.n s.on.m pa x → s.rkBusy s.on.n s.on.m = false → s.on.n < s.fab.regions.length → x.state = RkState.updating → x.ugrid = e.grid.toNat →
    (e.status ≠ 0 →
      ∃ t, exec .rookUpdateDone s = .next t ∧ wordAt t pa = { x with state := RkState.failed, ustat := e.status.toNat } ∧
        s.on.m ∈ (t.region s.on.n).stalled ∧ e ∉ t.fab.ends) ∧
    (e.status = 0 → (s.region s.on.n).men = false → (s.region s.on.n).nsub = 0 →
      (∀ g ∈ s.fab.gets, ¬(g.region = s.on.n ∧ g.blk = s.on.m)) →
      ((s.setRk s.on.n s.on.m { x with ustat := 0, state := RkState.published, pstep := x.step }).rkLines s.on.n
        ((s.region s.on.n).pubVa s.on.m x.step) 32).isSome = true →
      ∃ t, exec .rookUpdateDone s = .next t ∧ e ∉ t.fab.ends ∧
        wordAt t pa = { x with ustat := 0, state := RkState.published, pstep := x.step })) ∧
  (∀ (s : State) o, o ∈ s.outOf (.mirror s.on.n s.on.m) → o.answer = none → exec .rookMirrorDone s = .next s) ∧
  (∀ (s : State), s.outOf (.mirror s.on.n s.on.m) ≠ [] → (∀ o ∈ s.outOf (.mirror s.on.n s.on.m), o.answer.isSome = true) →
    (∃ o ∈ s.outOf (.mirror s.on.n s.on.m), o.failed = true) → s.rkBusy s.on.n s.on.m = false →
    ∃ t, exec .rookMirrorDone s = .next t ∧ t.mem = s.mem ∧ t.outOf (.mirror s.on.n s.on.m) = [] ∧ t.fab.retries =
      s.fab.retries ++ [{ region := s.on.n, blk := s.on.m, at_ := s.now + (s.region s.on.n).dlns.toNat }]) ∧
  (∀ (s : State) x, s.outOf (.mirror s.on.n s.on.m) ≠ [] → (∀ o ∈ s.outOf (.mirror s.on.n s.on.m), o.failed = false) →
    (∀ o ∈ s.outOf (.mirror s.on.n s.on.m), o.answer.isSome = true) →
    s.rkBusy s.on.n s.on.m = false → s.rkBlock? s.on.n s.on.m = some x → x.state = RkState.updating →
    exec .rookMirrorDone s = .next ((s.dropOut (.mirror s.on.n s.on.m)).publish s.on.n s.on.m x)) ∧
  (∀ (s : State) r, s.fab.retries.find? (fun r => r.region == s.on.n && r.blk == s.on.m) = some r → s.now < r.at_ →
    exec .rookMirrorRetry s = .next s) ∧
  (∀ (s : State) r x, s.fab.retries.find? (fun r => r.region == s.on.n && r.blk == s.on.m) = some r → r.at_ ≤ s.now →
    s.rkBusy s.on.n s.on.m = false → s.rkBlock? s.on.n s.on.m = some x → x.state = RkState.updating →
    exec .rookMirrorRetry s = .next ((s.setFab (fun f => { f with retries := f.retries.filter (fun q => q != r) })).mirrorStart
      s.on.n s.on.m x)) ∧
  (∀ (s : State) pa x, RkHas s s.on.n s.on.m pa x → s.rkBusy s.on.n s.on.m = false → x.state = RkState.published →
    (s.region s.on.n).nsub = 0 → s.outOf (.publish s.on.n s.on.m) = [] →
    ∃ t, exec .rookPublishDone s = .next t ∧ wordAt t pa = x.next) ∧
  (∀ (s : State) x d, s.rkBlock? s.on.n s.on.m = some x → s.rkBusy s.on.n s.on.m = false → x.state = RkState.published →
    s.subscribers s.on.n = some [d] → d.1 ≠ s.fab.fabid.toNat →
    (∀ o ∈ s.outOf (.publish s.on.n s.on.m), o.answer.isSome = true) →
    (let outs := s.outOf (.publish s.on.n s.on.m)
     let ofLine (o : PeerOut) : Prop := o.dev = d.1 ∧ subLine d.2 s.on.m 0 ≤ peerLine o.op ∧ peerLine o.op < subLine d.2 s.on.m 32
     ((∃ o ∈ outs, ofLine o ∧ o.failed = true) →
       exec .rookPublishDone s = .next ((s.dropOut (.publish s.on.n s.on.m)).setRk s.on.n s.on.m x.next)) ∧
     ((∀ o ∈ outs, ofLine o → o.failed = false) → (∀ o ∈ outs, o.op ≠ stepWord d.2 s.on.m x.step) →
       exec .rookPublishDone s = .next (s.peerPost (.publish s.on.n s.on.m) 0 d.1 (peerLine (stepWord d.2 s.on.m x.step))
         (stepWord d.2 s.on.m x.step))))) ∧
  (∀ (x : RkBlock), x.next = { x with
    step := (x.step + 1) % 2 ^ 48, state := RkState.idle, dlx := false, part := false, skipd := false, recv := 0, rbmp := 0,
    hbmp := 0, dlt := 0 })

/-- R421, R431, R432: a get is served from the published buffers, waits for the step that gathers, or is refused; it waits
at most DLNS; a reset makes every block IDLE at RSTEP; a mirror becomes active; a descriptor write is checked, and a bad
one turns the region off.
Where a clause rests on the model's own choice or inference and not on the spec's words, that is log 49, 50 and 95. -/
def Obligations.RookGetsAndRegions : Prop :=
  (∀ (s : State) p, (s.rookNew p.src = false ∨ s.rookHeld p = true) → exec (.rookGetArrive p) s = .next s) ∧
  (∀ (s : State) p, s.rookNew p.src = true → s.rookHeld p = false → exec (.rookGetArrive p) s = .next (s.getArrive p)) ∧
  (∀ (s : State) r rook blk step lines, takes s r → r.op = .rookGet rook blk step lines →
    (let s1 := s.seenAt r.station.toNat r.ksel
     let p : RookOp := { rook := rook, blk := blk, step := step, src := .peer r.src r.id, lines := lines }
     exec (.peerRequestReceive r) s = .next (if s1.rookHeld p then s1 else (s1.answerTo r .ok).getArrive p))) ∧
  (∀ (s : State) p, s.activeRegion p.rook = none → answered s (s.getArrive p) p.src 0x40 ∧ (s.getArrive p).mem = s.mem) ∧
  (∀ (s : State) p i, s.activeRegion p.rook = some i → (s.region i).nblk.toNat ≤ p.blk.toNat →
    answered s (s.getArrive p) p.src 0x41 ∧ (s.getArrive p).mem = s.mem) ∧
  (∀ (s : State) p i x, s.activeRegion p.rook = some i →
    p.blk.toNat < (s.region i).nblk.toNat → s.rkBlock? i p.blk.toNat = some x →
    (let t := s.getArrive p
    (∀ ls, (p.step.toNat = x.pstep ∨ (p.step.toNat ≠ x.pstep ∧ (p.step.toNat + 1) % 2 ^ 48 = x.pstep ∧
        ¬(x.state = RkState.updating ∧ x.step = (x.pstep + 1) % 2 ^ 48))) →
      s.rkLines i ((s.region i).pubVa p.blk.toNat p.step.toNat) 32 = some ls →
      (∀ dev id, p.src = .peer dev id → p.lines = [] →
        answered s t p.src 0x00 ∧ t.mem = s.mem) ∧
      (∀ dev id, p.src = .peer dev id → p.lines ≠ [] →
        t.mem = s.mem ∧ t.fab.out.take s.fab.out.length = s.fab.out ∧
          (t.fab.out.drop s.fab.out.length).map (fun o => (o.owner, o.dev, o.op)) = (ls.zip p.lines).map (fun q =>
            (.rookGet dev.toNat id, dev.toNat, .write q.2 q.1.1 (BitVec.allOnes 128) q.1.2 0xFF true))) ∧
      (∀ w num, p.src = .own w num → (s.srcLines p.src p.lines).Nodup → s.castle.moves = [] → nothingComing s →
        (∀ l, s.lost l = false) →
        answered s t p.src 0x00 ∧
          (∀ q ∈ ls.zip (s.srcLines p.src p.lines), t.homeRead q.2 = (q.1.1, q.1.2, false)))) ∧
    (p.step.toNat ≠ x.pstep → (p.step.toNat + 1) % 2 ^ 48 ≠ x.pstep → p.step.toNat = x.step →
      t.mem = s.mem ∧ t.fab.gets = s.fab.gets ++
        [{ region := i, blk := p.blk.toNat, step := x.step, src := p.src, at_ := s.now, lines := p.lines }]) ∧
    (p.step.toNat ≠ x.pstep → (p.step.toNat + 1) % 2 ^ 48 ≠ x.pstep → p.step.toNat < x.step →
      answered s t p.src 0x44 ∧ t.mem = s.mem) ∧
    (p.step.toNat ≠ x.pstep → (p.step.toNat + 1) % 2 ^ 48 ≠ x.pstep → x.step < p.step.toNat →
      answered s t p.src 0x46 ∧ t.mem = s.mem) ∧
    (p.step.toNat ≠ x.pstep → (p.step.toNat + 1) % 2 ^ 48 = x.pstep → x.state = RkState.updating → x.step = (x.pstep + 1) % 2 ^ 48 →
      answered s t p.src 0x44 ∧ t.mem = s.mem))) ∧
  (∀ (s : State) (i : BitVec 4) n g, (s.fab.gets.filter (fun g => g.region == i.toNat))[n]? = some g →
    g.at_ + (s.region i.toNat).dlns.toNat ≤ s.now →
    ∃ t, exec (.rookGetTimeout i n) s = .next t ∧ answered s t g.src 0x48 ∧ g ∉ t.fab.gets ∧ t.mem = s.mem) ∧
  (∀ (s : State) (i : BitVec 4) n g, (s.fab.gets.filter (fun g => g.region == i.toNat))[n]? = some g →
    s.now < g.at_ + (s.region i.toNat).dlns.toNat → exec (.rookGetTimeout i n) s = .next s) ∧
  (∀ (s : State) pa, heard s → s.regionBusy s.on.n = false → nothingComing s → (s.region s.on.n).nblk = 1 → s.on.n < s.fab.regions.length →
    s.rkPa s.on.n ((s.region s.on.n).stateVa 0) .write = some pa → pa % 64 = 0 → s.lost (pa / 128) = false →
    ∃ t, exec .rookReset s = .next t ∧
      (wordAt t pa).step = (s.region s.on.n).rstep.toNat ∧ (wordAt t pa).state = RkState.idle ∧
      (wordAt t pa).pstep = ((s.region s.on.n).rstep - 1).toNat ∧ (wordAt t pa).expect = (s.region s.on.n).expect ∧
      (wordAt t pa).recv = 0 ∧ (wordAt t pa).rbmp = 0 ∧ (t.region s.on.n).stalled = [] ∧
      (∀ p ∈ t.fab.puts, p.region ≠ s.on.n) ∧ (∀ g ∈ t.fab.gets, g.region ≠ s.on.n)) ∧
  (∀ (s : State), (s.region s.on.n).role ≠ 2 → exec .rookActivateMirror s = .next s) ∧
  (∀ (s : State) pa x, heard s → s.regionBusy s.on.n = false → (s.region s.on.n).role = 2 → (s.region s.on.n).nblk = 1 → RkHas s s.on.n 0 pa x →
    x.state = RkState.published →
    ∃ t, exec .rookActivateMirror s = .next t ∧ (t.region s.on.n).role = 1 ∧
      wordAt t pa = { x.next with pstep := x.step }) ∧
  (∀ (s : State) (i : BitVec 4) (off : BitVec 7) wide val, heard s → i.toNat < s.fab.regions.length → off.toNat < 0x50 →
    (let r := (s.region i.toNat).put off.toNat wide val
     let s1 := s.setRegion i.toNat (fun _ => r)
     s.regionBusy i.toNat = false → s1.regionBusy i.toNat = false →
     (r.role = 0 → ∃ t, exec (.rookRegionWrite i off wide val) s = .next t ∧ t.region i.toNat = { r with rerr := false } ∧
       t.mem = s.mem) ∧
     (r.role ≠ 0 → s1.descriptorOk i.toNat = false →
       ∃ t, exec (.rookRegionWrite i off wide val) s = .next t ∧ t.region i.toNat = { r with role := 0, rerr := true } ∧
         t.mem = s.mem) ∧
     (r.role ≠ 0 → s1.descriptorOk i.toNat = true → s1.sameId i.toNat = [] → (s.region i.toNat).role ≠ 0 →
       ∃ t, exec (.rookRegionWrite i off wide val) s = .next t ∧ t.region i.toNat = { r with rerr := false } ∧ t.mem = s.mem) ∧
     (r.role ≠ 0 → s1.descriptorOk i.toNat = true → s1.sameId i.toNat = [] → (s.region i.toNat).role = 0 →
       exec (.rookRegionWrite i off wide val) s = .next ((s1.setRegion i.toNat (fun r => { r with rerr := false })).resetRegion i.toNat)) ∧
     (r.role ≠ 0 → s1.descriptorOk i.toNat = true → s1.sameId i.toNat ≠ [] →
       ∃ t, exec (.rookRegionWrite i off wide val) s = .next t ∧ t.mem = s.mem ∧
         (∀ j, (j = i.toNat ∨ j ∈ s1.sameId i.toNat) → (t.region j).role = 0 ∧ (t.region j).rerr = true)))) ∧
  (∀ (s : State) (i : BitVec 4) wide val, heard s →
    (let s1 := s.setRegion i.toNat (fun r => r.put 0x68 wide val)
     s.regionBusy i.toNat = false → s1.regionBusy i.toNat = false →
     exec (.rookRegionWrite i 0x68 wide val) s = .next (s1.rookCmd i.toNat (lo32 val).toNat)))

/-! ### Package, power and health; registers (R7, R85, R263, R367, R368, R434-R449) -/

/-- R438-R443, R448, R449: a power command is refused by PRES or starts a transition of its length, which ends in the
state it aims at; a die halts at 110 °C; a soft fuse binds a spare or removes the core; errors are counted, and
uncorrectable ones lose their data; a die fault stops its cores and stays with its position; the device time is set from the next ns on.
Where a clause rests on the model's own choice or inference and not on the spec's words, that is log 34, 35, 51, 52, 53, 97 and 98. -/
def Obligations.PowerAndErrors : Prop :=
  (∀ (s : State) (d : BitVec 2) tgt, d.toNat < s.dies.length →
    (let x := s.die d.toNat
     (x.pbusy = true → exec (.powerStateCmd d tgt) s = .next (s.setDie d.toNat (fun x => { x with pres := 2 }))) ∧
     (x.pbusy = false → x.halt = true → (5 < tgt.toNat ∨ 800 ≤ x.temp.toNat) →
       exec (.powerStateCmd d tgt) s = .next (s.setDie d.toNat (fun x => { x with pres := 2 }))) ∧
     (x.pbusy = false → x.halt = true → tgt.toNat ≤ 5 → x.temp.toNat < 800 →
       ∃ t, exec (.powerStateCmd d tgt) s = .next t ∧ (t.die d.toNat).halt = false ∧ (t.die d.toNat).ptgt = tgt ∧
         (t.die d.toNat).pbusy = true ∧ (t.die d.toNat).pres = 0) ∧
     (x.pbusy = false → x.halt = false → x.pcur.toNat ≤ 4 → tgt.toNat ≤ 4 → tgt ≠ x.pcur →
       exec (.powerStateCmd d tgt) s = .next (s.beginMove d.toNat tgt.toNat 3000)) ∧
     (x.pbusy = false → x.halt = false → x.pcur.toNat ≤ 4 → tgt = 5 →
       exec (.powerStateCmd d tgt) s = .next (s.beginMove d.toNat 5 120)) ∧
     (x.pbusy = false → x.halt = false → x.pcur = 5 → tgt.toNat ≤ 4 →
       exec (.powerStateCmd d tgt) s = .next (s.beginMove d.toNat tgt.toNat 180)) ∧
     (x.pbusy = false → x.halt = false → x.pcur = 5 → tgt = 6 → s.canPark d.toNat = true →
       exec (.powerStateCmd d tgt) s = .next ((s.emptyDie d.toNat).beginMove d.toNat 6 240000)) ∧
     (x.pbusy = false → x.halt = false → x.pcur = 5 → tgt = 6 → s.canPark d.toNat = false →
       exec (.powerStateCmd d tgt) s = .next (s.setDie d.toNat (fun x => { x with pres := 3 }))) ∧
     (x.pbusy = false → x.halt = false → x.pcur = 6 → tgt = 5 →
       exec (.powerStateCmd d tgt) s = .next (s.beginMove d.toNat 5 620000)) ∧
     (x.pbusy = false → x.halt = false → (tgt = 7 ∨ tgt = x.pcur ∨ (x.pcur.toNat ≤ 4 ∧ tgt = 6) ∨ (x.pcur = 6 ∧ tgt ≠ 5)) →
       exec (.powerStateCmd d tgt) s = .next (s.setDie d.toNat (fun x => { x with pres := 1 }))))) ∧
  (∀ (s : State) d tgt ns, d < s.dies.length → (s.beginMove d tgt ns).die d = { s.die d with
    ptgt := BitVec.ofNat 3 tgt, pbusy := true, pends := s.now + ns, pres := 0,
    begun := (s.now, s.clkOf d, (s.die d).ptgt) }) ∧
  (∀ (s : State), s.on.n < s.dies.length → (s.die s.on.n).pbusy = true → (s.die s.on.n).pends ≤ s.now →
    ∃ t, exec .powerTransitionDone s = .next t ∧ (t.die s.on.n).pcur = (s.die s.on.n).ptgt ∧ (t.die s.on.n).pbusy = false ∧
      (t.die s.on.n).halt = ((s.die s.on.n).haltAfter || (s.die s.on.n).halt) ∧
      t.irqs = s.irqs ++ (if (s.die s.on.n).haltAfter then [100] else []) ∧ t.mem = s.mem) ∧
  (∀ (s : State), s.now < (s.die s.on.n).pends → exec .powerTransitionDone s = .next s) ∧
  (∀ (s : State) (d : BitVec 2) temp, d.toNat < s.dies.length →
    (temp.toNat < 880 → exec (.thermalHalt d temp) s = .next (s.setDie d.toNat (fun x => { x with temp := temp }))) ∧
    (880 ≤ temp.toNat → (s.die d.toNat).halt = false → (s.die d.toNat).pbusy = false →
      ∃ t, exec (.thermalHalt d temp) s = .next t ∧ (t.die d.toNat).halt = true ∧ (t.die d.toNat).temp = temp ∧
        t.irqs = s.irqs ++ [100] ∧ t.mem = s.mem) ∧
    (880 ≤ temp.toNat → (s.die d.toNat).halt = false → (s.die d.toNat).pbusy = true → s.justBegun d.toNat = true →
      ∃ t, exec (.thermalHalt d temp) s = .next t ∧ (t.die d.toNat).halt = true ∧ (t.die d.toNat).pbusy = false ∧
        (t.die d.toNat).pres = 2 ∧ (t.die d.toNat).pcur = (s.die d.toNat).pcur ∧ t.irqs = s.irqs ++ [100] ∧ t.mem = s.mem) ∧
    (880 ≤ temp.toNat → (s.die d.toNat).halt = false → (s.die d.toNat).pbusy = true → s.justBegun d.toNat = false →
      ∃ t, exec (.thermalHalt d temp) s = .next t ∧ (t.die d.toNat).haltAfter = true ∧ (t.die d.toNat).halt = false ∧
        t.irqs = s.irqs)) ∧
  (∀ (s : State), exec .devtimeSet s = .next { s with hub := { s.hub with tnext := some s.hub.devtime } }) ∧
  (∀ (s : State) n v rest, s.agenda = .ns n :: rest → s.hub.tnext = some v → 1 ≤ n →
    ∃ t, step s = .next t ∧ t.now = s.now + n ∧ t.gtime = v + BitVec.ofNat 64 (n - 1) ∧ t.hub.tnext = none ∧ t.mem = s.mem) ∧
  (∀ (s : State), (192 ≤ s.hub.cfcore.toNat ∨ (s.core s.hub.cfcore.toNat).fused = true) →
    exec .softFuse s = .next (s.setHub (fun h => { h with cfres := 3 }))) ∧
  (∀ (s : State), s.hub.cfcore.toNat < 192 → (s.core s.hub.cfcore.toNat).fused = false →
    (∃ b ∈ s.blocks, b.core = s.hub.cfcore.toNat) → exec .softFuse s = .next (s.setHub (fun h => { h with cfres := 1 }))) ∧
  (∀ (s : State), s.hub.cfcore.toNat < 192 → s.hub.cfcore.toNat < s.cores.length →
    (s.core s.hub.cfcore.toNat).fused = false → (∀ b ∈ s.blocks, b.core ≠ s.hub.cfcore.toNat) →
    (let c := s.hub.cfcore.toNat
     (∀ p, s.hub.spare (c / 48) = some p →
       ∃ t, exec .softFuse s = .next t ∧ t.hub.cfres = 0 ∧ t.hub.physOf c = p ∧ (t.core c).fused = false ∧
         t.hub.absent = s.hub.absent ∧ (positionOf s.hub.hidden.toNat (c / 48), s.hub.physOf c) ∈ t.hub.fusedPhys) ∧
     (s.hub.spare (c / 48) = none →
       ∃ t, exec .softFuse s = .next t ∧ t.hub.cfres = 2 ∧ (t.core c).fused = true ∧ t.hub.absent = s.hub.absent ++ [c]))) ∧
  (∀ (s : State) (d : BitVec 2), d.toNat < s.dies.length →
    (∃ t, exec (.correctedError (.hbm d)) s = .next t ∧ (t.die d.toNat).hbmce = satInc (s.die d.toNat).hbmce ∧ t.mem = s.mem) ∧
    (∃ t, exec (.correctedError (.sram d)) s = .next t ∧ (t.die d.toNat).sramce = satInc (s.die d.toNat).sramce ∧ t.mem = s.mem) ∧
    (∃ t, exec (.correctedError (.link d)) s = .next t ∧ (t.die d.toNat).linkrty = satInc (s.die d.toNat).linkrty ∧
      t.mem = s.mem) ∧
    (∃ t, exec (.correctedError .lpddr) s = .next t ∧ t.hub.lpce = satInc s.hub.lpce ∧ t.mem = s.mem)) ∧
  (∀ (s : State) line, homeDie line < s.dies.length →
    (tierOf (128 * line) = some 0 → ∃ t, exec (.uncorrectableError (.memory line)) s = .next t ∧ t.poisoned line = true ∧
      (t.die (homeDie line)).hbmue = satInc (s.die (homeDie line)).hbmue) ∧
    (tierOf (128 * line) = some 1 → ∃ t, exec (.uncorrectableError (.memory line)) s = .next t ∧ t.poisoned line = true ∧
      t.hub.lpue = satInc s.hub.lpue)) ∧
  (∀ (s : State) c line l, c < s.cores.length → dieOfCore c < s.dies.length → (s.core c).l1? line = some l →
    (l.dirty ≠ 0 → ∃ t, exec (.uncorrectableError (.dirtyL1 c line)) s = .next t ∧ t.poisoned line = true ∧
      (t.core c).l1? line = none ∧ (t.die (dieOfCore c)).sramue = satInc (s.die (dieOfCore c)).sramue) ∧
    (l.dirty = 0 → ∃ t, exec (.uncorrectableError (.cleanL1 c line)) s = .next t ∧ t.poison = s.poison ∧
      (t.core c).l1? line = none ∧ (t.die (dieOfCore c)).sramce = satInc (s.die (dieOfCore c)).sramce)) ∧
  (∀ (s : State) d line, d < s.dies.length →
    (let homeLine : Prop := homeDie line = d ∧ ∃ l, (s.die d).l2? line = some l ∧ l.dirty = true
     let ownBytes : Prop := (s.unapplied d line).1 ≠ 0 ∨ (s.unapplied d line).2 ≠ 0
     (homeLine ∨ (ownBytes ∧ ((s.die d).copy? line).isSome = true) →
       ∃ t, exec (.uncorrectableError (.dirtyL2 d line)) s = .next t ∧ t.poisoned line = true ∧
         (t.die d).l2? line = none ∧ (t.die d).copy? line = none ∧ (t.die d).sramue = satInc (s.die d).sramue) ∧
     (¬homeLine → ¬ownBytes → ((s.die d).l2? line).isSome = true →
       ∃ t, exec (.uncorrectableError (.cleanL2 d line)) s = .next t ∧ t.poison = s.poison ∧ t.mem = s.mem ∧
         (t.die d).l2? line = none ∧ (t.die d).sramce = satInc (s.die d).sramce))) ∧
  (∀ (s : State) w n b x, s.warp? w = some (b, x) → w.blockId = b.id → ∃ t b1 x1,
    exec (.uncorrectableError (.sreg w n)) s = .next t ∧ t.warp? w = some (b1, x1) ∧ x1.base (.s n.toNat) = 0 ∧
    (∀ r : RegId, r.ofWarp = true → r ≠ .s n.toNat → x1.base r = x.base r) ∧
    (∀ g, s.grid? w.grid = some g → ∃ g1, t.grid? w.grid = some g1 ∧ g1.pois = true)) ∧
  (∀ (s : State), s.on.n < s.dies.length → ∃ t, exec .dieFault s = .next t ∧ (t.die s.on.n).dieflt = true ∧ t.mem = s.mem ∧
    positionOf s.hub.hidden.toNat s.on.n ∈ t.hub.badPos ∧
    (s.hub.spgood = false → t.hub.rqdie = true))

/-- The hub's signed answer on the SPDM mailbox (R447). -/
def Sys2Proof.Claims.replies (s : State) (r : SpdmReply) : State :=
  { s with hub := { s.hub with reply := some r, replySig := Config.signature r.message } }

/-- R444, R445, R447: a boot brings the machine to its reset values with the flash's content kept, and goes on in three steps:
firmware, discovery, training; without a good firmware image, or with a die that no spare can replace, it leaves BOOTST at 4; one bad
die, a die that has had a fault among them, is replaced by the good hidden one; each SPDM request is answered, and the answer signed.
Where a clause rests on the model's own choice or inference and not on the spec's words, that is log 46, 51, 55 and 112. -/
def Obligations.BootAndAttestation : Prop :=
  (∀ (s : State) good, s.hub.bootst ≠ 1 → s.hub.bootst ≠ 2 → ∃ t, exec (.boot false false good) s = .next t ∧ t.hub.bootst = 4 ∧
    t.mem = [] ∧ t.blocks = [] ∧ t.hub.hidden = s.hub.hidden ∧ t.hub.absent = s.hub.absent) ∧
  (∀ (s : State) slot0 slot1 good, s.hub.bootst ≠ 1 → s.hub.bootst ≠ 2 → (slot0 = true ∨ slot1 = true) →
    ∃ t, exec (.boot slot0 slot1 good) s = .next t ∧ t.hub.bootst = 1 ∧ t.hub.slot = !slot0 ∧ t.hub.hidden = s.hub.hidden ∧
      t.mem = [] ∧ t.blocks = [] ∧ t.grids = [] ∧ t.gtime = State.reset.gtime ∧ t.hub.badPos = s.hub.badPos ∧
      (∀ c, c < 192 → (t.core c).fused = s.hub.absent.contains c)) ∧
  (∀ (s : State) slot0 slot1 good, s.hub.bootst = 1 →
    (let bad := failedAt s.hub.hidden.toNat (s.hub.passes good)
     (bad = [] → ∃ t, exec (.boot slot0 slot1 good) s = .next t ∧ t.hub.bootst = 2 ∧ t.hub.hidden = s.hub.hidden ∧
       t.hub.swapped = s.hub.swapped ∧ t.mem = s.mem ∧ (∀ c, c < 192 → (t.core c).fused = s.hub.absent.contains c) ∧
       t.hub.report.length = 6) ∧
     (∀ p, bad = [p] → s.hub.swapped = false → bit (s.hub.passes good) s.hub.hidden.toNat = true →
       ∃ t, exec (.boot slot0 slot1 good) s = .next t ∧ t.hub.bootst = 2 ∧ t.hub.hidden.toNat = p ∧ t.hub.swapped = true ∧
         t.hub.spgood = false) ∧
     (∀ p, p ∈ bad → (s.hub.swapped = true ∨ bit (s.hub.passes good) s.hub.hidden.toNat = false) →
       ∃ t, exec (.boot slot0 slot1 good) s = .next t ∧ t.hub.bootst = 4 ∧ t.hub.rqdie = true ∧ t.hub.hidden = s.hub.hidden))) ∧
  (∀ (s : State) slot0 slot1 good, s.hub.bootst = 2 →
    exec (.boot slot0 slot1 good) s = .next { s with hub := { s.hub with bootst := 3 } }) ∧
  (∀ (h : Hub) good p, p ∈ h.badPos → p < 5 → bit (h.passes good) p = false) ∧
  (∀ (s : State), exec .getVersion s = .next (replies s .version) ∧ exec .getCapabilities s = .next (replies s .capabilities) ∧
    exec .negotiateAlgorithms s = .next (replies s .algorithms) ∧ (∃ x, exec .getDigests s = .next (replies s (.digests x)))) ∧
  (∀ (s : State) slot, ∃ x, exec (.getCertificate slot) s = .next (replies s (.certificate slot x))) ∧
  (∀ (s : State) nonce, ∃ x, exec (.challenge nonce) s = .next (replies s (.challengeAuth nonce x))) ∧
  (∀ (s : State) (i : Byte) nonce, 1 ≤ i.toNat → i.toNat ≤ 9 → ∃ m x, exec (.getMeasurements i nonce) s = .next (replies s (.measurements i [(i.toNat, m)] x)) ∧
    (5 ≤ i.toNat → (∀ e ∈ s.hub.report, e.pos = i.toNat - 5 → e.dstate ≠ 0) → m = 0)) ∧
  (∀ (s : State) (i : Byte) nonce, (i.toNat = 0 ∨ 9 < i.toNat) →
    exec (.getMeasurements i nonce) s = .next (replies s .error))

namespace Sys2Proof.Claims

/-- Offsets of read-write registers in BAR0, with the bits that they hold (R345, R362, R367, R376, R381, R400, R410,
R413, R440). -/
def rwRegs : List (Nat × Word) :=
  [(0x34, 0xFFFFFFFF), (0x38, 0xFFFFFFFF), (0x10100, 0xFFFFFFFF), (0x10104, 0xFFFFFFFF), (0x10108, 0xFFFFFFFF),
   (0x1010C, 0xFFFFFFFF), (0x10120, 0xFF), (0x20000, 0xFFFFFFFF), (0x20004, 0x7FFF), (0x20008, 0x1F),
   (0x20010, 0xFFFFFFFF), (0x20014, 0xFFFFFFFF), (0x20028, 0xFFFFFFFF), (0x2002C, 0x1FFFFFF), (0x21000, 0xFFFFFFFF),
   (0x21004, 0x7FFF), (0x21010, 0xFFFFFFFF), (0x21014, 0x7FFF), (0x21018, 0x1F), (0x21020, 0xFFFFFFFF),
   (0x21028, 0xFFFFFFFF), (0x2102C, 0x7FFF), (0x21030, 0xFFFFFFFF), (0x21034, 0xFFFFFFFF), (0x21038, 0x1F),
   (0x21040, 0xFFFFFFFF), (0x21044, 0x7FFF), (0x21048, 0xFFFFFFFF), (0x2104C, 0x7FFF), (0x30008, 0x11F),
   (0x3000C, 0xFFFFFFFF), (0x30020, 0xFFFFFFFF), (0x30024, 0xFFFFFFFF), (0x30028, 0xFFFFFFFF), (0x30100, 0x7FF),
   (0x30140, 0xFFFFFFFF), (0x30144, 0x7FFF), (0x30148, 0x7FF)]

end Sys2Proof.Claims

/-- The register access has completed, as an unsupported request or not (R434). -/
def Sys2Proof.Claims.completes (s : State) (ur : Bool) : State := { s with hub := { s.hub with ur := ur } }

/-- R7, R345, R362, R367, R368, R376, R381, R400, R410, R413, R434, R440, R444: a register write takes effect and a read-write register reads back as the bits it holds; an
access that is not a naturally aligned one of 4 or 8 bytes completes as an unsupported request; a failed boot leaves only the management page; a context descriptor is valid exactly when its heap and root are legal.
Where a clause rests on the model's own choice or inference and not on the spec's words, that is log 41 and 54. -/
def Obligations.HostRegisters : Prop :=
  (∀ (s : State) p val, p ∈ rwRegs → s.hub.bootst ≠ 4 →
    ∃ t, exec (.registerWrite (BitVec.ofNat 25 p.1) false val) s = .next t ∧ t.read32 p.1 = lo32 val &&& p.2 ∧
      t.mem = s.mem ∧ t.blocks = s.blocks) ∧
  (∀ (s : State) (off : BitVec 25) val,
    (off.toNat % 4 ≠ 0 → exec (.registerWrite off false val) s = .next (completes s true)) ∧
    (off.toNat % 8 ≠ 0 → exec (.registerWrite off true val) s = .next (completes s true))) ∧
  (∀ (s : State) off n, (s.regRead off n).isSome = true ↔ (n = 4 ∨ n = 8) ∧ off % n = 0) ∧
  (∀ (s : State) (off : BitVec 25) val, s.hub.bootst = 4 → 0x10000 ≤ off.toNat → off.toNat % 4 = 0 →
    exec (.registerWrite off false val) s = .next (completes s false)) ∧
  (∀ (s : State) val, s.fab.stup = 0 → s.hub.bootst ≠ 4 → ∃ t, exec (.registerWrite 0x30000 false val) s = .next t ∧
    t.fab.fabid = (lo32 val).setWidth 10 ∧ t.fab.fvalid = bit (lo32 val) 10) ∧
  (∀ (s : State) val, s.fab.stup ≠ 0 → s.hub.bootst ≠ 4 →
    exec (.registerWrite 0x30000 false val) s = .next (completes s false)) ∧
  (∀ (s : State) (c : BitVec 4) (off : BitVec 6) wide val, s.hub.bootst ≠ 4 → c.toNat < s.ctxs.length → off.toNat < 0x28 →
    ∃ t k, exec (.contextDescWrite c off wide val) s = .next t ∧ t.context c.toNat = k ∧ t.mem = s.mem ∧
      k.cerr = !k.cvalid ∧ k.hbase = ((s.context c.toNat).put off.toNat wide val).hbase ∧
      k.ptroot = ((s.context c.toNat).put off.toNat wide val).ptroot ∧
      (k.cvalid = true ↔ k.ptroot.toNat % 4096 = 0 ∧ (k.hlim = 0 ∨
        (k.hbase.toNat + k.hlim.toNat ≤ 2 ^ 57 ∧
          ((k.hbase + k.hofs).toNat + k.hlim.toNat ≤ 640000000000 ∨
            (2 ^ 40 ≤ (k.hbase + k.hofs).toNat ∧ (k.hbase + k.hofs).toNat + k.hlim.toNat ≤ 2 ^ 40 + 1024000000000)))))) ∧
  (∀ (s : State) (c : BitVec 4) (off : BitVec 6) wide val, 0x28 ≤ off.toNat →
    exec (.contextDescWrite c off wide val) s = .next s)

/-- R85, R90: the issue of an opcode that the table does not assign raises ILLEGAL_OPCODE with detail 0x00, in a warp and
in a stream. -/
def Sys2Proof.Claims.UnassignedOpcodes : Prop :=
  (∀ (s : State) raw w b x, s.cur = some (.warp w) → s.warp? w = some (b, x) →
    x.canIssue (s.clkOf (dieOfCore b.core)) = true → s.stopDue w x = false →
    exec (.unassignedOpcodeIssue raw) s = .next (s.takeTrap w { cause := .illegalOpcode, detail := 0, addr := 0 } x.pc)) ∧
  (∀ (s : State) raw b k q, s.cur = some (.seq b) → s.seq? b = some (k, q) →
    q.canIssue (s.clkOf (dieOfCore k.core)) = true →
    exec (.unassignedOpcodeIssue raw) s = .next (s.streamTrap b { cause := .illegalOpcode, detail := 0, addr := 0 } q.pc))


/-! ### Decoding, steps, reset and the invariant -/

namespace Sys2Proof.Claims

/-- Words of every group, each with its bits H, X, B, A, D, G and OP written out from R66-R79 and R84, and the instruction
that each stands for. -/
def wordTable : List (IWord × Instr) :=
  [
   (0,
    .nop ⟨⟨0, 0, false, false, 0⟩, ⟨false, 0⟩, .s 0, .s 0, .s 0, 0⟩),
   (0b00000000000011_11111111111111111111111111111110_111111111111_111111111111_111111111111_0111_0000000001,
    .bra ⟨⟨0, 0, false, false, 3⟩, ⟨false, 7⟩, .none, .none, .none, 0xFFFFFFFE⟩),
   (0b00010001010101_11111111111100000000000000000001_100110001001_000000000101_001010111100_0111_0001000010,
    .sadd ⟨⟨2, 1, false, true, 5⟩, ⟨false, 7⟩, .s 700, .s 5, .kc 9, .none, 0, 0, false, false, false, false, false, false,
      .rne, .n32⟩),
   (0b00000000000001_11011110101011011011111011101111_000000000001_111111111111_000000001100_0111_0001000001,
    .sli ⟨⟨0, 0, false, false, 1⟩, ⟨false, 7⟩, .s 12, .none, 1, 0xDEADBEEF⟩),
   (0b00000000100010_11111111111100000000000000000000_100101111011_010011111111_010000000011_1010_0010000010,
    .vadd ⟨⟨0, 0, true, false, 2⟩, ⟨true, 2⟩, .v 3, .v 255, .imm 123, .none, 0, 0, false, false, false, false, false, false,
      .rne, .s32⟩),
   (0b00000000000100_01000000011100000000110011111000_010000000110_010000000101_010000000100_0111_0011000011,
    .ffma ⟨⟨0, 0, false, false, 4⟩, ⟨false, 7⟩, .v 4, .v 5, .v 6, .v 7, 0, 0, true, true, false, false, true, true, .ru, .f32⟩),
   (0b00000000000000_11111111111100100001000000001100_010000000010_010100001001_010000001000_0111_0100000100,
    .qnt ⟨⟨0, 0, false, false, 0⟩, ⟨false, 7⟩, .v 8, .e 9, .v 2, .none, 2, 1, false, false, false, false, false, false,
      .rne, .bf16⟩),
   (0b00000000000000_11111111111100000100000000001101_100100000001_010000010100_010000010101_0001_0101000011,
    .shflx ⟨⟨0, 0, false, false, 0⟩, ⟨false, 1⟩, .v 21, .v 20, .imm 1, .none, 0, 4, false, false, false, false, false, false,
      .rne, .b32⟩),
   (0b00000000000001_11111111111111110000000101001011_010000011110_000000001000_010000101000_0111_0110000000,
    .ldg ⟨⟨0, 0, false, false, 1⟩, ⟨false, 7⟩, .v 40, .s 8, .v 30, 0xFFFF0, 0, 1, 2, 1, 3⟩),
   (0b00000110000000_01111111111110000001000001111010_010000011110_010000001000_010000101000_0111_0111000000,
    .atom ⟨⟨0, 6, false, false, 0⟩, ⟨false, 7⟩, .v 40, .v 8, .v 30, 0x7FF, 8, 1, 0, 0, 3, 3, 2⟩),
   (0b00000000000000_11111111111100000000000000000000_111111111111_000001000000_000000000010_0111_1000000000,
    .cpyk ⟨⟨0, 0, false, false, 0⟩, ⟨false, 7⟩, .s 2, .s 64, .none, .none, 0, 0, false, false, false, false, false, false,
      .rne, .s32⟩),
   (0b00000000000000_11111111111100000000000000000000_111111111111_100100000011_111111111111_0111_1001000000,
    .bar ⟨⟨0, 0, false, false, 0⟩, ⟨false, 7⟩, .none, .imm 3, .none, .none, 0, 0, false, false, false, false, false, false,
      .rne, .s32⟩),
   (0b00000000000000_01110000010100000000000000000000_011100111111_011100000001_011000001111_0111_1010000000,
    .mma ⟨⟨0, 0, false, false, 0⟩, ⟨false, 7⟩, .a 15, .m 1, .m 63, .m 5, 0, 0, false, false, false, false, false, false,
      .rne, .s32⟩),
   (0b00000000000000_11111111111100000000000000000001_111111111111_100010000011_000000000001_0111_1011000000,
    .sread ⟨⟨0, 0, false, false, 0⟩, ⟨false, 7⟩, .s 1, .sp 3, .none, .none, 0, 0, false, false, false, false, false, false,
      .rne, .n32⟩),
   (0b00000000000000_11111111111100000000000000000000_100000000110_100000000001_100000000010_1000_0010011100,
    .klogic ⟨⟨0, 0, false, false, 0⟩, ⟨true, 0⟩, .k 2, .k 1, .k 6, .none, 0, 0, false, false, false, false, false, false,
      .rne, .s32⟩)]

/-- The word at byte `o` of a code block's line. -/
def wordIn (d : VReg) (o : Nat) : List Byte := (List.range 12).map (fun k => byteAt d (o + k))

end Sys2Proof.Claims

/-- R66-R79, R84, R85: every well-formed instruction that has a word decodes from that word, and from its twelve bytes at
the front of any others; and every word is the encoding of what it decodes to, so that no bit is dropped.
Where a clause rests on the model's own choice or inference and not on the spec's words, that is log 61. -/
def Obligations.DecodeEncode : Prop :=
  (∀ i w, WellFormed i = true → encodeWord i = some w → decodeWord w = i) ∧
  (∀ i rest, WellFormed i = true → (encodeWord i).isSome = true → decode (encode i ++ rest) = .ok (i, rest)) ∧
  (∀ w, encodeWord (decodeWord w) = some w)

/-- R66-R79, R84-R86: a word of every group, written out bit by bit, decodes to the instruction it stands for; an opcode
beyond the table's decodes to the step that traps. -/
def Obligations.DecodeWords : Prop :=
  (∀ p ∈ wordTable, decodeWord p.1 = p.2) ∧
  decodeWord 0x011 = .unassignedOpcodeIssue 0x011 ∧ decodeWord 0x292 = .unassignedOpcodeIssue 0x292 ∧
  decodeWord 0x300 = .unassignedOpcodeIssue 0x300

/-- R67, R81, R274, R360: the step of a quadrant in which a warp is chosen is `exec` of what the twelve bytes at that
warp's PC decode to, unless a trap is due there, with the quadrant's own note of an issue; a quadrant that has issued in
this clk, whose die's clock stands, or of which no warp is ready issues nothing; the step of a stream is `exec` of the
word at its PC; any other turn is `exec` of its event, or time passing.
Where a clause rests on the model's own choice or inference and not on the spec's words, that is log 1 and 91. -/
def Obligations.StepRunsDecoded : Prop :=
  (∀ (s : State) c q rest, s.agenda = .quadrant c q :: rest → (s.die (dieOfCore c)).clocked = true → s.quadSpent c q = false →
    (let r := ({ s with agenda := rest, cur := none } : State).findReady c q
     (r.1.pickWarp c q r.2 = none → step s = .next r.1) ∧
     (∀ w b x, r.1.pickWarp c q r.2 = some w →
       let s1 := { (r.1.setWarp w (fun x => { x with yieldTo := [] })) with ready := r.2 }
       s1.warp? w = some (b, x) →
       (∀ d i, x.trapDue (s1.clkOf (dieOfCore b.core)) = false → x.ibuf = some (x.pc.toNat / 128, d) →
         x.pc.toNat % 128 ≤ 116 → decode (wordIn d (x.pc.toNat % 128)) = .ok (i, []) →
         step s = s1.noteIssue c q w (exec i { s1 with cur := some (.warp w) })) ∧
       (x.trapDue (s1.clkOf (dieOfCore b.core)) = true →
         step s = s1.noteIssue c q w (exec .pendingTrapTaken { s1 with on := { w := w } }))))) ∧
  (∀ (s : State) c q rest, s.agenda = .quadrant c q :: rest → ((s.die (dieOfCore c)).clocked = false ∨ s.quadSpent c q = true) →
    step s = .next { s with agenda := rest, cur := none }) ∧
  (∀ (s : State) bid rest k q d i, s.agenda = .seq bid :: rest → s.seq? bid = some (k, q) →
    (s.die (dieOfCore k.core)).clocked = true → q.ibuf = some (q.pc.toNat / 128, d) → q.pc.toNat % 128 ≤ 116 →
    decode (wordIn d (q.pc.toNat % 128)) = .ok (i, []) →
    step s = exec i { s with agenda := rest, cur := some (.seq bid) }) ∧
  (∀ (s : State) i on rest, s.agenda = .event i on :: rest → step s = exec i { s with agenda := rest, cur := none, on := on }) ∧
  (∀ (s : State) n rest, s.agenda = .ns n :: rest → s.hub.tnext = none → ∃ t, step s = .next t ∧ t.now = s.now + n ∧
    t.gtime = s.gtime + BitVec.ofNat 64 n ∧ t.mem = s.mem ∧ t.blocks = s.blocks) ∧
  (∀ (s t : State) c q w, s.noteIssue c q w (.next t) = .next t ∨ s.noteIssue c q w (.next t) = .next (t.issued c q w)) ∧
  (∀ (s : State) c q w (x y : Warp) b, s.warp? w = some (b, x) →
    (∃ b1, (s.issued c q w).warp? w = some (b1, y)) → y.pc = x.pc ∧ y.v = x.v ∧ y.s = x.s ∧ y.k = x.k ∧ y.win = x.win ∧
      y.readyFor = 0 ∧ (s.issued c q w).mem = s.mem) ∧
  (∀ (s : State), s.agenda = [] → step s = .next s)

/-- R321, R345, R368, R381, R400, R440: what reset leaves: every bank of every core in CACHE mode, no queue enabled, no
context valid, the registers of the fabric, Castle and management pages at the values their tables give, no block, grid or
operation anywhere; memory lists nothing and is in canonical form.
Where a clause rests on the model's own choice or inference and not on the spec's words, that is log 3, 4 and 5. -/
def Obligations.ResetState : Prop :=
  let s := State.reset
  s.wf = true ∧ s.mem = [] ∧ s.blocks = [] ∧ s.grids = [] ∧ s.eng = [] ∧ s.msgs = [] ∧ s.cores.length = 192 ∧
  (∀ c, c < 192 → (s.core c).modes = List.replicate 16 .cache ∧ (s.core c).owned = 0 ∧ (s.core c).fused = false) ∧
  s.queues.length = 64 ∧ (∀ q ∈ s.queues, q.qstate = 0 ∧ q.head = 0 ∧ q.done = 0 ∧ q.tail = 0) ∧
  s.ctxs.length = 16 ∧ (∀ c ∈ s.ctxs, c.cvalid = false ∧ c.cerr = false) ∧
  s.fab.treq = 2000000 ∧ s.fab.stmap0 = 0x76543210 ∧ s.fab.stmap1 = 0xFEDCBA98 ∧ s.fab.kto = 100000000 ∧ s.fab.nsw = 16 ∧
  s.fab.rstpol = false ∧ s.fab.fvalid = false ∧ s.castle.dshift = 1 ∧ s.castle.ckbusy = false ∧ s.hub.corefloor = 184 ∧
  s.hub.errwin = 1000000000 ∧ s.hub.errthr = 1000 ∧ s.hub.bootst = 0 ∧ s.hub.swapped = false ∧ s.fq.poisrd = 0 ∧
  s.front.cbusy = false ∧ (∀ d ∈ s.dies, d.ptgt = 0 ∧ d.pcur = 0 ∧ d.pbusy = false ∧ d.halt = false ∧ d.dieflt = false)

/-- The tables of memory stay canonical, addresses rising and no entry equal to what an unlisted one reads as, whatever
step the machine takes from a state in which they are. -/
def Obligations.MemoryCanonical : Prop :=
  ∀ s t : State, s.wf = true → step s = .next t → t.wf = true



/-! ### Completion of single forms -/

namespace Sys2Proof.Claims

/-- The word `i` of shape `sh` completes wherever it issues and `pre` holds: `exec` answers a next state in which its warp
stands at the next slot, one instruction on, and no byte of memory has changed. -/
def Advances (i : Instr) (sh : Shape) (pre : Ctx → Prop := fun _ => True) : Prop :=
  ∀ (s : State) (w : WarpId) (c : Ctx), Issues sh noRow7 s w c → pre c →
    ∃ t b x, exec i s = .next t ∧ t.warp? w = some (b, x) ∧ x.pc = nextPc c.pc ∧ x.win.num = c.w.win.num + 1 ∧
      t.mem = s.mem ∧ t.side = s.side

end Sys2Proof.Claims

/-- R27, R165-R168, R228, R262-R268: where conversions of block-scaled registers, operations on barrier objects, accesses
to special registers and to the generator, and reads of clocks and counters complete: on every operand, but that an object
word names a declared object, `BOINIT` an arrival count from 1 to 1023, a word on `%fpst` waits for earlier flags, and in
checked mode a word that reads a special register finds it covered. `VDOT4` (R140) gives the dot products of four bytes;
that an inline immediate in A or B stands there for the four bytes of its sign extension is the model's choice (log 76). -/
def Obligations.FormsComplete : Prop :=
  (∀ f, Gives (.vdot4 f) (shVdot4 f) (fun c => outV (c.regwrite f.g) (opndNum f.d) false (fun l =>
    idot4 (f.ty == .s8) (f.opx == 1) f.sat (c.vecN .n32 f.a l) (c.vecN .n32 f.b l) (c.vecN .n32 f.c l)))) ∧
  (∀ f, Advances (.qnt f) (shQnt f) ∧ Advances (.mxpk f) (shMxpk f) ∧ Advances (.mxup f) (shMxup f) ∧
    Advances (.mxcvt f) (shMxcvt f)) ∧
  (∀ f, Advances (.boinit f) (shBoinit f)
    (fun c => c.uni32 f.a < Rec.nbobj c.g.record ∧ 1 ≤ c.uni32 f.b ∧ c.uni32 f.b ≤ 1023)) ∧
  (∀ f, Advances (.boarv f) (shBoarv f) (fun c => c.uni32 f.a < Rec.nbobj c.g.record)) ∧
  (∀ f, Advances (.boexp f) (shBoinit f) (fun c => c.uni32 f.a < Rec.nbobj c.g.record)) ∧
  (∀ f, Advances (.sread f) (shSread f) (fun c => ∀ r, specOf (spNum f.a) = some r → specFree c r)) ∧
  (∀ f, Advances (.swrite f) (shSwrite f) (fun c => specOf (spNum f.d) = some .fpst → c.fpHeld = false)) ∧
  (∀ f, Advances (.ctrget f) (shCtrget f) (fun c => specFree c (genSel f))) ∧
  (∀ f, Advances (.ctrset f) (shCtrset f) (fun c => c.chk = true → f.opx = 1 → c.w.specUncovered .ctr = false)) ∧
  (∀ f, Advances (.rng f) (shRng f) (fun c => specFree c .key ∧ specFree c .ctr)) ∧
  (∀ f, Advances (.clock f) (shClock f) ∧ Advances (.gtime f) (shClock f) ∧ Advances (.pmrd f) (shPmrd f))

/-! ### Joined statements -/

/-- R85, R90, R260, R269: software traps and breakpoints, the trap of an opcode that the table does not assign, and the checks
of every word before it issues.
Where a clause rests on the model's own choice or inference and not on the spec's words, that is log 61 and 84. -/
def Obligations.TrapsRaised : Prop := SoftwareTraps ∧ UnassignedOpcodes ∧ WordChecks

/-- R214, R216, R361, R389, R395: the kicks of the engines and services, and the migration hint.
Where a clause rests on the model's own choice or inference and not on the spec's words, that is log 19 and 58. -/
def Obligations.Kicks : Prop := EngineKicks ∧ MigrationHint

/-- R118-R122, R124-R127, R135-R139, R141, R142: comparison, selection, fields, counts and moves, in uniform and in vector words. -/
def Obligations.Selection : Prop := UniformSelection ∧ VectorSelection

/-- R28-R33: the path counters fall in issue order, what a read of a register finds, and what checked mode refuses.
Where a clause rests on the model's own choice or inference and not on the spec's words, that is log 11, 65 and 84. -/
def Obligations.IssueWindow : Prop := PathCountersFallInOrder ∧ WindowReads ∧ CheckedMode

/-- R218, R220, R221, R416, R418-R420: the copy and gather/scatter engines move bytes, and a collective plan ends.
Where a clause rests on the model's own choice or inference and not on the spec's words, that is log 17, 18, 47, 69 and 103. -/
def Obligations.EnginesAndCollectives : Prop := CopiesAndRows ∧ CollectivesEnd

/-- R55, R57-R60, R165-R170: element codes, and conversions to and from block-scaled registers. -/
def Obligations.BlockScaled : Prop := ElementCodes ∧ BlockScaledConversions

/-- R178-R187: exchange between lanes, votes, reductions and scans. -/
def Obligations.AcrossLanes : Prop := LaneExchange ∧ ReductionsAndScans

/-- R171-R174, R243-R247, R252: accumulator rows of a warp, and tiles and M registers of the stream.
Where a clause rests on the model's own choice or inference and not on the spec's words, that is log 20. -/
def Obligations.AccumulatorTransfers : Prop := AccumulatorRows ∧ TileTransfers

/-- R248-R255: control and barriers in a matrix stream.
Where a clause rests on the model's own choice or inference and not on the spec's words, that is log 70 and 80. -/
def Obligations.StreamControlAndBarriers : Prop := StreamControl ∧ StreamBarriers

/-- R222, R223, R225, R226, R229, R295: arrivals at barriers, and waits on them.
Where a clause rests on the model's own choice or inference and not on the spec's words, that is log 25 and 71. -/
def Obligations.ArrivalsAndWaits : Prop := BarrierArrivals ∧ BarrierWaits

/-- R16, R35, R107, R222, R224, R228: the traps that control words and barrier words take.
Where a clause rests on the model's own choice or inference and not on the spec's words, that is log 25 and 85. -/
def Obligations.ControlAndBarrierTraps : Prop := ControlTraps ∧ BarrierTraps

/-- R204-R207, R210-R213, R295, R306, R470: fences, path counters, atomics, their functions, and reductions.
Where a clause rests on the model's own choice or inference and not on the spec's words, that is log 10, 62, 63, 71, 86 and 87. -/
def Obligations.FencesAndAtomics : Prop := FencesAndCounters ∧ AtomicsAndReductions ∧ AtomicFunctions

/-- R47-R50, R147-R150, R156-R158: the approximated functions, and laws of the floating-point functions.
Where a clause rests on the model's own choice or inference and not on the spec's words, that is log 66. -/
def Obligations.ApproximationsAndLaws : Prop := ApproximatedFunctions ∧ FloatLaws

/-- R24-R26, R260-R268: special registers, the generator, the clocks and the event counters.
Where a clause rests on the model's own choice or inference and not on the spec's words, that is log 11 and 12. -/
def Obligations.RegistersAndGenerators : Prop := SpecialRegisters ∧ GeneratorAndClocks


/-- R276, R277, R327, R369-R374, R376-R379, R383: the translation of an address, the fault queue, its answers, and TLB flushes.
Where a clause rests on the model's own choice or inference and not on the spec's words, that is log 27 and 113. -/
def Obligations.FaultQueue : Prop := FaultAnswers ∧ Translation
end

