-- ==== Sys2Proof/Laws/State.lean ====
section
/-! SUPPORT. What each update of `State` leaves alone: one lemma per field per update. -/

namespace Sys2Proof.Machine

/-! ### `State.setBlock` -/

@[simp] theorem State.setBlock_agenda (s : State) (b : BlockId) (f : Block → Block) : (s.setBlock b f).agenda = s.agenda := rfl
@[simp] theorem State.setBlock_cur (s : State) (b : BlockId) (f : Block → Block) : (s.setBlock b f).cur = s.cur := rfl
@[simp] theorem State.setBlock_on (s : State) (b : BlockId) (f : Block → Block) : (s.setBlock b f).on = s.on := rfl
@[simp] theorem State.setBlock_freeCtr (s : State) (b : BlockId) (f : Block → Block) : (s.setBlock b f).freeCtr = s.freeCtr := rfl
@[simp] theorem State.setBlock_now (s : State) (b : BlockId) (f : Block → Block) : (s.setBlock b f).now = s.now := rfl
@[simp] theorem State.setBlock_gtime (s : State) (b : BlockId) (f : Block → Block) : (s.setBlock b f).gtime = s.gtime := rfl
@[simp] theorem State.setBlock_clks (s : State) (b : BlockId) (f : Block → Block) : (s.setBlock b f).clks = s.clks := rfl
@[simp] theorem State.setBlock_mem (s : State) (b : BlockId) (f : Block → Block) : (s.setBlock b f).mem = s.mem := rfl
@[simp] theorem State.setBlock_side (s : State) (b : BlockId) (f : Block → Block) : (s.setBlock b f).side = s.side := rfl
@[simp] theorem State.setBlock_poison (s : State) (b : BlockId) (f : Block → Block) : (s.setBlock b f).poison = s.poison := rfl
@[simp] theorem State.setBlock_cores (s : State) (b : BlockId) (f : Block → Block) : (s.setBlock b f).cores = s.cores := rfl
@[simp] theorem State.setBlock_dies (s : State) (b : BlockId) (f : Block → Block) : (s.setBlock b f).dies = s.dies := rfl
@[simp] theorem State.setBlock_grids (s : State) (b : BlockId) (f : Block → Block) : (s.setBlock b f).grids = s.grids := rfl
@[simp] theorem State.setBlock_queues (s : State) (b : BlockId) (f : Block → Block) : (s.setBlock b f).queues = s.queues := rfl
@[simp] theorem State.setBlock_front (s : State) (b : BlockId) (f : Block → Block) : (s.setBlock b f).front = s.front := rfl
@[simp] theorem State.setBlock_ctxs (s : State) (b : BlockId) (f : Block → Block) : (s.setBlock b f).ctxs = s.ctxs := rfl
@[simp] theorem State.setBlock_qctxs (s : State) (b : BlockId) (f : Block → Block) : (s.setBlock b f).qctxs = s.qctxs := rfl
@[simp] theorem State.setBlock_fq (s : State) (b : BlockId) (f : Block → Block) : (s.setBlock b f).fq = s.fq := rfl
@[simp] theorem State.setBlock_castle (s : State) (b : BlockId) (f : Block → Block) : (s.setBlock b f).castle = s.castle := rfl
@[simp] theorem State.setBlock_fab (s : State) (b : BlockId) (f : Block → Block) : (s.setBlock b f).fab = s.fab := rfl
@[simp] theorem State.setBlock_hub (s : State) (b : BlockId) (f : Block → Block) : (s.setBlock b f).hub = s.hub := rfl
@[simp] theorem State.setBlock_msgs (s : State) (b : BlockId) (f : Block → Block) : (s.setBlock b f).msgs = s.msgs := rfl
@[simp] theorem State.setBlock_fetches (s : State) (b : BlockId) (f : Block → Block) : (s.setBlock b f).fetches = s.fetches := rfl
@[simp] theorem State.setBlock_staged (s : State) (b : BlockId) (f : Block → Block) : (s.setBlock b f).staged = s.staged := rfl
@[simp] theorem State.setBlock_eng (s : State) (b : BlockId) (f : Block → Block) : (s.setBlock b f).eng = s.eng := rfl
@[simp] theorem State.setBlock_nextEng (s : State) (b : BlockId) (f : Block → Block) : (s.setBlock b f).nextEng = s.nextEng := rfl
@[simp] theorem State.setBlock_irqs (s : State) (b : BlockId) (f : Block → Block) : (s.setBlock b f).irqs = s.irqs := rfl
@[simp] theorem State.setBlock_holds (s : State) (b : BlockId) (f : Block → Block) : (s.setBlock b f).holds = s.holds := rfl
@[simp] theorem State.setBlock_hostRead (s : State) (b : BlockId) (f : Block → Block) : (s.setBlock b f).hostRead = s.hostRead := rfl
@[simp] theorem State.setBlock_hostCache (s : State) (b : BlockId) (f : Block → Block) : (s.setBlock b f).hostCache = s.hostCache := rfl
@[simp] theorem State.setBlock_ready (s : State) (b : BlockId) (f : Block → Block) : (s.setBlock b f).ready = s.ready := rfl

/-! ### `State.setWarp` -/

@[simp] theorem State.setWarp_agenda (s : State) (w : WarpId) (f : Warp → Warp) : (s.setWarp w f).agenda = s.agenda := rfl
@[simp] theorem State.setWarp_cur (s : State) (w : WarpId) (f : Warp → Warp) : (s.setWarp w f).cur = s.cur := rfl
@[simp] theorem State.setWarp_on (s : State) (w : WarpId) (f : Warp → Warp) : (s.setWarp w f).on = s.on := rfl
@[simp] theorem State.setWarp_freeCtr (s : State) (w : WarpId) (f : Warp → Warp) : (s.setWarp w f).freeCtr = s.freeCtr := rfl
@[simp] theorem State.setWarp_now (s : State) (w : WarpId) (f : Warp → Warp) : (s.setWarp w f).now = s.now := rfl
@[simp] theorem State.setWarp_gtime (s : State) (w : WarpId) (f : Warp → Warp) : (s.setWarp w f).gtime = s.gtime := rfl
@[simp] theorem State.setWarp_clks (s : State) (w : WarpId) (f : Warp → Warp) : (s.setWarp w f).clks = s.clks := rfl
@[simp] theorem State.setWarp_mem (s : State) (w : WarpId) (f : Warp → Warp) : (s.setWarp w f).mem = s.mem := rfl
@[simp] theorem State.setWarp_side (s : State) (w : WarpId) (f : Warp → Warp) : (s.setWarp w f).side = s.side := rfl
@[simp] theorem State.setWarp_poison (s : State) (w : WarpId) (f : Warp → Warp) : (s.setWarp w f).poison = s.poison := rfl
@[simp] theorem State.setWarp_cores (s : State) (w : WarpId) (f : Warp → Warp) : (s.setWarp w f).cores = s.cores := rfl
@[simp] theorem State.setWarp_dies (s : State) (w : WarpId) (f : Warp → Warp) : (s.setWarp w f).dies = s.dies := rfl
@[simp] theorem State.setWarp_grids (s : State) (w : WarpId) (f : Warp → Warp) : (s.setWarp w f).grids = s.grids := rfl
@[simp] theorem State.setWarp_queues (s : State) (w : WarpId) (f : Warp → Warp) : (s.setWarp w f).queues = s.queues := rfl
@[simp] theorem State.setWarp_front (s : State) (w : WarpId) (f : Warp → Warp) : (s.setWarp w f).front = s.front := rfl
@[simp] theorem State.setWarp_ctxs (s : State) (w : WarpId) (f : Warp → Warp) : (s.setWarp w f).ctxs = s.ctxs := rfl
@[simp] theorem State.setWarp_qctxs (s : State) (w : WarpId) (f : Warp → Warp) : (s.setWarp w f).qctxs = s.qctxs := rfl
@[simp] theorem State.setWarp_fq (s : State) (w : WarpId) (f : Warp → Warp) : (s.setWarp w f).fq = s.fq := rfl
@[simp] theorem State.setWarp_castle (s : State) (w : WarpId) (f : Warp → Warp) : (s.setWarp w f).castle = s.castle := rfl
@[simp] theorem State.setWarp_fab (s : State) (w : WarpId) (f : Warp → Warp) : (s.setWarp w f).fab = s.fab := rfl
@[simp] theorem State.setWarp_hub (s : State) (w : WarpId) (f : Warp → Warp) : (s.setWarp w f).hub = s.hub := rfl
@[simp] theorem State.setWarp_msgs (s : State) (w : WarpId) (f : Warp → Warp) : (s.setWarp w f).msgs = s.msgs := rfl
@[simp] theorem State.setWarp_fetches (s : State) (w : WarpId) (f : Warp → Warp) : (s.setWarp w f).fetches = s.fetches := rfl
@[simp] theorem State.setWarp_staged (s : State) (w : WarpId) (f : Warp → Warp) : (s.setWarp w f).staged = s.staged := rfl
@[simp] theorem State.setWarp_eng (s : State) (w : WarpId) (f : Warp → Warp) : (s.setWarp w f).eng = s.eng := rfl
@[simp] theorem State.setWarp_nextEng (s : State) (w : WarpId) (f : Warp → Warp) : (s.setWarp w f).nextEng = s.nextEng := rfl
@[simp] theorem State.setWarp_irqs (s : State) (w : WarpId) (f : Warp → Warp) : (s.setWarp w f).irqs = s.irqs := rfl
@[simp] theorem State.setWarp_holds (s : State) (w : WarpId) (f : Warp → Warp) : (s.setWarp w f).holds = s.holds := rfl
@[simp] theorem State.setWarp_hostRead (s : State) (w : WarpId) (f : Warp → Warp) : (s.setWarp w f).hostRead = s.hostRead := rfl
@[simp] theorem State.setWarp_hostCache (s : State) (w : WarpId) (f : Warp → Warp) : (s.setWarp w f).hostCache = s.hostCache := rfl
@[simp] theorem State.setWarp_ready (s : State) (w : WarpId) (f : Warp → Warp) : (s.setWarp w f).ready = s.ready := rfl

/-! ### `State.setSeq` -/

@[simp] theorem State.setSeq_agenda (s : State) (b : BlockId) (f : Seq → Seq) : (s.setSeq b f).agenda = s.agenda := rfl
@[simp] theorem State.setSeq_cur (s : State) (b : BlockId) (f : Seq → Seq) : (s.setSeq b f).cur = s.cur := rfl
@[simp] theorem State.setSeq_on (s : State) (b : BlockId) (f : Seq → Seq) : (s.setSeq b f).on = s.on := rfl
@[simp] theorem State.setSeq_freeCtr (s : State) (b : BlockId) (f : Seq → Seq) : (s.setSeq b f).freeCtr = s.freeCtr := rfl
@[simp] theorem State.setSeq_now (s : State) (b : BlockId) (f : Seq → Seq) : (s.setSeq b f).now = s.now := rfl
@[simp] theorem State.setSeq_gtime (s : State) (b : BlockId) (f : Seq → Seq) : (s.setSeq b f).gtime = s.gtime := rfl
@[simp] theorem State.setSeq_clks (s : State) (b : BlockId) (f : Seq → Seq) : (s.setSeq b f).clks = s.clks := rfl
@[simp] theorem State.setSeq_mem (s : State) (b : BlockId) (f : Seq → Seq) : (s.setSeq b f).mem = s.mem := rfl
@[simp] theorem State.setSeq_side (s : State) (b : BlockId) (f : Seq → Seq) : (s.setSeq b f).side = s.side := rfl
@[simp] theorem State.setSeq_poison (s : State) (b : BlockId) (f : Seq → Seq) : (s.setSeq b f).poison = s.poison := rfl
@[simp] theorem State.setSeq_cores (s : State) (b : BlockId) (f : Seq → Seq) : (s.setSeq b f).cores = s.cores := rfl
@[simp] theorem State.setSeq_dies (s : State) (b : BlockId) (f : Seq → Seq) : (s.setSeq b f).dies = s.dies := rfl
@[simp] theorem State.setSeq_grids (s : State) (b : BlockId) (f : Seq → Seq) : (s.setSeq b f).grids = s.grids := rfl
@[simp] theorem State.setSeq_queues (s : State) (b : BlockId) (f : Seq → Seq) : (s.setSeq b f).queues = s.queues := rfl
@[simp] theorem State.setSeq_front (s : State) (b : BlockId) (f : Seq → Seq) : (s.setSeq b f).front = s.front := rfl
@[simp] theorem State.setSeq_ctxs (s : State) (b : BlockId) (f : Seq → Seq) : (s.setSeq b f).ctxs = s.ctxs := rfl
@[simp] theorem State.setSeq_qctxs (s : State) (b : BlockId) (f : Seq → Seq) : (s.setSeq b f).qctxs = s.qctxs := rfl
@[simp] theorem State.setSeq_fq (s : State) (b : BlockId) (f : Seq → Seq) : (s.setSeq b f).fq = s.fq := rfl
@[simp] theorem State.setSeq_castle (s : State) (b : BlockId) (f : Seq → Seq) : (s.setSeq b f).castle = s.castle := rfl
@[simp] theorem State.setSeq_fab (s : State) (b : BlockId) (f : Seq → Seq) : (s.setSeq b f).fab = s.fab := rfl
@[simp] theorem State.setSeq_hub (s : State) (b : BlockId) (f : Seq → Seq) : (s.setSeq b f).hub = s.hub := rfl
@[simp] theorem State.setSeq_msgs (s : State) (b : BlockId) (f : Seq → Seq) : (s.setSeq b f).msgs = s.msgs := rfl
@[simp] theorem State.setSeq_fetches (s : State) (b : BlockId) (f : Seq → Seq) : (s.setSeq b f).fetches = s.fetches := rfl
@[simp] theorem State.setSeq_staged (s : State) (b : BlockId) (f : Seq → Seq) : (s.setSeq b f).staged = s.staged := rfl
@[simp] theorem State.setSeq_eng (s : State) (b : BlockId) (f : Seq → Seq) : (s.setSeq b f).eng = s.eng := rfl
@[simp] theorem State.setSeq_nextEng (s : State) (b : BlockId) (f : Seq → Seq) : (s.setSeq b f).nextEng = s.nextEng := rfl
@[simp] theorem State.setSeq_irqs (s : State) (b : BlockId) (f : Seq → Seq) : (s.setSeq b f).irqs = s.irqs := rfl
@[simp] theorem State.setSeq_holds (s : State) (b : BlockId) (f : Seq → Seq) : (s.setSeq b f).holds = s.holds := rfl
@[simp] theorem State.setSeq_hostRead (s : State) (b : BlockId) (f : Seq → Seq) : (s.setSeq b f).hostRead = s.hostRead := rfl
@[simp] theorem State.setSeq_hostCache (s : State) (b : BlockId) (f : Seq → Seq) : (s.setSeq b f).hostCache = s.hostCache := rfl
@[simp] theorem State.setSeq_ready (s : State) (b : BlockId) (f : Seq → Seq) : (s.setSeq b f).ready = s.ready := rfl

/-! ### `State.setGrid` -/

@[simp] theorem State.setGrid_agenda (s : State) (g : BitVec 32) (f : Grid → Grid) : (s.setGrid g f).agenda = s.agenda := rfl
@[simp] theorem State.setGrid_cur (s : State) (g : BitVec 32) (f : Grid → Grid) : (s.setGrid g f).cur = s.cur := rfl
@[simp] theorem State.setGrid_on (s : State) (g : BitVec 32) (f : Grid → Grid) : (s.setGrid g f).on = s.on := rfl
@[simp] theorem State.setGrid_freeCtr (s : State) (g : BitVec 32) (f : Grid → Grid) : (s.setGrid g f).freeCtr = s.freeCtr := rfl
@[simp] theorem State.setGrid_now (s : State) (g : BitVec 32) (f : Grid → Grid) : (s.setGrid g f).now = s.now := rfl
@[simp] theorem State.setGrid_gtime (s : State) (g : BitVec 32) (f : Grid → Grid) : (s.setGrid g f).gtime = s.gtime := rfl
@[simp] theorem State.setGrid_clks (s : State) (g : BitVec 32) (f : Grid → Grid) : (s.setGrid g f).clks = s.clks := rfl
@[simp] theorem State.setGrid_mem (s : State) (g : BitVec 32) (f : Grid → Grid) : (s.setGrid g f).mem = s.mem := rfl
@[simp] theorem State.setGrid_side (s : State) (g : BitVec 32) (f : Grid → Grid) : (s.setGrid g f).side = s.side := rfl
@[simp] theorem State.setGrid_poison (s : State) (g : BitVec 32) (f : Grid → Grid) : (s.setGrid g f).poison = s.poison := rfl
@[simp] theorem State.setGrid_blocks (s : State) (g : BitVec 32) (f : Grid → Grid) : (s.setGrid g f).blocks = s.blocks := rfl
@[simp] theorem State.setGrid_cores (s : State) (g : BitVec 32) (f : Grid → Grid) : (s.setGrid g f).cores = s.cores := rfl
@[simp] theorem State.setGrid_dies (s : State) (g : BitVec 32) (f : Grid → Grid) : (s.setGrid g f).dies = s.dies := rfl
@[simp] theorem State.setGrid_queues (s : State) (g : BitVec 32) (f : Grid → Grid) : (s.setGrid g f).queues = s.queues := rfl
@[simp] theorem State.setGrid_front (s : State) (g : BitVec 32) (f : Grid → Grid) : (s.setGrid g f).front = s.front := rfl
@[simp] theorem State.setGrid_ctxs (s : State) (g : BitVec 32) (f : Grid → Grid) : (s.setGrid g f).ctxs = s.ctxs := rfl
@[simp] theorem State.setGrid_qctxs (s : State) (g : BitVec 32) (f : Grid → Grid) : (s.setGrid g f).qctxs = s.qctxs := rfl
@[simp] theorem State.setGrid_fq (s : State) (g : BitVec 32) (f : Grid → Grid) : (s.setGrid g f).fq = s.fq := rfl
@[simp] theorem State.setGrid_castle (s : State) (g : BitVec 32) (f : Grid → Grid) : (s.setGrid g f).castle = s.castle := rfl
@[simp] theorem State.setGrid_fab (s : State) (g : BitVec 32) (f : Grid → Grid) : (s.setGrid g f).fab = s.fab := rfl
@[simp] theorem State.setGrid_hub (s : State) (g : BitVec 32) (f : Grid → Grid) : (s.setGrid g f).hub = s.hub := rfl
@[simp] theorem State.setGrid_msgs (s : State) (g : BitVec 32) (f : Grid → Grid) : (s.setGrid g f).msgs = s.msgs := rfl
@[simp] theorem State.setGrid_fetches (s : State) (g : BitVec 32) (f : Grid → Grid) : (s.setGrid g f).fetches = s.fetches := rfl
@[simp] theorem State.setGrid_staged (s : State) (g : BitVec 32) (f : Grid → Grid) : (s.setGrid g f).staged = s.staged := rfl
@[simp] theorem State.setGrid_eng (s : State) (g : BitVec 32) (f : Grid → Grid) : (s.setGrid g f).eng = s.eng := rfl
@[simp] theorem State.setGrid_nextEng (s : State) (g : BitVec 32) (f : Grid → Grid) : (s.setGrid g f).nextEng = s.nextEng := rfl
@[simp] theorem State.setGrid_irqs (s : State) (g : BitVec 32) (f : Grid → Grid) : (s.setGrid g f).irqs = s.irqs := rfl
@[simp] theorem State.setGrid_holds (s : State) (g : BitVec 32) (f : Grid → Grid) : (s.setGrid g f).holds = s.holds := rfl
@[simp] theorem State.setGrid_hostRead (s : State) (g : BitVec 32) (f : Grid → Grid) : (s.setGrid g f).hostRead = s.hostRead := rfl
@[simp] theorem State.setGrid_hostCache (s : State) (g : BitVec 32) (f : Grid → Grid) : (s.setGrid g f).hostCache = s.hostCache := rfl
@[simp] theorem State.setGrid_ready (s : State) (g : BitVec 32) (f : Grid → Grid) : (s.setGrid g f).ready = s.ready := rfl

/-! ### `State.setCore` -/

@[simp] theorem State.setCore_agenda (s : State) (c : Nat) (f : Core → Core) : (s.setCore c f).agenda = s.agenda := rfl
@[simp] theorem State.setCore_cur (s : State) (c : Nat) (f : Core → Core) : (s.setCore c f).cur = s.cur := rfl
@[simp] theorem State.setCore_on (s : State) (c : Nat) (f : Core → Core) : (s.setCore c f).on = s.on := rfl
@[simp] theorem State.setCore_freeCtr (s : State) (c : Nat) (f : Core → Core) : (s.setCore c f).freeCtr = s.freeCtr := rfl
@[simp] theorem State.setCore_now (s : State) (c : Nat) (f : Core → Core) : (s.setCore c f).now = s.now := rfl
@[simp] theorem State.setCore_gtime (s : State) (c : Nat) (f : Core → Core) : (s.setCore c f).gtime = s.gtime := rfl
@[simp] theorem State.setCore_clks (s : State) (c : Nat) (f : Core → Core) : (s.setCore c f).clks = s.clks := rfl
@[simp] theorem State.setCore_mem (s : State) (c : Nat) (f : Core → Core) : (s.setCore c f).mem = s.mem := rfl
@[simp] theorem State.setCore_side (s : State) (c : Nat) (f : Core → Core) : (s.setCore c f).side = s.side := rfl
@[simp] theorem State.setCore_poison (s : State) (c : Nat) (f : Core → Core) : (s.setCore c f).poison = s.poison := rfl
@[simp] theorem State.setCore_blocks (s : State) (c : Nat) (f : Core → Core) : (s.setCore c f).blocks = s.blocks := rfl
@[simp] theorem State.setCore_dies (s : State) (c : Nat) (f : Core → Core) : (s.setCore c f).dies = s.dies := rfl
@[simp] theorem State.setCore_grids (s : State) (c : Nat) (f : Core → Core) : (s.setCore c f).grids = s.grids := rfl
@[simp] theorem State.setCore_queues (s : State) (c : Nat) (f : Core → Core) : (s.setCore c f).queues = s.queues := rfl
@[simp] theorem State.setCore_front (s : State) (c : Nat) (f : Core → Core) : (s.setCore c f).front = s.front := rfl
@[simp] theorem State.setCore_ctxs (s : State) (c : Nat) (f : Core → Core) : (s.setCore c f).ctxs = s.ctxs := rfl
@[simp] theorem State.setCore_qctxs (s : State) (c : Nat) (f : Core → Core) : (s.setCore c f).qctxs = s.qctxs := rfl
@[simp] theorem State.setCore_fq (s : State) (c : Nat) (f : Core → Core) : (s.setCore c f).fq = s.fq := rfl
@[simp] theorem State.setCore_castle (s : State) (c : Nat) (f : Core → Core) : (s.setCore c f).castle = s.castle := rfl
@[simp] theorem State.setCore_fab (s : State) (c : Nat) (f : Core → Core) : (s.setCore c f).fab = s.fab := rfl
@[simp] theorem State.setCore_hub (s : State) (c : Nat) (f : Core → Core) : (s.setCore c f).hub = s.hub := rfl
@[simp] theorem State.setCore_msgs (s : State) (c : Nat) (f : Core → Core) : (s.setCore c f).msgs = s.msgs := rfl
@[simp] theorem State.setCore_fetches (s : State) (c : Nat) (f : Core → Core) : (s.setCore c f).fetches = s.fetches := rfl
@[simp] theorem State.setCore_staged (s : State) (c : Nat) (f : Core → Core) : (s.setCore c f).staged = s.staged := rfl
@[simp] theorem State.setCore_eng (s : State) (c : Nat) (f : Core → Core) : (s.setCore c f).eng = s.eng := rfl
@[simp] theorem State.setCore_nextEng (s : State) (c : Nat) (f : Core → Core) : (s.setCore c f).nextEng = s.nextEng := rfl
@[simp] theorem State.setCore_irqs (s : State) (c : Nat) (f : Core → Core) : (s.setCore c f).irqs = s.irqs := rfl
@[simp] theorem State.setCore_holds (s : State) (c : Nat) (f : Core → Core) : (s.setCore c f).holds = s.holds := rfl
@[simp] theorem State.setCore_hostRead (s : State) (c : Nat) (f : Core → Core) : (s.setCore c f).hostRead = s.hostRead := rfl
@[simp] theorem State.setCore_hostCache (s : State) (c : Nat) (f : Core → Core) : (s.setCore c f).hostCache = s.hostCache := rfl
@[simp] theorem State.setCore_ready (s : State) (c : Nat) (f : Core → Core) : (s.setCore c f).ready = s.ready := rfl

/-! ### `State.countPm` -/

@[simp] theorem State.countPm_agenda (s : State) (c i n : Nat) : (s.countPm c i n).agenda = s.agenda := rfl
@[simp] theorem State.countPm_cur (s : State) (c i n : Nat) : (s.countPm c i n).cur = s.cur := rfl
@[simp] theorem State.countPm_on (s : State) (c i n : Nat) : (s.countPm c i n).on = s.on := rfl
@[simp] theorem State.countPm_freeCtr (s : State) (c i n : Nat) : (s.countPm c i n).freeCtr = s.freeCtr := rfl
@[simp] theorem State.countPm_now (s : State) (c i n : Nat) : (s.countPm c i n).now = s.now := rfl
@[simp] theorem State.countPm_gtime (s : State) (c i n : Nat) : (s.countPm c i n).gtime = s.gtime := rfl
@[simp] theorem State.countPm_clks (s : State) (c i n : Nat) : (s.countPm c i n).clks = s.clks := rfl
@[simp] theorem State.countPm_mem (s : State) (c i n : Nat) : (s.countPm c i n).mem = s.mem := rfl
@[simp] theorem State.countPm_side (s : State) (c i n : Nat) : (s.countPm c i n).side = s.side := rfl
@[simp] theorem State.countPm_poison (s : State) (c i n : Nat) : (s.countPm c i n).poison = s.poison := rfl
@[simp] theorem State.countPm_blocks (s : State) (c i n : Nat) : (s.countPm c i n).blocks = s.blocks := rfl
@[simp] theorem State.countPm_dies (s : State) (c i n : Nat) : (s.countPm c i n).dies = s.dies := rfl
@[simp] theorem State.countPm_grids (s : State) (c i n : Nat) : (s.countPm c i n).grids = s.grids := rfl
@[simp] theorem State.countPm_queues (s : State) (c i n : Nat) : (s.countPm c i n).queues = s.queues := rfl
@[simp] theorem State.countPm_front (s : State) (c i n : Nat) : (s.countPm c i n).front = s.front := rfl
@[simp] theorem State.countPm_ctxs (s : State) (c i n : Nat) : (s.countPm c i n).ctxs = s.ctxs := rfl
@[simp] theorem State.countPm_qctxs (s : State) (c i n : Nat) : (s.countPm c i n).qctxs = s.qctxs := rfl
@[simp] theorem State.countPm_fq (s : State) (c i n : Nat) : (s.countPm c i n).fq = s.fq := rfl
@[simp] theorem State.countPm_castle (s : State) (c i n : Nat) : (s.countPm c i n).castle = s.castle := rfl
@[simp] theorem State.countPm_fab (s : State) (c i n : Nat) : (s.countPm c i n).fab = s.fab := rfl
@[simp] theorem State.countPm_hub (s : State) (c i n : Nat) : (s.countPm c i n).hub = s.hub := rfl
@[simp] theorem State.countPm_msgs (s : State) (c i n : Nat) : (s.countPm c i n).msgs = s.msgs := rfl
@[simp] theorem State.countPm_fetches (s : State) (c i n : Nat) : (s.countPm c i n).fetches = s.fetches := rfl
@[simp] theorem State.countPm_staged (s : State) (c i n : Nat) : (s.countPm c i n).staged = s.staged := rfl
@[simp] theorem State.countPm_eng (s : State) (c i n : Nat) : (s.countPm c i n).eng = s.eng := rfl
@[simp] theorem State.countPm_nextEng (s : State) (c i n : Nat) : (s.countPm c i n).nextEng = s.nextEng := rfl
@[simp] theorem State.countPm_irqs (s : State) (c i n : Nat) : (s.countPm c i n).irqs = s.irqs := rfl
@[simp] theorem State.countPm_holds (s : State) (c i n : Nat) : (s.countPm c i n).holds = s.holds := rfl
@[simp] theorem State.countPm_hostRead (s : State) (c i n : Nat) : (s.countPm c i n).hostRead = s.hostRead := rfl
@[simp] theorem State.countPm_hostCache (s : State) (c i n : Nat) : (s.countPm c i n).hostCache = s.hostCache := rfl
@[simp] theorem State.countPm_ready (s : State) (c i n : Nat) : (s.countPm c i n).ready = s.ready := rfl

/-! ### `State.setDie` -/

@[simp] theorem State.setDie_agenda (s : State) (d : Nat) (f : Die → Die) : (s.setDie d f).agenda = s.agenda := rfl
@[simp] theorem State.setDie_cur (s : State) (d : Nat) (f : Die → Die) : (s.setDie d f).cur = s.cur := rfl
@[simp] theorem State.setDie_on (s : State) (d : Nat) (f : Die → Die) : (s.setDie d f).on = s.on := rfl
@[simp] theorem State.setDie_freeCtr (s : State) (d : Nat) (f : Die → Die) : (s.setDie d f).freeCtr = s.freeCtr := rfl
@[simp] theorem State.setDie_now (s : State) (d : Nat) (f : Die → Die) : (s.setDie d f).now = s.now := rfl
@[simp] theorem State.setDie_gtime (s : State) (d : Nat) (f : Die → Die) : (s.setDie d f).gtime = s.gtime := rfl
@[simp] theorem State.setDie_clks (s : State) (d : Nat) (f : Die → Die) : (s.setDie d f).clks = s.clks := rfl
@[simp] theorem State.setDie_mem (s : State) (d : Nat) (f : Die → Die) : (s.setDie d f).mem = s.mem := rfl
@[simp] theorem State.setDie_side (s : State) (d : Nat) (f : Die → Die) : (s.setDie d f).side = s.side := rfl
@[simp] theorem State.setDie_poison (s : State) (d : Nat) (f : Die → Die) : (s.setDie d f).poison = s.poison := rfl
@[simp] theorem State.setDie_blocks (s : State) (d : Nat) (f : Die → Die) : (s.setDie d f).blocks = s.blocks := rfl
@[simp] theorem State.setDie_cores (s : State) (d : Nat) (f : Die → Die) : (s.setDie d f).cores = s.cores := rfl
@[simp] theorem State.setDie_grids (s : State) (d : Nat) (f : Die → Die) : (s.setDie d f).grids = s.grids := rfl
@[simp] theorem State.setDie_queues (s : State) (d : Nat) (f : Die → Die) : (s.setDie d f).queues = s.queues := rfl
@[simp] theorem State.setDie_front (s : State) (d : Nat) (f : Die → Die) : (s.setDie d f).front = s.front := rfl
@[simp] theorem State.setDie_ctxs (s : State) (d : Nat) (f : Die → Die) : (s.setDie d f).ctxs = s.ctxs := rfl
@[simp] theorem State.setDie_qctxs (s : State) (d : Nat) (f : Die → Die) : (s.setDie d f).qctxs = s.qctxs := rfl
@[simp] theorem State.setDie_fq (s : State) (d : Nat) (f : Die → Die) : (s.setDie d f).fq = s.fq := rfl
@[simp] theorem State.setDie_castle (s : State) (d : Nat) (f : Die → Die) : (s.setDie d f).castle = s.castle := rfl
@[simp] theorem State.setDie_fab (s : State) (d : Nat) (f : Die → Die) : (s.setDie d f).fab = s.fab := rfl
@[simp] theorem State.setDie_hub (s : State) (d : Nat) (f : Die → Die) : (s.setDie d f).hub = s.hub := rfl
@[simp] theorem State.setDie_msgs (s : State) (d : Nat) (f : Die → Die) : (s.setDie d f).msgs = s.msgs := rfl
@[simp] theorem State.setDie_fetches (s : State) (d : Nat) (f : Die → Die) : (s.setDie d f).fetches = s.fetches := rfl
@[simp] theorem State.setDie_staged (s : State) (d : Nat) (f : Die → Die) : (s.setDie d f).staged = s.staged := rfl
@[simp] theorem State.setDie_eng (s : State) (d : Nat) (f : Die → Die) : (s.setDie d f).eng = s.eng := rfl
@[simp] theorem State.setDie_nextEng (s : State) (d : Nat) (f : Die → Die) : (s.setDie d f).nextEng = s.nextEng := rfl
@[simp] theorem State.setDie_irqs (s : State) (d : Nat) (f : Die → Die) : (s.setDie d f).irqs = s.irqs := rfl
@[simp] theorem State.setDie_holds (s : State) (d : Nat) (f : Die → Die) : (s.setDie d f).holds = s.holds := rfl
@[simp] theorem State.setDie_hostRead (s : State) (d : Nat) (f : Die → Die) : (s.setDie d f).hostRead = s.hostRead := rfl
@[simp] theorem State.setDie_hostCache (s : State) (d : Nat) (f : Die → Die) : (s.setDie d f).hostCache = s.hostCache := rfl
@[simp] theorem State.setDie_ready (s : State) (d : Nat) (f : Die → Die) : (s.setDie d f).ready = s.ready := rfl

/-! ### `State.setQueue` -/

@[simp] theorem State.setQueue_agenda (s : State) (q : Nat) (f : Queue → Queue) : (s.setQueue q f).agenda = s.agenda := rfl
@[simp] theorem State.setQueue_cur (s : State) (q : Nat) (f : Queue → Queue) : (s.setQueue q f).cur = s.cur := rfl
@[simp] theorem State.setQueue_on (s : State) (q : Nat) (f : Queue → Queue) : (s.setQueue q f).on = s.on := rfl
@[simp] theorem State.setQueue_freeCtr (s : State) (q : Nat) (f : Queue → Queue) : (s.setQueue q f).freeCtr = s.freeCtr := rfl
@[simp] theorem State.setQueue_now (s : State) (q : Nat) (f : Queue → Queue) : (s.setQueue q f).now = s.now := rfl
@[simp] theorem State.setQueue_gtime (s : State) (q : Nat) (f : Queue → Queue) : (s.setQueue q f).gtime = s.gtime := rfl
@[simp] theorem State.setQueue_clks (s : State) (q : Nat) (f : Queue → Queue) : (s.setQueue q f).clks = s.clks := rfl
@[simp] theorem State.setQueue_mem (s : State) (q : Nat) (f : Queue → Queue) : (s.setQueue q f).mem = s.mem := rfl
@[simp] theorem State.setQueue_side (s : State) (q : Nat) (f : Queue → Queue) : (s.setQueue q f).side = s.side := rfl
@[simp] theorem State.setQueue_poison (s : State) (q : Nat) (f : Queue → Queue) : (s.setQueue q f).poison = s.poison := rfl
@[simp] theorem State.setQueue_blocks (s : State) (q : Nat) (f : Queue → Queue) : (s.setQueue q f).blocks = s.blocks := rfl
@[simp] theorem State.setQueue_cores (s : State) (q : Nat) (f : Queue → Queue) : (s.setQueue q f).cores = s.cores := rfl
@[simp] theorem State.setQueue_dies (s : State) (q : Nat) (f : Queue → Queue) : (s.setQueue q f).dies = s.dies := rfl
@[simp] theorem State.setQueue_grids (s : State) (q : Nat) (f : Queue → Queue) : (s.setQueue q f).grids = s.grids := rfl
@[simp] theorem State.setQueue_front (s : State) (q : Nat) (f : Queue → Queue) : (s.setQueue q f).front = s.front := rfl
@[simp] theorem State.setQueue_ctxs (s : State) (q : Nat) (f : Queue → Queue) : (s.setQueue q f).ctxs = s.ctxs := rfl
@[simp] theorem State.setQueue_qctxs (s : State) (q : Nat) (f : Queue → Queue) : (s.setQueue q f).qctxs = s.qctxs := rfl
@[simp] theorem State.setQueue_fq (s : State) (q : Nat) (f : Queue → Queue) : (s.setQueue q f).fq = s.fq := rfl
@[simp] theorem State.setQueue_castle (s : State) (q : Nat) (f : Queue → Queue) : (s.setQueue q f).castle = s.castle := rfl
@[simp] theorem State.setQueue_fab (s : State) (q : Nat) (f : Queue → Queue) : (s.setQueue q f).fab = s.fab := rfl
@[simp] theorem State.setQueue_hub (s : State) (q : Nat) (f : Queue → Queue) : (s.setQueue q f).hub = s.hub := rfl
@[simp] theorem State.setQueue_msgs (s : State) (q : Nat) (f : Queue → Queue) : (s.setQueue q f).msgs = s.msgs := rfl
@[simp] theorem State.setQueue_fetches (s : State) (q : Nat) (f : Queue → Queue) : (s.setQueue q f).fetches = s.fetches := rfl
@[simp] theorem State.setQueue_staged (s : State) (q : Nat) (f : Queue → Queue) : (s.setQueue q f).staged = s.staged := rfl
@[simp] theorem State.setQueue_eng (s : State) (q : Nat) (f : Queue → Queue) : (s.setQueue q f).eng = s.eng := rfl
@[simp] theorem State.setQueue_nextEng (s : State) (q : Nat) (f : Queue → Queue) : (s.setQueue q f).nextEng = s.nextEng := rfl
@[simp] theorem State.setQueue_irqs (s : State) (q : Nat) (f : Queue → Queue) : (s.setQueue q f).irqs = s.irqs := rfl
@[simp] theorem State.setQueue_holds (s : State) (q : Nat) (f : Queue → Queue) : (s.setQueue q f).holds = s.holds := rfl
@[simp] theorem State.setQueue_hostRead (s : State) (q : Nat) (f : Queue → Queue) : (s.setQueue q f).hostRead = s.hostRead := rfl
@[simp] theorem State.setQueue_hostCache (s : State) (q : Nat) (f : Queue → Queue) : (s.setQueue q f).hostCache = s.hostCache := rfl
@[simp] theorem State.setQueue_ready (s : State) (q : Nat) (f : Queue → Queue) : (s.setQueue q f).ready = s.ready := rfl

/-! ### `State.setQctx` -/

@[simp] theorem State.setQctx_agenda (s : State) (q : Nat) (f : QueueCtx → QueueCtx) : (s.setQctx q f).agenda = s.agenda := rfl
@[simp] theorem State.setQctx_cur (s : State) (q : Nat) (f : QueueCtx → QueueCtx) : (s.setQctx q f).cur = s.cur := rfl
@[simp] theorem State.setQctx_on (s : State) (q : Nat) (f : QueueCtx → QueueCtx) : (s.setQctx q f).on = s.on := rfl
@[simp] theorem State.setQctx_freeCtr (s : State) (q : Nat) (f : QueueCtx → QueueCtx) : (s.setQctx q f).freeCtr = s.freeCtr := rfl
@[simp] theorem State.setQctx_now (s : State) (q : Nat) (f : QueueCtx → QueueCtx) : (s.setQctx q f).now = s.now := rfl
@[simp] theorem State.setQctx_gtime (s : State) (q : Nat) (f : QueueCtx → QueueCtx) : (s.setQctx q f).gtime = s.gtime := rfl
@[simp] theorem State.setQctx_clks (s : State) (q : Nat) (f : QueueCtx → QueueCtx) : (s.setQctx q f).clks = s.clks := rfl
@[simp] theorem State.setQctx_mem (s : State) (q : Nat) (f : QueueCtx → QueueCtx) : (s.setQctx q f).mem = s.mem := rfl
@[simp] theorem State.setQctx_side (s : State) (q : Nat) (f : QueueCtx → QueueCtx) : (s.setQctx q f).side = s.side := rfl
@[simp] theorem State.setQctx_poison (s : State) (q : Nat) (f : QueueCtx → QueueCtx) : (s.setQctx q f).poison = s.poison := rfl
@[simp] theorem State.setQctx_blocks (s : State) (q : Nat) (f : QueueCtx → QueueCtx) : (s.setQctx q f).blocks = s.blocks := rfl
@[simp] theorem State.setQctx_cores (s : State) (q : Nat) (f : QueueCtx → QueueCtx) : (s.setQctx q f).cores = s.cores := rfl
@[simp] theorem State.setQctx_dies (s : State) (q : Nat) (f : QueueCtx → QueueCtx) : (s.setQctx q f).dies = s.dies := rfl
@[simp] theorem State.setQctx_grids (s : State) (q : Nat) (f : QueueCtx → QueueCtx) : (s.setQctx q f).grids = s.grids := rfl
@[simp] theorem State.setQctx_queues (s : State) (q : Nat) (f : QueueCtx → QueueCtx) : (s.setQctx q f).queues = s.queues := rfl
@[simp] theorem State.setQctx_front (s : State) (q : Nat) (f : QueueCtx → QueueCtx) : (s.setQctx q f).front = s.front := rfl
@[simp] theorem State.setQctx_ctxs (s : State) (q : Nat) (f : QueueCtx → QueueCtx) : (s.setQctx q f).ctxs = s.ctxs := rfl
@[simp] theorem State.setQctx_fq (s : State) (q : Nat) (f : QueueCtx → QueueCtx) : (s.setQctx q f).fq = s.fq := rfl
@[simp] theorem State.setQctx_castle (s : State) (q : Nat) (f : QueueCtx → QueueCtx) : (s.setQctx q f).castle = s.castle := rfl
@[simp] theorem State.setQctx_fab (s : State) (q : Nat) (f : QueueCtx → QueueCtx) : (s.setQctx q f).fab = s.fab := rfl
@[simp] theorem State.setQctx_hub (s : State) (q : Nat) (f : QueueCtx → QueueCtx) : (s.setQctx q f).hub = s.hub := rfl
@[simp] theorem State.setQctx_msgs (s : State) (q : Nat) (f : QueueCtx → QueueCtx) : (s.setQctx q f).msgs = s.msgs := rfl
@[simp] theorem State.setQctx_fetches (s : State) (q : Nat) (f : QueueCtx → QueueCtx) : (s.setQctx q f).fetches = s.fetches := rfl
@[simp] theorem State.setQctx_staged (s : State) (q : Nat) (f : QueueCtx → QueueCtx) : (s.setQctx q f).staged = s.staged := rfl
@[simp] theorem State.setQctx_eng (s : State) (q : Nat) (f : QueueCtx → QueueCtx) : (s.setQctx q f).eng = s.eng := rfl
@[simp] theorem State.setQctx_nextEng (s : State) (q : Nat) (f : QueueCtx → QueueCtx) : (s.setQctx q f).nextEng = s.nextEng := rfl
@[simp] theorem State.setQctx_irqs (s : State) (q : Nat) (f : QueueCtx → QueueCtx) : (s.setQctx q f).irqs = s.irqs := rfl
@[simp] theorem State.setQctx_holds (s : State) (q : Nat) (f : QueueCtx → QueueCtx) : (s.setQctx q f).holds = s.holds := rfl
@[simp] theorem State.setQctx_hostRead (s : State) (q : Nat) (f : QueueCtx → QueueCtx) : (s.setQctx q f).hostRead = s.hostRead := rfl
@[simp] theorem State.setQctx_hostCache (s : State) (q : Nat) (f : QueueCtx → QueueCtx) : (s.setQctx q f).hostCache = s.hostCache := rfl
@[simp] theorem State.setQctx_ready (s : State) (q : Nat) (f : QueueCtx → QueueCtx) : (s.setQctx q f).ready = s.ready := rfl

/-! ### `State.irq` -/

@[simp] theorem State.irq_agenda (s : State) (v : Nat) : (s.irq v).agenda = s.agenda := rfl
@[simp] theorem State.irq_cur (s : State) (v : Nat) : (s.irq v).cur = s.cur := rfl
@[simp] theorem State.irq_on (s : State) (v : Nat) : (s.irq v).on = s.on := rfl
@[simp] theorem State.irq_freeCtr (s : State) (v : Nat) : (s.irq v).freeCtr = s.freeCtr := rfl
@[simp] theorem State.irq_now (s : State) (v : Nat) : (s.irq v).now = s.now := rfl
@[simp] theorem State.irq_gtime (s : State) (v : Nat) : (s.irq v).gtime = s.gtime := rfl
@[simp] theorem State.irq_clks (s : State) (v : Nat) : (s.irq v).clks = s.clks := rfl
@[simp] theorem State.irq_mem (s : State) (v : Nat) : (s.irq v).mem = s.mem := rfl
@[simp] theorem State.irq_side (s : State) (v : Nat) : (s.irq v).side = s.side := rfl
@[simp] theorem State.irq_poison (s : State) (v : Nat) : (s.irq v).poison = s.poison := rfl
@[simp] theorem State.irq_blocks (s : State) (v : Nat) : (s.irq v).blocks = s.blocks := rfl
@[simp] theorem State.irq_cores (s : State) (v : Nat) : (s.irq v).cores = s.cores := rfl
@[simp] theorem State.irq_dies (s : State) (v : Nat) : (s.irq v).dies = s.dies := rfl
@[simp] theorem State.irq_grids (s : State) (v : Nat) : (s.irq v).grids = s.grids := rfl
@[simp] theorem State.irq_queues (s : State) (v : Nat) : (s.irq v).queues = s.queues := rfl
@[simp] theorem State.irq_front (s : State) (v : Nat) : (s.irq v).front = s.front := rfl
@[simp] theorem State.irq_ctxs (s : State) (v : Nat) : (s.irq v).ctxs = s.ctxs := rfl
@[simp] theorem State.irq_qctxs (s : State) (v : Nat) : (s.irq v).qctxs = s.qctxs := rfl
@[simp] theorem State.irq_fq (s : State) (v : Nat) : (s.irq v).fq = s.fq := rfl
@[simp] theorem State.irq_castle (s : State) (v : Nat) : (s.irq v).castle = s.castle := rfl
@[simp] theorem State.irq_fab (s : State) (v : Nat) : (s.irq v).fab = s.fab := rfl
@[simp] theorem State.irq_hub (s : State) (v : Nat) : (s.irq v).hub = s.hub := rfl
@[simp] theorem State.irq_msgs (s : State) (v : Nat) : (s.irq v).msgs = s.msgs := rfl
@[simp] theorem State.irq_fetches (s : State) (v : Nat) : (s.irq v).fetches = s.fetches := rfl
@[simp] theorem State.irq_staged (s : State) (v : Nat) : (s.irq v).staged = s.staged := rfl
@[simp] theorem State.irq_eng (s : State) (v : Nat) : (s.irq v).eng = s.eng := rfl
@[simp] theorem State.irq_nextEng (s : State) (v : Nat) : (s.irq v).nextEng = s.nextEng := rfl
@[simp] theorem State.irq_holds (s : State) (v : Nat) : (s.irq v).holds = s.holds := rfl
@[simp] theorem State.irq_hostRead (s : State) (v : Nat) : (s.irq v).hostRead = s.hostRead := rfl
@[simp] theorem State.irq_hostCache (s : State) (v : Nat) : (s.irq v).hostCache = s.hostCache := rfl
@[simp] theorem State.irq_ready (s : State) (v : Nat) : (s.irq v).ready = s.ready := rfl

/-! ### `State.report` -/

@[simp] theorem State.report_agenda (s : State) (r : FaultRec) : (s.report r).agenda = s.agenda := rfl
@[simp] theorem State.report_cur (s : State) (r : FaultRec) : (s.report r).cur = s.cur := rfl
@[simp] theorem State.report_on (s : State) (r : FaultRec) : (s.report r).on = s.on := rfl
@[simp] theorem State.report_freeCtr (s : State) (r : FaultRec) : (s.report r).freeCtr = s.freeCtr := rfl
@[simp] theorem State.report_now (s : State) (r : FaultRec) : (s.report r).now = s.now := rfl
@[simp] theorem State.report_gtime (s : State) (r : FaultRec) : (s.report r).gtime = s.gtime := rfl
@[simp] theorem State.report_clks (s : State) (r : FaultRec) : (s.report r).clks = s.clks := rfl
@[simp] theorem State.report_mem (s : State) (r : FaultRec) : (s.report r).mem = s.mem := rfl
@[simp] theorem State.report_side (s : State) (r : FaultRec) : (s.report r).side = s.side := rfl
@[simp] theorem State.report_poison (s : State) (r : FaultRec) : (s.report r).poison = s.poison := rfl
@[simp] theorem State.report_blocks (s : State) (r : FaultRec) : (s.report r).blocks = s.blocks := rfl
@[simp] theorem State.report_cores (s : State) (r : FaultRec) : (s.report r).cores = s.cores := rfl
@[simp] theorem State.report_dies (s : State) (r : FaultRec) : (s.report r).dies = s.dies := rfl
@[simp] theorem State.report_grids (s : State) (r : FaultRec) : (s.report r).grids = s.grids := rfl
@[simp] theorem State.report_queues (s : State) (r : FaultRec) : (s.report r).queues = s.queues := rfl
@[simp] theorem State.report_front (s : State) (r : FaultRec) : (s.report r).front = s.front := rfl
@[simp] theorem State.report_ctxs (s : State) (r : FaultRec) : (s.report r).ctxs = s.ctxs := rfl
@[simp] theorem State.report_qctxs (s : State) (r : FaultRec) : (s.report r).qctxs = s.qctxs := rfl
@[simp] theorem State.report_castle (s : State) (r : FaultRec) : (s.report r).castle = s.castle := rfl
@[simp] theorem State.report_fab (s : State) (r : FaultRec) : (s.report r).fab = s.fab := rfl
@[simp] theorem State.report_hub (s : State) (r : FaultRec) : (s.report r).hub = s.hub := rfl
@[simp] theorem State.report_msgs (s : State) (r : FaultRec) : (s.report r).msgs = s.msgs := rfl
@[simp] theorem State.report_fetches (s : State) (r : FaultRec) : (s.report r).fetches = s.fetches := rfl
@[simp] theorem State.report_staged (s : State) (r : FaultRec) : (s.report r).staged = s.staged := rfl
@[simp] theorem State.report_eng (s : State) (r : FaultRec) : (s.report r).eng = s.eng := rfl
@[simp] theorem State.report_nextEng (s : State) (r : FaultRec) : (s.report r).nextEng = s.nextEng := rfl
@[simp] theorem State.report_irqs (s : State) (r : FaultRec) : (s.report r).irqs = s.irqs := rfl
@[simp] theorem State.report_holds (s : State) (r : FaultRec) : (s.report r).holds = s.holds := rfl
@[simp] theorem State.report_hostRead (s : State) (r : FaultRec) : (s.report r).hostRead = s.hostRead := rfl
@[simp] theorem State.report_hostCache (s : State) (r : FaultRec) : (s.report r).hostCache = s.hostCache := rfl
@[simp] theorem State.report_ready (s : State) (r : FaultRec) : (s.report r).ready = s.ready := rfl

/-! ### `State.started` -/

@[simp] theorem State.started_agenda (s : State) (g : BitVec 32) : (s.started g).agenda = s.agenda := rfl
@[simp] theorem State.started_cur (s : State) (g : BitVec 32) : (s.started g).cur = s.cur := rfl
@[simp] theorem State.started_on (s : State) (g : BitVec 32) : (s.started g).on = s.on := rfl
@[simp] theorem State.started_freeCtr (s : State) (g : BitVec 32) : (s.started g).freeCtr = s.freeCtr := rfl
@[simp] theorem State.started_now (s : State) (g : BitVec 32) : (s.started g).now = s.now := rfl
@[simp] theorem State.started_gtime (s : State) (g : BitVec 32) : (s.started g).gtime = s.gtime := rfl
@[simp] theorem State.started_clks (s : State) (g : BitVec 32) : (s.started g).clks = s.clks := rfl
@[simp] theorem State.started_mem (s : State) (g : BitVec 32) : (s.started g).mem = s.mem := rfl
@[simp] theorem State.started_side (s : State) (g : BitVec 32) : (s.started g).side = s.side := rfl
@[simp] theorem State.started_poison (s : State) (g : BitVec 32) : (s.started g).poison = s.poison := rfl
@[simp] theorem State.started_blocks (s : State) (g : BitVec 32) : (s.started g).blocks = s.blocks := rfl
@[simp] theorem State.started_cores (s : State) (g : BitVec 32) : (s.started g).cores = s.cores := rfl
@[simp] theorem State.started_dies (s : State) (g : BitVec 32) : (s.started g).dies = s.dies := rfl
@[simp] theorem State.started_queues (s : State) (g : BitVec 32) : (s.started g).queues = s.queues := rfl
@[simp] theorem State.started_front (s : State) (g : BitVec 32) : (s.started g).front = s.front := rfl
@[simp] theorem State.started_ctxs (s : State) (g : BitVec 32) : (s.started g).ctxs = s.ctxs := rfl
@[simp] theorem State.started_qctxs (s : State) (g : BitVec 32) : (s.started g).qctxs = s.qctxs := rfl
@[simp] theorem State.started_fq (s : State) (g : BitVec 32) : (s.started g).fq = s.fq := rfl
@[simp] theorem State.started_castle (s : State) (g : BitVec 32) : (s.started g).castle = s.castle := rfl
@[simp] theorem State.started_fab (s : State) (g : BitVec 32) : (s.started g).fab = s.fab := rfl
@[simp] theorem State.started_hub (s : State) (g : BitVec 32) : (s.started g).hub = s.hub := rfl
@[simp] theorem State.started_msgs (s : State) (g : BitVec 32) : (s.started g).msgs = s.msgs := rfl
@[simp] theorem State.started_fetches (s : State) (g : BitVec 32) : (s.started g).fetches = s.fetches := rfl
@[simp] theorem State.started_staged (s : State) (g : BitVec 32) : (s.started g).staged = s.staged := rfl
@[simp] theorem State.started_eng (s : State) (g : BitVec 32) : (s.started g).eng = s.eng := rfl
@[simp] theorem State.started_nextEng (s : State) (g : BitVec 32) : (s.started g).nextEng = s.nextEng := rfl
@[simp] theorem State.started_irqs (s : State) (g : BitVec 32) : (s.started g).irqs = s.irqs := rfl
@[simp] theorem State.started_holds (s : State) (g : BitVec 32) : (s.started g).holds = s.holds := rfl
@[simp] theorem State.started_hostRead (s : State) (g : BitVec 32) : (s.started g).hostRead = s.hostRead := rfl
@[simp] theorem State.started_hostCache (s : State) (g : BitVec 32) : (s.started g).hostCache = s.hostCache := rfl
@[simp] theorem State.started_ready (s : State) (g : BitVec 32) : (s.started g).ready = s.ready := rfl

end Sys2Proof.Machine
end

