-- ==== Sys2Proof/Laws/Table.lean ====
section
/-! SUPPORT. Laws of the sorted tables that memories and register files are held in: a read after a write, and the
canonical form. -/

namespace Sys2Proof.Machine

section Reads

variable {α : Type}

theorem tget_tdel_same (d : α) (k : Nat) (t : List (Nat × α)) : tget d (tdel k t) k = d := by
  induction t with
  | nil => rfl
  | cons p t ih =>
    by_cases h : p.1 = k
    · simpa [tdel, h] using ih
    · simpa [tdel, tget, h] using ih

theorem tget_tdel_other (d : α) {k j : Nat} (h : j ≠ k) (t : List (Nat × α)) : tget d (tdel k t) j = tget d t j := by
  induction t with
  | nil => rfl
  | cons p t ih =>
    by_cases hk : p.1 = k
    · have hj : p.1 ≠ j := fun e => h (e.symm.trans hk)
      simpa [tdel, tget, hk, hj, h.symm] using ih
    · by_cases hj : p.1 = j
      · simp [tdel, tget, hj, h]
      · simpa [tdel, tget, hk, hj] using ih

theorem tget_tput_same (d : α) (k : Nat) (v : α) (t : List (Nat × α)) : tget d (tput k v t) k = v := by
  induction t with
  | nil => simp [tput, tget]
  | cons p t ih =>
    unfold tput
    split
    · next h => simpa [tget, Nat.ne_of_lt h] using ih
    · split <;> simp [tget]

theorem tget_tput_other (d : α) {k j : Nat} (h : j ≠ k) (v : α) (t : List (Nat × α)) :
    tget d (tput k v t) j = tget d t j := by
  induction t with
  | nil => simp [tput, tget, h.symm]
  | cons p t ih =>
    unfold tput
    split
    · simp only [tget, ih]
    · split
      · next hk => simp [tget, h.symm, hk]
      · simp [tget, h.symm]

end Reads

variable {α : Type} [DecidableEq α]

@[simp] theorem tget_tset_same (d : α) (k : Nat) (v : α) (t : List (Nat × α)) : tget d (tset d k v t) k = v := by
  unfold tset
  split
  · next h => rw [tget_tdel_same, h]
  · exact tget_tput_same d k v t

theorem tget_tset_other (d : α) {k j : Nat} (h : j ≠ k) (v : α) (t : List (Nat × α)) :
    tget d (tset d k v t) j = tget d t j := by
  unfold tset
  split
  · exact tget_tdel_other d h t
  · exact tget_tput_other d h v t

theorem tget_tset (d : α) (k j : Nat) (v : α) (t : List (Nat × α)) :
    tget d (tset d k v t) j = if j = k then v else tget d t j := by
  by_cases h : j = k
  · simp [h]
  · simp [h, tget_tset_other d h]

/-! ### The canonical form -/

theorem twfFrom_weaken (d : α) {l m : Nat} (h : l ≤ m) {t : List (Nat × α)} (ht : twfFrom d (some m) t = true) :
    twfFrom d (some l) t = true := by
  cases t with
  | nil => rfl
  | cons p t =>
    simp only [twfFrom, Bool.and_eq_true, decide_eq_true_eq] at ht ⊢
    exact ⟨⟨by omega, ht.1.2⟩, ht.2⟩

theorem twfFrom_tdel (d : α) (k : Nat) {t : List (Nat × α)} :
    ∀ {lo : Option Nat}, twfFrom d lo t = true → twfFrom d lo (tdel k t) = true := by
  induction t with
  | nil => intro lo _; cases lo <;> rfl
  | cons p t ih =>
    intro lo h
    by_cases hk : p.1 = k
    · have h2 : twfFrom d lo t = true := by
        cases lo with
        | none =>
          simp only [twfFrom, Bool.and_eq_true] at h
          cases t with
          | nil => rfl
          | cons q t => simp only [twfFrom, Bool.and_eq_true] at h ⊢; exact ⟨⟨trivial, h.2.1.2⟩, h.2.2⟩
        | some l =>
          simp only [twfFrom, Bool.and_eq_true, decide_eq_true_eq] at h
          exact twfFrom_weaken d (by omega) h.2
      simpa [tdel, hk] using ih h2
    · have : tdel k (p :: t) = p :: tdel k t := by simp [tdel, hk]
      rw [this]
      simp only [twfFrom, Bool.and_eq_true] at h ⊢
      exact ⟨h.1, ih h.2⟩

theorem twfFrom_tput (d : α) {k : Nat} {v : α} (hv : v ≠ d) {t : List (Nat × α)} :
    ∀ {lo : Option Nat}, (∀ l, lo = some l → l < k) → twfFrom d lo t = true → twfFrom d lo (tput k v t) = true := by
  induction t with
  | nil => intro lo hl _; cases lo <;> simp_all [tput, twfFrom]
  | cons p t ih =>
    intro lo hl h
    unfold tput
    simp only [twfFrom, Bool.and_eq_true] at h
    split
    · next hk =>
      simp only [twfFrom, Bool.and_eq_true]
      exact ⟨h.1, ih (by intro l e; cases e; exact hk) h.2⟩
    · split
      · next hk =>
        simp only [twfFrom, Bool.and_eq_true, decide_eq_true_eq]
        refine ⟨⟨?_, hv⟩, hk ▸ h.2⟩
        cases lo with
        | none => rfl
        | some l => simpa using hl l rfl
      · next h1 h2 =>
        simp only [twfFrom, Bool.and_eq_true, decide_eq_true_eq]
        refine ⟨⟨?_, hv⟩, ⟨by omega, by simpa using h.1.2⟩, h.2⟩
        cases lo with
        | none => rfl
        | some l => simpa using hl l rfl

/-- Writing a table keeps its canonical form. -/
theorem twf_tset (d : α) (k : Nat) (v : α) {t : List (Nat × α)} (h : twf d t = true) : twf d (tset d k v t) = true := by
  unfold twf tset at *
  split
  · exact twfFrom_tdel d k h
  · next hv => exact twfFrom_tput d hv (by simp) h

end Sys2Proof.Machine
end

