-- ==== Sys2Proof/Laws/Issue.lean ====
section
/-! SUPPORT. What the issue of a warp's word leaves (R27-R31): the laws of the forwarding window and of `runWarp`. -/

namespace Sys2Proof.Machine

/-! ### Merging -/

theorem merge_and {n : Nat} (m a b k : BitVec n) : merge m a b &&& k = merge m (a &&& k) (b &&& k) &&& k := by
  ext i
  simp only [merge, BitVec.getElem_and, BitVec.getElem_or, BitVec.getElem_not]
  cases m[i] <;> cases k[i] <;> simp

theorem merge_zero {n : Nat} (a b : BitVec n) : merge 0#n a b = a := by simp [merge]

/-! ### Results landed -/

/-- The fold that lands a list of results that are not expired. -/
def landFold (r : RegId) (fs : List Fly) (v : BitVec 1024) : BitVec 1024 :=
  fs.foldl (fun v f => if f.reg = r then merge f.mask v f.val else v) v

theorem landFold_append (r : RegId) (a b : List Fly) (v : BitVec 1024) :
    landFold r (a ++ b) v = landFold r b (landFold r a v) := by simp [landFold]

theorem landFold_absent (r : RegId) (fs : List Fly) (h : fs.all (fun g => g.reg ≠ r) = true) (v : BitVec 1024) :
    landFold r fs v = v := by
  induction fs generalizing v with
  | nil => rfl
  | cons f fs ih =>
    simp only [List.all_cons, Bool.and_eq_true, decide_eq_true_eq, ne_eq] at h
    simpa [landFold, h.1] using ih h.2 v

theorem landFold_and (r : RegId) (fs : List Fly) (v : BitVec 1024) :
    landFold r fs v &&& r.bits = landFold r fs (v &&& r.bits) &&& r.bits := by
  induction fs generalizing v with
  | nil => simp [landFold, BitVec.and_assoc]
  | cons f fs ih =>
    by_cases h : f.reg = r
    · have e : ∀ u, landFold r (f :: fs) u = landFold r fs (merge f.mask u f.val) := by intro u; simp [landFold, h]
      have m : merge f.mask v f.val &&& r.bits = merge f.mask (v &&& r.bits) f.val &&& r.bits := by
        ext i
        simp only [merge, BitVec.getElem_and, BitVec.getElem_or, BitVec.getElem_not]
        cases f.mask[i] <;> cases r.bits[i] <;> simp
      rw [e, e, ih, m, ← ih]
    · have e : ∀ u, landFold r (f :: fs) u = landFold r fs u := by intro u; simp [landFold, h]
      rw [e, e, ih]

/-- `landed` is the fold over the results that are not expired. -/
theorem landed_eq (wn : Win) (base : BitVec 1024) (num : Nat) (r : RegId) :
    wn.landed base num r = landFold r (wn.fly.filter (fun f => !f.expired num)) base &&& r.bits := by
  unfold Win.landed landFold
  congr 1
  generalize wn.fly = l
  induction l generalizing base with
  | nil => rfl
  | cons f fs ih =>
    cases h : f.expired num
    · rw [List.foldl_cons, ih]; simp [h]
    · rw [List.foldl_cons, ih]; simp [h]

/-! ### Settling -/

/-- The step of `Win.settle`. -/
def settleStep (num nominal : Nat) (a : List Fly × List Fly) (f : Fly) : List Fly × List Fly :=
  if f.expired num then a
  else if !f.wo && f.covered nominal && a.2.all (fun g => g.reg ≠ f.reg) then (a.1 ++ [f], a.2)
  else (a.1, a.2 ++ [f])

theorem settle_eq (wn : Win) : wn.settle = wn.fly.foldl (settleStep wn.num wn.nominal) ([], []) := rfl

theorem settleFold_land (r : RegId) (num nominal : Nat) (fs : List Fly) (a : List Fly × List Fly) (v : BitVec 1024) :
    landFold r (fs.foldl (settleStep num nominal) a).2 (landFold r (fs.foldl (settleStep num nominal) a).1 v) =
      landFold r (fs.filter (fun f => !f.expired num)) (landFold r a.2 (landFold r a.1 v)) := by
  induction fs generalizing a with
  | nil => rfl
  | cons f fs ih =>
    rw [List.foldl_cons, ih]
    unfold settleStep
    by_cases he : f.expired num = true
    · simp [he]
    · simp only [he, Bool.false_eq_true, if_false, Bool.not_false, List.filter_cons, if_true]
      rw [show f :: fs.filter (fun f => !f.expired num) = [f] ++ fs.filter (fun f => !f.expired num) from rfl,
        landFold_append]
      congr 1
      split
      · next h =>
        simp only [Bool.and_eq_true] at h
        rw [landFold_append]
        by_cases hr : f.reg = r
        · subst hr
          rw [landFold_absent _ _ h.2, landFold_absent _ _ h.2]
        · simp [landFold, hr]
      · rw [landFold_append]

/-- Nothing that has expired stays. -/
theorem settleFold_fresh (num nominal : Nat) (fs : List Fly) (a : List Fly × List Fly)
    (h : a.2.all (fun f => !f.expired num) = true) :
    (fs.foldl (settleStep num nominal) a).2.all (fun f => !f.expired num) = true := by
  induction fs generalizing a with
  | nil => exact h
  | cons f fs ih =>
    rw [List.foldl_cons]
    refine ih _ ?_
    unfold settleStep
    by_cases he : f.expired num = true
    · simpa [he] using h
    · simp only [he, Bool.false_eq_true, if_false]
      split
      · exact h
      · simp_all

/-! ### The register file -/

theorem and_toBits (x : BitVec 1024) (n : Nat) :
    (x.setWidth n).setWidth 1024 = x &&& (BitVec.allOnes n).setWidth 1024 := by
  ext i hi
  simp only [BitVec.getElem_setWidth, BitVec.getLsbD_setWidth, BitVec.getElem_and, BitVec.getLsbD_allOnes]
  by_cases hn : i < n <;> simp [hn, BitVec.getLsbD_eq_getElem hi]

/-- A write of one register reads back, cut to the register's width, and leaves every other register. -/
theorem Warp.base_setBase (w : Warp) (q r : RegId) (x : BitVec 1024) (h : r.ofWarp = true) :
    (w.setBase q x).base r = if q = r then x &&& r.bits else w.base r := by
  cases r with
  | m n => simp [RegId.ofWarp] at h
  | v n =>
    cases q <;> simp only [Warp.setBase, Warp.base, tget_tset, reduceCtorEq, if_false, RegId.v.injEq, eq_comm (a := n)]
    split
    · exact (BitVec.and_allOnes).symm
    · rfl
  | e n =>
    cases q <;> simp only [Warp.setBase, Warp.base, tget_tset, reduceCtorEq, if_false, RegId.e.injEq, eq_comm (a := n)]
    split
    · exact and_toBits _ _
    · rfl
  | s n =>
    cases q <;> simp only [Warp.setBase, Warp.base, tget_tset, reduceCtorEq, if_false, RegId.s.injEq, eq_comm (a := n)]
    split
    · exact and_toBits _ _
    · rfl
  | k n =>
    cases q <;> simp only [Warp.setBase, Warp.base, tget_tset, reduceCtorEq, if_false, RegId.k.injEq, eq_comm (a := n)]
    split
    · exact and_toBits _ _
    · rfl

@[simp] theorem Warp.setBase_win (w : Warp) (r : RegId) (x : BitVec 1024) : (w.setBase r x).win = w.win := by
  cases r <;> rfl

@[simp] theorem Warp.setBase_pc (w : Warp) (r : RegId) (x : BitVec 1024) : (w.setBase r x).pc = w.pc := by
  cases r <;> rfl

@[simp] theorem Warp.setBase_other (w : Warp) (r : RegId) (x : BitVec 1024) : (w.setBase r x).other = w.other := by
  cases r <;> rfl

/-- A warp with results written to its register file. -/
def Warp.writeAll (w : Warp) (fs : List Fly) : Warp :=
  fs.foldl (fun w f => w.setBase f.reg (merge f.mask (w.base f.reg) f.val)) w

@[simp] theorem Warp.writeAll_win (fs : List Fly) : ∀ w : Warp, (w.writeAll fs).win = w.win := by
  induction fs with
  | nil => intro w; rfl
  | cons f fs ih => intro w; exact (ih _).trans (Warp.setBase_win _ _ _)

@[simp] theorem Warp.writeAll_pc (fs : List Fly) : ∀ w : Warp, (w.writeAll fs).pc = w.pc := by
  induction fs with
  | nil => intro w; rfl
  | cons f fs ih => intro w; exact (ih _).trans (Warp.setBase_pc _ _ _)

@[simp] theorem Warp.writeAll_other (fs : List Fly) : ∀ w : Warp, (w.writeAll fs).other = w.other := by
  induction fs with
  | nil => intro w; rfl
  | cons f fs ih => intro w; exact (ih _).trans (Warp.setBase_other _ _ _)

theorem Warp.base_writeAll (r : RegId) (h : r.ofWarp = true) (fs : List Fly) :
    ∀ w : Warp, (w.writeAll fs).base r &&& r.bits = landFold r fs (w.base r) &&& r.bits := by
  induction fs with
  | nil => intro w; rfl
  | cons f fs ih =>
    intro w
    have e : w.writeAll (f :: fs) = (w.setBase f.reg (merge f.mask (w.base f.reg) f.val)).writeAll fs := rfl
    rw [e, ih, Warp.base_setBase _ _ _ _ h]
    by_cases hr : f.reg = r
    · subst hr
      simp only [if_true, landFold, List.foldl_cons]
      exact (landFold_and f.reg fs _).symm
    · simp [hr, landFold]

/-- Settling changes no register's landed value. -/
theorem Warp.landed_settle (x : Warp) (r : RegId) (h : r.ofWarp = true) :
    x.settle.landed x.win.num r = x.landed x.win.num r := by
  have hs : x.settle = ({ x with win := { x.win with fly := x.win.settle.2 } } : Warp).writeAll x.win.settle.1 := rfl
  unfold Warp.landed
  rw [landed_eq, landed_eq, hs, Warp.writeAll_win]
  have hf : (x.win.settle.2).filter (fun f => !f.expired x.win.num) = x.win.settle.2 := by
    rw [List.filter_eq_self]
    have := settleFold_fresh x.win.num x.win.nominal x.win.fly ([], []) (by rfl)
    rw [← settle_eq, List.all_eq_true] at this
    exact this
  show landFold r (x.win.settle.2.filter _) _ &&& r.bits = _
  rw [hf, landFold_and, Warp.base_writeAll r h, ← landFold_and]
  have := settleFold_land r x.win.num x.win.nominal x.win.fly ([], []) (x.base r)
  rw [← settle_eq] at this
  rw [show ({ x with win := { x.win with fly := x.win.settle.2 } } : Warp).base r = x.base r by cases r <;> rfl, this]
  rfl

@[simp] theorem Warp.settle_pc (x : Warp) : x.settle.pc = x.pc := Warp.writeAll_pc _ _

@[simp] theorem Warp.settle_other (x : Warp) : x.settle.other = x.other := Warp.writeAll_other _ _

@[simp] theorem Warp.settle_num (x : Warp) : x.settle.win.num = x.win.num := by
  have hs : x.settle = ({ x with win := { x.win with fly := x.win.settle.2 } } : Warp).writeAll x.win.settle.1 := rfl
  rw [hs, Warp.writeAll_win]

/-! ### Finding what was just written -/

theorem State.block?_setBlock (s : State) (b : BlockId) (f : Block → Block) (h : ∀ x, (f x).id = x.id) :
    (s.setBlock b f).block? b = (s.block? b).map f := by
  unfold State.block? State.setBlock
  show List.find? _ (s.blocks.map _) = _
  induction s.blocks with
  | nil => rfl
  | cons x xs ih =>
    by_cases hx : x.id = b
    · simp [hx, h]
    · simpa [hx] using ih

theorem State.warp?_setWarp (s : State) (w : WarpId) (f : Warp → Warp) :
    (s.setWarp w f).warp? w = (s.warp? w).map (fun p => ({ p.1 with warps := p.1.warps.modify w.warp f }, f p.2)) := by
  unfold State.warp? State.setWarp
  rw [State.block?_setBlock s w.blockId (fun b => { b with warps := b.warps.modify w.warp f }) (fun _ => rfl)]
  cases s.block? w.blockId with
  | none => rfl
  | some b =>
    simp only [Option.map_some, List.getElem?_modify_eq]
    cases b.warps[w.warp]? <;> rfl

/-- What `warp?` finds depends on the blocks alone. -/
theorem State.warp?_congr {s t : State} (h : t.blocks = s.blocks) (w : WarpId) : t.warp? w = s.warp? w := by
  unfold State.warp? State.block?
  rw [h]

theorem State.setWarp_setWarp (s : State) (w : WarpId) (f g : Warp → Warp) :
    (s.setWarp w f).setWarp w g = s.setWarp w (fun x => g (f x)) := by
  unfold State.setWarp State.setBlock
  simp only [List.map_map]
  congr 1
  apply List.map_congr_left
  intro b _
  by_cases hb : b.id = w.blockId
  · simp only [Function.comp, hb, if_true]
    congr 1
    apply List.ext_getElem?
    intro i
    simp only [List.getElem?_modify]
    cases b.warps[i]? with
    | none => rfl
    | some x => by_cases hi : w.warp = i <;> simp [hi]
  · simp [Function.comp, hb]

theorem List.modify_id' {α : Type} (l : List α) (i : Nat) : l.modify i (fun x => x) = l := by
  apply List.ext_getElem?
  intro j
  simp only [List.getElem?_modify]
  cases l[j]? with
  | none => rfl
  | some x => by_cases h : i = j <;> simp [h]

theorem State.setWarp_id (s : State) (w : WarpId) : s.setWarp w (fun x => x) = s := by
  unfold State.setWarp State.setBlock
  have : s.blocks.map (fun x => if x.id = w.blockId then { x with warps := x.warps.modify w.warp (fun x => x) } else x)
      = s.blocks :=
    (List.map_congr_left (fun b _ => by rw [List.modify_id']; simp)).trans (List.map_id s.blocks)
  exact congrArg (fun l => ({ s with blocks := l } : State)) this

/-! ### The frame of an issue -/

theorem State.other_setWarp (s : State) (w : WarpId) (f : Warp → Warp) : (s.setWarp w f).other w = s.other w := by
  unfold State.other
  rw [State.setWarp_setWarp]
  rfl

theorem map_pm_modify (l : List Core) (c : Nat) (g : Core → Core)
    (h : ∀ k, ({ g k with pm := [] } : Core) = { k with pm := [] }) :
    (l.modify c g).map (fun k => { k with pm := [] }) = l.map (fun k => { k with pm := [] }) := by
  apply List.ext_getElem?
  intro i
  simp only [List.getElem?_map, List.getElem?_modify]
  cases l[i]? with
  | none => rfl
  | some x => by_cases hi : c = i <;> simp [hi, h]

theorem State.other_countPm (s : State) (w : WarpId) (c i n : Nat) : (s.countPm c i n).other w = s.other w := by
  have := map_pm_modify s.cores c (fun k => { k with pm := tset 0 i (tget 0 k.pm i + BitVec.ofNat 64 n) k.pm })
    (fun _ => rfl)
  unfold State.other State.countPm State.setCore State.setWarp State.setBlock
  simp only [this]

theorem State.other_started (s : State) (w : WarpId) (g : BitVec 32) : (s.started g).other w = s.other w := by
  unfold State.other State.started State.setGrid State.setWarp State.setBlock
  simp only [List.map_map]
  congr 1
  apply List.map_congr_left
  intro x _
  by_cases h : x.id = g
  · by_cases ht : x.tstart.isNone = true <;> simp [Function.comp, h, ht]
  · simp [Function.comp, h]

theorem State.other_freeCtr (s : State) (w : WarpId) (n : Nat) : ({ s with freeCtr := n } : State).other w = s.other w := rfl

/-- A change of a warp that leaves its registers, its results in flight and its instruction number alone. -/
def KeepsRegs (f : Warp → Warp) : Prop :=
  ∀ x, (f x).v = x.v ∧ (f x).e = x.e ∧ (f x).s = x.s ∧ (f x).k = x.k ∧ (f x).win.fly = x.win.fly ∧ (f x).win.num = x.win.num

theorem keepsRegs_id : KeepsRegs (fun x => x) := fun _ => ⟨rfl, rfl, rfl, rfl, rfl, rfl⟩

/-- Cutting to a register's width before or after results land is the same. -/
theorem applyOut_and (out : List Result) (r : RegId) :
    ∀ v, applyOut out r v &&& r.bits = applyOut out r (v &&& r.bits) &&& r.bits := by
  induction out with
  | nil => intro v; simp [applyOut, BitVec.and_assoc]
  | cons p ps ih =>
    intro v
    by_cases hr : p.reg = r
    · have e : ∀ u, applyOut (p :: ps) r u = applyOut ps r (merge p.mask u p.val) := by intro u; simp [applyOut, hr]
      have m : merge p.mask v p.val &&& r.bits = merge p.mask (v &&& r.bits) p.val &&& r.bits := by
        ext i
        simp only [merge, BitVec.getElem_and, BitVec.getElem_or, BitVec.getElem_not]
        cases p.mask[i] <;> cases r.bits[i] <;> simp
      rw [e, e, ih, m, ← ih]
    · have e : ∀ u, applyOut (p :: ps) r u = applyOut ps r u := by intro u; simp [applyOut, hr]
      rw [e, e, ih]

/-- The results that `Win.push` puts into a window. -/
def flyOf (wn : Win) (lat : Nat) (wo : Bool) (out : List Result) : List Fly :=
  (out.filter (fun p => p.mask ≠ 0)).map (fun p =>
    { reg := p.reg, mask := p.mask, val := p.val, born := wn.nominal, lat := lat, wo := wo, num := wn.num })

theorem landFold_flyOf (wn : Win) (lat : Nat) (wo : Bool) (r : RegId) (out : List Result) :
    ∀ v, landFold r (flyOf wn lat wo out) v = applyOut out r v := by
  induction out with
  | nil => intro v; rfl
  | cons p ps ih =>
    intro v
    have e : applyOut (p :: ps) r v = applyOut ps r (if p.reg = r then merge p.mask v p.val else v) := rfl
    rw [e, ← ih]
    by_cases hm : p.mask = 0
    · have : flyOf wn lat wo (p :: ps) = flyOf wn lat wo ps := by unfold flyOf; rw [List.filter_cons_of_neg (by simp [hm])]
      rw [this, hm, show merge 0 v p.val = v from merge_zero v p.val, ite_self]
    · have : flyOf wn lat wo (p :: ps) = Fly.mk p.reg p.mask p.val wn.nominal lat wo wn.num :: flyOf wn lat wo ps := by
        unfold flyOf
        rw [List.filter_cons_of_pos (by simpa using hm)]
        rfl
      rw [this]
      rfl

/-- The window's landed values after results are put into it (R28, R31). -/
theorem landed_push (wn : Win) (base : BitVec 1024) (lat st clk nb : Nat) (wo : Bool) (out : List Result) (r : RegId) :
    (((wn.push lat wo out).advance st clk).noEarlier nb).landed base (wn.num + 1) r =
      applyOut out r (wn.landed base (wn.num + 1) r) &&& r.bits := by
  have hfly : (((wn.push lat wo out).advance st clk).noEarlier nb).fly = wn.fly ++ flyOf wn lat wo out := rfl
  have hnew : (flyOf wn lat wo out).filter (fun f => !f.expired (wn.num + 1)) = flyOf wn lat wo out := by
    rw [List.filter_eq_self]
    intro f hf
    obtain ⟨p, -, rfl⟩ := List.mem_map.mp hf
    simp only [Fly.expired, Bool.not_eq_true', Bool.and_eq_false_iff, decide_eq_false_iff_not]
    right; omega
  rw [landed_eq, landed_eq, hfly, List.filter_append, landFold_append, hnew, landFold_flyOf]
  exact applyOut_and out r _

/-- The warp's side of an issue. -/
theorem Warp.landed_issue (x : Warp) (sh : Shape) (clk : Nat) (pc : DWord) (d : Done) (r : RegId) (h : r.ofWarp = true) :
    (x.issue sh clk pc d).settle.landed (x.issue sh clk pc d).settle.win.num r =
      applyOut d.out r (x.landed (x.win.num + 1) r) &&& r.bits := by
  rw [Warp.settle_num, Warp.landed_settle _ _ h]
  have hb : (x.issue sh clk pc d).base r = x.base r := by cases r <;> rfl
  unfold Warp.landed
  rw [hb]
  exact landed_push x.win (x.base r) _ _ _ _ _ d.out r

theorem Warp.issue_other (x : Warp) (sh : Shape) (clk : Nat) (pc : DWord) (d : Done) :
    (x.issue sh clk pc d).other = x.other := by
  unfold Warp.other Warp.issue
  simp only [Win.noEarlier, Win.advance, Win.push, Win.clobber, Win.clobberBut, List.map_map]
  congr 2
  apply List.map_congr_left
  intro o _
  by_cases ho : o.dst.isEmpty = true <;> simp [Function.comp, ho]

/-- A word that issues runs its body. -/
theorem issueW_body {sh : Shape} {row7 : Ctx → Option TrapInfo} {body : Ctx → Body} {s : State} {w : WarpId} {c : Ctx}
    (hI : Issues sh row7 s w c) : issueW sh body s row7 = .next (s.finish c sh (body c)) := by
  obtain ⟨hcur, hc, hcan, hstop, hchk, h7, hgate, hcov⟩ := hI
  unfold State.seenBy at hc
  cases hw : s.warp? w with
  | none => simp [hw] at hc
  | some p =>
    cases hg : s.grid? w.grid with
    | none => simp [hw, hg] at hc
    | some g =>
      obtain ⟨b, x⟩ := p
      simp only [hw, hg, Option.some.injEq] at hc
      subst hc
      unfold issueW
      rw [hcur]
      show Host.Outcome.next (runWarp sh row7 body w s) = _
      refine congrArg Host.Outcome.next ?_
      unfold runWarp
      simp only [hw, hg]
      have h1 : x.canIssue (s.clkOf (dieOfCore b.core)) = true := hcan
      have h0 : s.stopDue w x = false := hstop
      have h2 : sh.check false (Rec.declared g.record) x.pc = none := hchk
      have h3 : issueGate x.win sh = true := hgate
      have h4 : (if (⟨s.setWarp w (fun x => { x with wait := endPathWait x.wait }), w, b, x, g,
          s.clkOf (dieOfCore b.core)⟩ : Ctx).chk then coverage x.win sh else none) = none := by
        split
        · next h => exact hcov h
        · rfl
      simp only [h0, h1, h2, h3, h7, h4, Bool.not_true, Bool.or_self, Bool.false_eq_true, if_false, Option.none_or]

/-- What an issuing word sees. -/
theorem Issues.seen {sh : Shape} {row7 : Ctx → Option TrapInfo} {s : State} {w : WarpId} {c : Ctx} (hI : Issues sh row7 s w c) :
    c.id = w ∧ c.s = s.setWarp w (fun x => { x with wait := endPathWait x.wait }) ∧ s.warp? w = some (c.blk, c.w) ∧
      s.grid? w.grid = some c.g ∧ c.clk = s.clkOf (dieOfCore c.blk.core) := by
  have hc := hI.2.1
  unfold State.seenBy at hc
  cases hw : s.warp? w with
  | none => simp [hw] at hc
  | some p =>
    cases hg : s.grid? w.grid with
    | none => simp [hw, hg] at hc
    | some g =>
      obtain ⟨b, x⟩ := p
      simp only [hw, hg, Option.some.injEq] at hc
      subst hc
      exact ⟨rfl, rfl, rfl, rfl, rfl⟩

/-- A word that issues leaves what its body says (R14, R27-R31). -/
theorem issueW_go (sh : Shape) (row7 : Ctx → Option TrapInfo) (body : Ctx → Body) (s : State) (w : WarpId) (c : Ctx)
    (f : Warp → Warp) (out : List Result) (pc : Option DWord) (nb : Nat) (hI : Issues sh row7 s w c)
    (hb : body c = .go { s := c.s.setWarp c.id f, out := out, pc := pc, notBefore := nb }) (hf : KeepsRegs f) :
    ∃ t, issueW sh body s row7 = .next t ∧ Leaves s t w c out (pc.getD (nextPc c.pc)) f := by
  obtain ⟨hid, hs, hw, hg, hclk⟩ := hI.seen
  refine ⟨_, issueW_body hI, ?_⟩
  rw [hb]
  generalize hd : Done.mk (c.s.setWarp c.id f) out pc nb = d
  have hds : d.s = s.setWarp w (fun x => f { x with wait := endPathWait x.wait }) := by
    rw [← hd, hid, hs]; exact State.setWarp_setWarp _ _ _ _
  have hdo : d.out = out := by rw [← hd]
  have hdp : d.pc = pc := by rw [← hd]
  clear hd hb
  unfold State.finish
  simp only [hds, hid, State.setWarp_setWarp]
  refine ⟨⟨_, _, (State.warp?_congr (by rfl) w).trans ((State.warp?_setWarp s w _).trans (by rw [hw]; rfl)), ?_, ?_, ?_⟩, ?_⟩
  · rw [Warp.settle_pc, ← hdp]; rfl
  · intro r hr
    obtain ⟨hv, he, hs, hk, hfly, hnum⟩ := hf { c.w with wait := endPathWait c.w.wait }
    rw [Warp.landed_issue _ _ _ _ _ _ hr, hdo, hnum]
    congr 2
    unfold Warp.landed Win.landed
    rw [hfly]
    congr 2
    cases r <;> simp only [Warp.base, hv, he, hs, hk]
  · rw [Warp.settle_other, Warp.issue_other]
  · rw [State.other_freeCtr, State.counted, State.other_started, State.other_countPm, State.other_setWarp]

/-- A word whose body only gives results. -/
theorem gives_of_done {i : Instr} {sh : Shape} {body : Ctx → Body} {out : Ctx → List Result}
    (he : ∀ s, exec i s = issueW sh body s) (hb : ∀ c, body c = c.done (out c)) : Gives i sh out := by
  intro s w c hI _
  rw [he]
  refine issueW_go sh noRow7 body s w c (fun x => x) (out c) none 0 hI ?_ keepsRegs_id
  rw [hb, State.setWarp_id]
  rfl

/-- A word whose body is one change of the warp, results and a next PC. -/
theorem completes_of_go {i : Instr} {sh : Shape} {body : Ctx → Body} {e : Effect} {pc : Ctx → Option DWord} {nb : Ctx → Nat}
    (he : ∀ s, exec i s = issueW sh body s e.row7)
    (hb : ∀ c, e.pre c → body c = .go { s := c.s.setWarp c.id (e.warp c), out := e.out c, pc := pc c, notBefore := nb c })
    (hp : ∀ c, e.pc c = (pc c).getD (nextPc c.pc)) (hf : ∀ c, KeepsRegs (e.warp c)) : Completes i sh e := by
  intro s w c hI hpre
  rw [he, hp]
  exact issueW_go sh e.row7 body s w c (e.warp c) (e.out c) (pc c) (nb c) hI (hb c hpre) (hf c)

end Sys2Proof.Machine
end

