-- ==== Sys2Proof/Laws/Memory.lean ====
section
/-! SUPPORT. Laws of physical memory and of scratchpads: what a write of bytes or of a line leaves at each address, and
that every operation that writes them keeps their canonical form. -/

namespace Sys2Proof.Machine

/-! ### Folds of table writes -/

/-- The conditional writes that `putLine` and `putSide` make, over any list of positions. -/
theorem tget_fold_tset {α : Type} [DecidableEq α] (d : α) (p : Nat → Bool) (key : Nat → Nat) (val : Nat → α)
    (inj : ∀ i j, key i = key j → i = j) (j : Nat) (l : List Nat) (hl : l.Nodup) (m : List (Nat × α)) :
    tget d (l.foldl (fun m i => if p i then tset d (key i) (val i) m else m) m) (key j) =
      if j ∈ l ∧ p j = true then val j else tget d m (key j) := by
  induction l generalizing m with
  | nil => simp
  | cons i l ih =>
    obtain ⟨hi, hl⟩ := List.nodup_cons.mp hl
    rw [List.foldl_cons, ih hl]
    by_cases hj : j = i
    · subst hj
      cases hp : p j <;> simp [hi]
    · have hk : key j ≠ key i := fun e => hj (inj _ _ e)
      cases hp : p i <;> simp [hj, tget_tset_other d hk]

theorem tget_fold_tset_off {α : Type} [DecidableEq α] (d : α) (p : Nat → Bool) (key : Nat → Nat) (val : Nat → α)
    (a : Nat) (l : List Nat) (h : ∀ i ∈ l, key i ≠ a) (m : List (Nat × α)) :
    tget d (l.foldl (fun m i => if p i then tset d (key i) (val i) m else m) m) a = tget d m a := by
  induction l generalizing m with
  | nil => rfl
  | cons i l ih =>
    rw [List.foldl_cons, ih (fun k hk => h k (List.mem_cons_of_mem _ hk))]
    have hi : a ≠ key i := fun e => h i List.mem_cons_self e.symm
    split
    · exact tget_tset_other d hi _ m
    · rfl

theorem twf_fold_tset {α : Type} [DecidableEq α] (d : α) (p : Nat → Bool) (key : Nat → Nat) (val : Nat → α)
    (l : List Nat) {m : List (Nat × α)} (hm : twf d m = true) :
    twf d (l.foldl (fun m i => if p i then tset d (key i) (val i) m else m) m) = true := by
  induction l generalizing m with
  | nil => exact hm
  | cons i l ih =>
    rw [List.foldl_cons]
    apply ih
    split
    · exact twf_tset d _ _ hm
    · exact hm

theorem twf_bytes {α : Type} [DecidableEq α] (d : α) (bs : List α) {m : List (Nat × α)} (pa : Nat) (hm : twf d m = true) :
    twf d (bs.foldl (fun (a : List (Nat × α) × Nat) b => (tset d a.2 b a.1, a.2 + 1)) (m, pa)).1 = true := by
  induction bs generalizing m pa with
  | nil => exact hm
  | cons b bs ih => exact ih (pa + 1) (twf_tset d pa b hm)

theorem tget_bytes {α : Type} [DecidableEq α] (d : α) (bs : List α) (m : List (Nat × α)) (pa a : Nat) :
    tget d (bs.foldl (fun (x : List (Nat × α) × Nat) b => (tset d x.2 b x.1, x.2 + 1)) (m, pa)).1 a =
      if pa ≤ a ∧ a < pa + bs.length then (bs[a - pa]?).getD d else tget d m a := by
  induction bs generalizing m pa with
  | nil => rw [if_neg (by simp only [List.length_nil]; omega)]; rfl
  | cons b bs ih =>
    rw [List.foldl_cons, ih]
    by_cases h : a = pa
    · subst h
      rw [if_neg (by omega), if_pos (by simp), tget_tset_same]
      simp
    · by_cases h1 : pa + 1 ≤ a ∧ a < pa + 1 + bs.length
      · have : a - pa = (a - (pa + 1)) + 1 := by omega
        rw [if_pos h1, if_pos (by simp only [List.length_cons]; omega), this, List.getElem?_cons_succ]
      · rw [if_neg h1, if_neg (by simp only [List.length_cons]; omega), tget_tset_other d h]

/-! ### What a line's write leaves -/

/-- A byte of the line written: the datum where the mask covers it, what stood there before elsewhere. -/
theorem tget_putLine_in (mem : List Host.Cell) (line : Nat) (data : VReg) (mask : BitVec 128) (i : Nat) (hi : i < 128) :
    tget memInit (putLine mem line data mask) (128 * line + i) =
      if bit mask i then byteAt data i else tget memInit mem (128 * line + i) := by
  unfold putLine
  rw [tget_fold_tset memInit (fun i => bit mask i) (fun i => 128 * line + i) (fun i => byteAt data i)
    (by intro i j h; simpa using h) i _ List.nodup_range]
  simp [hi]

/-- A byte outside the line. -/
theorem tget_putLine_out (mem : List Host.Cell) (line : Nat) (data : VReg) (mask : BitVec 128) (a : Nat)
    (ha : a / 128 ≠ line) : tget memInit (putLine mem line data mask) a = tget memInit mem a := by
  unfold putLine
  refine tget_fold_tset_off memInit (fun i => bit mask i) (fun i => 128 * line + i) (fun i => byteAt data i) a _ ?_ _
  intro i hi e
  simp only [List.mem_range] at hi
  omega

theorem tget_putSide_in (side : List (Nat × Byte)) (line : Nat) (e : EReg) (mask : BitVec 8) (j : Nat) (hj : j < 8) :
    tget sideInit (putSide side line e mask) (8 * line + j) =
      if bit mask j then slot e j else tget sideInit side (8 * line + j) := by
  unfold putSide
  rw [tget_fold_tset sideInit (fun i => bit mask i) (fun i => 8 * line + i) (fun i => slot e i)
    (by intro i j h; simpa using h) j _ List.nodup_range]
  simp [hj]

theorem tget_putSide_out (side : List (Nat × Byte)) (line : Nat) (e : EReg) (mask : BitVec 8) (a : Nat)
    (ha : a / 8 ≠ line) : tget sideInit (putSide side line e mask) a = tget sideInit side a := by
  unfold putSide
  refine tget_fold_tset_off sideInit (fun i => bit mask i) (fun i => 8 * line + i) (fun i => slot e i) a _ ?_ _
  intro i hi e
  simp only [List.mem_range] at hi
  omega

/-! ### The canonical form is kept -/

theorem wf_putLine {mem : List Host.Cell} (line : Nat) (data : VReg) (mask : BitVec 128) (h : Memory.wf mem = true) :
    Memory.wf (putLine mem line data mask) = true :=
  twf_fold_tset memInit (fun i => bit mask i) (fun i => 128 * line + i) (fun i => byteAt data i) _ h

theorem wf_putSide {side : List (Nat × Byte)} (line : Nat) (e : EReg) (mask : BitVec 8) (h : twf sideInit side = true) :
    twf sideInit (putSide side line e mask) = true :=
  twf_fold_tset sideInit (fun i => bit mask i) (fun i => 8 * line + i) (fun i => slot e i) _ h

theorem State.wf_of_eq {s t : State} (hm : t.mem = s.mem) (hs : t.side = s.side) : t.wf = s.wf := by
  unfold State.wf; rw [hm, hs]

theorem State.wf_rawBytes {s : State} (pa : Nat) (bs : List Byte) (h : s.wf = true) : (s.rawBytes pa bs).wf = true := by
  simp only [State.wf, Bool.and_eq_true] at h ⊢
  exact ⟨twf_bytes memInit bs pa h.1, h.2⟩

theorem State.wf_mk {s : State} (hm : Memory.wf s.mem = true) (hs : twf sideInit s.side = true) : s.wf = true := by
  simp only [State.wf, hm, hs, Bool.and_self]

theorem State.wf_applyPut {s : State} (line : Nat) (p : Put) (h : s.wf = true) : (s.applyPut line p).wf = true := by
  simp only [State.wf, Bool.and_eq_true] at h
  have hm : Memory.wf (putLine s.mem line p.data p.mask) = true := wf_putLine _ _ _ h.1
  have h1 : twf sideInit (putSide s.side line p.side p.sideMask) = true := wf_putSide _ _ _ h.2
  have h2 : twf sideInit (putSide (putSide s.side line eInit 0xFF) line p.side p.sideMask) = true :=
    wf_putSide _ _ _ (wf_putSide _ _ _ h.2)
  unfold State.applyPut
  dsimp only
  generalize (p.mask == BitVec.allOnes 128 && p.sideMask != 0) = full
  split
  · exact State.wf_mk hm h2
  · exact State.wf_mk hm h1

/-- What a write ends leaves memory alone. -/
theorem State.wf_wrote (s : State) (line : Nat) (mask : BitVec 128) (side : BitVec 8) : (s.wrote line mask side).wf = s.wf := by
  apply State.wf_of_eq <;> (unfold State.wrote State.noteMoved State.leafMark; dsimp only; split <;> (try split) <;> rfl)

/-- The tables of a die's L2 are no memory. -/
theorem State.wf_l2Put (s : State) (d line : Nat) (held : BitVec 128) (side : BitVec 8) (cp : Nat) :
    (s.l2Put d line held side cp).wf = s.wf := by
  apply State.wf_of_eq <;> (unfold State.l2Put; split <;> (try rfl); dsimp only; split <;> rfl)

theorem State.wf_copyPut (s : State) (d line : Nat) (p : Put) : (s.copyPut d line p).wf = s.wf := by
  unfold State.copyPut; exact (State.wf_l2Put _ _ _ _ _ _).trans (State.wf_of_eq rfl rfl)

theorem State.wf_foldl {α : Type} (f : State → α → State) (hf : ∀ s a, s.wf = true → (f s a).wf = true) (l : List α)
    {s : State} (h : s.wf = true) : (l.foldl f s).wf = true := by
  induction l generalizing s with
  | nil => exact h
  | cons a l ih => exact ih (hf s a h)

theorem State.wf_logEntry {s : State} (pa : Nat) (bs : List Byte) (h : s.wf = true) : (s.logEntry pa bs).wf = true := by
  unfold State.logEntry
  refine State.wf_foldl _ ?_ _ (State.wf_rawBytes _ _ h)
  intro s i hs
  dsimp only
  split
  · exact hs
  · exact (State.wf_wrote _ _ _ _).trans hs

theorem State.wf_logPre {s : State} (g : Option (BitVec 32)) (line : Nat) (h : s.wf = true) : (s.logPre g line).wf = true := by
  unfold State.logPre
  split
  · exact h
  · split
    · exact h
    · dsimp only
      split
      · exact h
      · exact (State.wf_of_eq (State.setQctx_mem _ _ _) (State.setQctx_side _ _ _)).trans (State.wf_logEntry _ _ h)

theorem State.wf_homeWrite {s : State} (g : Option (BitVec 32)) (line : Nat) (p : Put) (h : s.wf = true) :
    (s.homeWrite g line p).wf = true := by
  unfold State.homeWrite
  split
  · split <;> exact h
  · exact (State.wf_l2Put _ _ _ _ _ _).trans ((State.wf_wrote _ _ _ _).trans (State.wf_applyPut line p (State.wf_logPre g line h)))

theorem State.wf_staleCopy (s : State) (e line : Nat) : (s.staleCopy e line).wf = s.wf := by
  unfold State.staleCopy
  split
  · rfl
  · dsimp only
    split <;> exact State.wf_of_eq rfl rfl

theorem State.wf_applyMsg {s t : State} (m : Msg) (h : s.wf = true) (ht : s.applyMsg m = some t) : t.wf = true := by
  unfold State.applyMsg at ht
  dsimp only at ht
  split at ht
  · split at ht
    · cases ht
      split
      · exact h
      · exact (State.wf_staleCopy _ _ _).trans h
    · split at ht
      · cases ht; exact State.wf_homeWrite _ _ _ h
      · split at ht
        · cases ht; exact (State.wf_copyPut _ _ _ _).trans h
        · cases ht; exact h
  · cases ht

theorem State.wf_firstMsg {s t : State} (e : Nat) (ms : List Msg) (r : List Msg) (h : s.wf = true)
    (ht : s.firstMsg e ms = some (t, r)) : t.wf = true := by
  induction ms generalizing r with
  | nil => cases ht
  | cons m ms ih =>
    unfold State.firstMsg at ht
    split at ht
    · next s1 hs =>
      cases ht
      split at hs
      · exact State.wf_applyMsg m h hs
      · cases hs
    · cases hr : s.firstMsg e ms with
      | none => rw [hr] at ht; cases ht
      | some q =>
        rw [hr] at ht
        obtain ⟨q1, q2⟩ := q
        cases ht
        exact ih q2 hr

theorem State.wf_makeRoom {s : State} (e : Nat) (h : s.wf = true) : (s.makeRoom e).wf = true := by
  unfold State.makeRoom
  split
  · exact h
  · split
    · next s1 ms hs => exact (State.wf_of_eq rfl rfl : ({ s1 with msgs := ms } : State).wf = s1.wf).trans (State.wf_firstMsg e s.msgs ms h hs)
    · exact h

theorem State.wf_sendStamped {s : State} (d : Nat) (g : Option (BitVec 32)) (line : Nat) (p : Put) (h : s.wf = true) :
    (s.sendStamped d g line p).wf = true := by
  unfold State.sendStamped
  exact State.wf_foldl State.makeRoom (fun s e => State.wf_makeRoom e) _ h

theorem State.wf_pocWrite {s : State} (d : Nat) (g : Option (BitVec 32)) (line : Nat) (p : Put) (h : s.wf = true) :
    (s.pocWrite d g line p).wf = true := by
  unfold State.pocWrite
  split
  · dsimp only
    split
    · exact State.wf_sendStamped d g line p (State.wf_homeWrite g line p h)
    · exact State.wf_homeWrite g line p h
  · exact State.wf_sendStamped d g line p ((State.wf_copyPut _ _ _ _).trans h)

theorem State.wf_hostWrite {s : State} (g : Option (BitVec 32)) (line : Nat) (p : Put) (h : s.wf = true) :
    (s.hostWrite g line p).wf = true := by
  unfold State.hostWrite
  refine State.wf_foldl _ ?_ _ (State.wf_homeWrite g line p h)
  intro s d hs
  split <;> exact hs

theorem State.wf_devWrite {s : State} (g : Option (BitVec 32)) (line : Nat) (p : Put) (h : s.wf = true) :
    (s.devWrite g line p).wf = true := by
  unfold State.devWrite
  split
  · exact State.wf_hostWrite g line p h
  · exact State.wf_pocWrite _ g line p h

theorem State.wf_devBytesGo (g : Option (BitVec 32)) (fuel : Nat) {s : State} (pa : Nat) (bs : List Byte) (h : s.wf = true) :
    (devBytesGo g fuel s pa bs).wf = true := by
  induction fuel generalizing s pa bs with
  | zero => exact h
  | succ n ih =>
    unfold devBytesGo
    split
    · exact h
    · exact ih _ _ (State.wf_devWrite _ _ _ h)

theorem State.wf_devBytes {s : State} (g : Option (BitVec 32)) (pa : Nat) (bs : List Byte) (h : s.wf = true) :
    (s.devBytes g pa bs).wf = true := State.wf_devBytesGo g _ pa bs h

theorem State.wf_devLine {s : State} (g : Option (BitVec 32)) (line : Nat) (data : VReg) (side : EReg) (h : s.wf = true) :
    (s.devLine g line data side).wf = true := State.wf_devWrite g line _ h

/-- A memory that lists nothing is canonical. -/
theorem State.wf_nil (s : State) (hm : s.mem = []) (hs : s.side = []) : s.wf = true := by
  simp [State.wf, hm, hs, Memory.wf, twf, twfFrom]

/-- Memory after reset is canonical. -/
theorem State.wf_reset : State.reset.wf = true :=
  State.wf_nil _ (by simp only [State.reset]) (by simp only [State.reset])

/-! ### Scratchpads -/

/-- The canonical form of a scratchpad and its sidecar. -/
def Block.wf (b : Block) : Bool := twf scratchInit b.scratch && twf sideInit b.scratchSide

theorem Block.rewritten_scratch (b : Block) (o n : Nat) : (b.rewritten o n).scratch = b.scratch := by
  unfold Block.rewritten; split <;> rfl

theorem Block.rewritten_side (b : Block) (o n : Nat) : (b.rewritten o n).scratchSide = b.scratchSide := by
  unfold Block.rewritten; split <;> rfl

theorem Block.wf_sput {b : Block} (o : Nat) (bs : List Byte) (h : b.wf = true) : (b.sput o bs).wf = true := by
  simp only [Block.wf, Bool.and_eq_true] at h ⊢
  exact ⟨twf_bytes scratchInit bs o h.1, (congrArg (twf sideInit) (Block.rewritten_side b o bs.length)).trans h.2⟩

theorem Block.wf_putRaw {b : Block} (n : Nat) (p : Put) (h : b.wf = true) : (b.putRaw n p).wf = true := by
  simp only [Block.wf, Bool.and_eq_true] at h ⊢
  have hm : Memory.wf b.scratch = true := h.1
  have h1 := wf_putLine n p.data p.mask hm
  unfold Memory.wf at h1
  exact ⟨h1, wf_putSide n p.side p.sideMask h.2⟩

theorem Block.wf_unseen (b : Block) (us : List Unseen) : ({ b with unseen := us } : Block).wf = b.wf := rfl

theorem Block.wf_sputLine {b : Block} (n : Nat) (p : Put) (h : b.wf = true) : (b.sputLine n p).wf = true := by
  unfold Block.sputLine
  dsimp only
  split
  · exact Block.wf_putRaw n p h
  · exact (Block.wf_unseen _ _).trans (Block.wf_putRaw n p h)

end Sys2Proof.Machine
end

