-- ==== Sys2Proof/Tests/Slice0.lean ====
section
/-! SUPPORT. Checks of the model: ill-formed terms that `WellFormed` refuses, words written out from the spec's encoding
and what they decode to, single steps on a small state, and a witness for the hypotheses of every statement. -/

open Sys2Proof Sys2Proof.Machine Sys2Proof.Claims

namespace Sys2Proof.Tests

set_option Elab.async false

/-! ### Forms -/

def hint : Hints := ⟨0, 0, false, false, 1⟩
def always : Guard := ⟨false, 7⟩
/-- Forms with nothing named. -/
def rf : RForm :=
  { h := hint, g := always, d := .none, a := .none, b := .none, c := .none, opx := 0, sub := 0, nc := false, ab := false,
    nb := false, aa := false, na := false, sat := false, rnd := .rne, ty := .s32 }
def mf : MForm :=
  { h := hint, g := always, d := .none, a := .none, b := .none, ofs := 0, rsv := 0, cp := 0, scp := 0, ord := 0, wid := 2 }
def cf : CForm :=
  { h := hint, g := always, d := .none, a := .none, b := .none, ofs := 0, ty := 0, sub := 0, rsv := 0, cp := 0, scp := 0,
    ord := 0, wid := 2 }
def jf (x : Word) : JForm := { h := hint, g := always, d := .none, a := .none, b := .none, x := x }
def i4 (d : Opnd) (x : Word) : IForm := { h := hint, g := always, d := d, a := .none, bm := 0, x := x }

/-- `VADD.s32 v3, v1, v2`. -/
def vadd3 : RForm := { rf with d := .v 3, a := .v 1, b := .v 2 }

/-! ### Ill-formed terms, one for each check (R90) -/

theorem test_wf_good : WellFormed (.vadd vadd3) = true ∧
    WellFormed (.ldg { mf with d := .v 4, a := .s 8, b := .v 2 }) = true ∧
    WellFormed (.mma { rf with d := .a 0, a := .m 1, b := .m 2, c := .m 3, ty := .f32 }) = true ∧
    WellFormed (.bra (jf 5)) = true ∧ WellFormed (.mmov { rf with d := .m 1, a := .m 2 }) = true ∧
    WellFormed (.stg { mf with d := .v 4, a := .s 8 }) = true ∧
    WellFormed (.smov { rf with d := .s 4, a := .s 2, ty := .n64 }) = true ∧
    WellFormed (.sread { rf with d := .s 1, a := .sp 3 }) = true ∧
    WellFormed (.swrite { rf with d := .sp 0x10, a := .s 0 }) = true := by
  decide +kernel

/-- Row 2, the G field: the reserved "never", and an unguarded word under a guard. -/
theorem test_wf_guard : WellFormed (.vadd { vadd3 with g := ⟨true, 7⟩ }) = false ∧
    WellFormed (.bra { jf 5 with g := ⟨false, 1⟩ }) = false ∧
    WellFormed (.mma { rf with g := ⟨false, 0⟩, d := .a 0, a := .m 1, b := .m 2, c := .m 3, ty := .f32 }) = false := by
  decide +kernel

/-- Row 3, the hints: a threshold without a path, WO on a word without a fixed-latency result, a path that a stream has
no counter for. -/
theorem test_wf_hints : WellFormed (.vadd { vadd3 with h := ⟨1, 0, false, false, 1⟩ }) = false ∧
    WellFormed (.bra { jf 5 with h := ⟨0, 0, true, false, 1⟩ }) = false ∧
    WellFormed (.mmov { rf with d := .m 1, a := .m 2, h := ⟨0, 1, false, false, 1⟩ }) = false := by
  decide +kernel

/-- Row 4, the modifiers: a type the word does not take, a bit that must be 0, a width that R75 reserves. -/
theorem test_wf_modifiers : WellFormed (.vadd { vadd3 with ty := .f32 }) = false ∧
    WellFormed (.vadd { vadd3 with opx := 1 }) = false ∧
    WellFormed (.ldg { mf with d := .v 4, a := .s 8, wid := 5 }) = false ∧
    WellFormed (.ldg { mf with d := .v 4, a := .s 8, rsv := 1 }) = false := by
  decide +kernel

/-- Row 5, the operands in the order D, A, B, C: a reserved specifier, a class that the slot does not take, an operand
missing or in excess, a misaligned or undeclared register; and the access rights of special registers. -/
theorem test_wf_operands : WellFormed (.vadd { vadd3 with d := .rsv 0xC00 }) = false ∧
    WellFormed (.vadd { vadd3 with d := .s 1 }) = false ∧
    WellFormed (.vadd { vadd3 with a := .none }) = false ∧
    WellFormed (.vadd { vadd3 with c := .v 1 }) = false ∧
    WellFormed (.smov { rf with d := .s 5, a := .s 2, ty := .n64 }) = false ∧
    WellFormed (.ldg { mf with d := .v 4, a := .s 9 }) = false ∧
    WellFormed (.sread { rf with d := .s 1, a := .sp 0x17 }) = false ∧
    WellFormed (.swrite { rf with d := .sp 0x0F, a := .s 0 }) = false := by
  decide +kernel

/-- Row 6, the order: acquire on a store, release on a load. -/
theorem test_wf_order : WellFormed (.stg { mf with d := .v 4, a := .s 8, ord := 1 }) = false ∧
    WellFormed (.ldg { mf with d := .v 4, a := .s 8, ord := 2 }) = false := by
  decide +kernel

/-- Terms that no word spells, an opcode that R84 assigns, and a die that does not exist. -/
theorem test_wf_other : WellFormed (.nop { jf 0 with a := .rsv 0x001 }) = false ∧
    WellFormed (.unassignedOpcodeIssue 0x010) = false ∧ WellFormed (.unassignedOpcodeIssue 0x011) = true ∧
    WellFormed (.l2FillLand 4 0) = false ∧ WellFormed (.l2FillLand 3 0) = true := by
  decide +kernel


/-! ### Decoding (R66-R79, R84)

One word per opcode, its fields written out from R66: H = 10101_010_1_0_1001, X = 0x1A2B3C4D, B = 0x405, A = 0x706,
D = 0x507, G = 1010, and the opcode of R84; and the fields that R68-R79 read there. -/

def formR : RForm :=
  { h := ⟨21, 2, true, false, 9⟩, g := ⟨true, 2⟩, d := .e 7, a := .m 6, b := .v 5, c := .s 0x1A2, opx := 11, sub := 3,
    nc := true, ab := true, nb := false, aa := false, na := false, sat := true, rnd := .rne, ty := .b32 }
def formI : IForm := { h := ⟨21, 2, true, false, 9⟩, g := ⟨true, 2⟩, d := .e 7, a := .m 6, bm := 0x405, x := 0x1A2B3C4D }
def formM : MForm :=
  { h := ⟨21, 2, true, false, 9⟩, g := ⟨true, 2⟩, d := .e 7, a := .m 6, b := .v 5, ofs := 0x1A2B3, rsv := 3, cp := 0,
    scp := 2, ord := 1, wid := 5 }
def formC : CForm :=
  { h := ⟨21, 2, true, false, 9⟩, g := ⟨true, 2⟩, d := .e 7, a := .m 6, b := .v 5, ofs := 0x1A2, ty := 11, sub := 3,
    rsv := 3, cp := 0, scp := 2, ord := 1, wid := 5 }
def formJ : JForm := { h := ⟨21, 2, true, false, 9⟩, g := ⟨true, 2⟩, d := .e 7, a := .m 6, b := .v 5, x := 0x1A2B3C4D }

/-- The words of group 0 (0x000–0x010). -/
theorem test_decode_group_0 :
    ([0xAAA468ACF135015C1941E800, 0xAAA468ACF135015C1941E801, 0xAAA468ACF135015C1941E802,
     0xAAA468ACF135015C1941E803, 0xAAA468ACF135015C1941E804, 0xAAA468ACF135015C1941E805,
     0xAAA468ACF135015C1941E806, 0xAAA468ACF135015C1941E807, 0xAAA468ACF135015C1941E808,
     0xAAA468ACF135015C1941E809, 0xAAA468ACF135015C1941E80A, 0xAAA468ACF135015C1941E80B,
     0xAAA468ACF135015C1941E80C, 0xAAA468ACF135015C1941E80D, 0xAAA468ACF135015C1941E80E,
     0xAAA468ACF135015C1941E80F, 0xAAA468ACF135015C1941E810] : List IWord).map decodeWord =
      [.nop formJ, .bra formJ, .brz formJ, .brnz formJ, .jmpi formR, .call formJ,
       .calli formR, .ret formJ, .ifc formJ, .elsec formJ, .endif formJ, .loop formJ,
       .breakc formJ, .endl formJ, .exit formJ, .yield formJ, .sleep formI] := by
  decide +kernel

/-- The words of group 1 (0x040–0x05A). -/
theorem test_decode_group_1 :
    ([0xAAA468ACF135015C1941E840, 0xAAA468ACF135015C1941E841, 0xAAA468ACF135015C1941E842,
     0xAAA468ACF135015C1941E843, 0xAAA468ACF135015C1941E844, 0xAAA468ACF135015C1941E845,
     0xAAA468ACF135015C1941E846, 0xAAA468ACF135015C1941E847, 0xAAA468ACF135015C1941E848,
     0xAAA468ACF135015C1941E849, 0xAAA468ACF135015C1941E84A, 0xAAA468ACF135015C1941E84B,
     0xAAA468ACF135015C1941E84C, 0xAAA468ACF135015C1941E84D, 0xAAA468ACF135015C1941E84E,
     0xAAA468ACF135015C1941E84F, 0xAAA468ACF135015C1941E850, 0xAAA468ACF135015C1941E851,
     0xAAA468ACF135015C1941E852, 0xAAA468ACF135015C1941E853, 0xAAA468ACF135015C1941E854,
     0xAAA468ACF135015C1941E855, 0xAAA468ACF135015C1941E856, 0xAAA468ACF135015C1941E857,
     0xAAA468ACF135015C1941E858, 0xAAA468ACF135015C1941E859, 0xAAA468ACF135015C1941E85A] : List IWord).map decodeWord =
      [.smov formR, .sli formI, .sadd formR, .ssub formR, .smul formR, .smulh formR,
       .smad formR, .sand formR, .sor formR, .sxor formR, .snot formR, .sshl formR,
       .sshr formR, .ssar formR, .smin formR, .smax formR, .scmp formR, .ssel formR,
       .sbfe formR, .sbfi formR, .spopc formR, .sclz formR, .slea formR, .sldk formI,
       .sfromv formR, .sfromk formR, .kfroms formR] := by
  decide +kernel

/-- The words of group 2 (0x080–0x09C). -/
theorem test_decode_group_2 :
    ([0xAAA468ACF135015C1941E880, 0xAAA468ACF135015C1941E881, 0xAAA468ACF135015C1941E882,
     0xAAA468ACF135015C1941E883, 0xAAA468ACF135015C1941E884, 0xAAA468ACF135015C1941E885,
     0xAAA468ACF135015C1941E886, 0xAAA468ACF135015C1941E887, 0xAAA468ACF135015C1941E888,
     0xAAA468ACF135015C1941E889, 0xAAA468ACF135015C1941E88A, 0xAAA468ACF135015C1941E88B,
     0xAAA468ACF135015C1941E88C, 0xAAA468ACF135015C1941E88D, 0xAAA468ACF135015C1941E88E,
     0xAAA468ACF135015C1941E88F, 0xAAA468ACF135015C1941E890, 0xAAA468ACF135015C1941E891,
     0xAAA468ACF135015C1941E892, 0xAAA468ACF135015C1941E893, 0xAAA468ACF135015C1941E894,
     0xAAA468ACF135015C1941E895, 0xAAA468ACF135015C1941E896, 0xAAA468ACF135015C1941E897,
     0xAAA468ACF135015C1941E898, 0xAAA468ACF135015C1941E899, 0xAAA468ACF135015C1941E89A,
     0xAAA468ACF135015C1941E89B, 0xAAA468ACF135015C1941E89C] : List IWord).map decodeWord =
      [.vmov formR, .vli formI, .vadd formR, .vsub formR, .vmul formR, .vmulh formR,
       .vmad formR, .vand formR, .vor formR, .vxor formR, .vnot formR, .vshl formR,
       .vshr formR, .vsar formR, .vmin formR, .vmax formR, .vabs formR, .vcmp formR,
       .vsel formR, .vbfe formR, .vbfi formR, .vpopc formR, .vclz formR, .vbrev formR,
       .vlea formR, .vdot4 formR, .vprmb formR, .vfroms formR, .klogic formR] := by
  decide +kernel

/-- The words of group 3 (0x0C0–0x0D4). -/
theorem test_decode_group_3 :
    ([0xAAA468ACF135015C1941E8C0, 0xAAA468ACF135015C1941E8C1, 0xAAA468ACF135015C1941E8C2,
     0xAAA468ACF135015C1941E8C3, 0xAAA468ACF135015C1941E8C4, 0xAAA468ACF135015C1941E8C5,
     0xAAA468ACF135015C1941E8C6, 0xAAA468ACF135015C1941E8C7, 0xAAA468ACF135015C1941E8C8,
     0xAAA468ACF135015C1941E8C9, 0xAAA468ACF135015C1941E8CA, 0xAAA468ACF135015C1941E8CB,
     0xAAA468ACF135015C1941E8CC, 0xAAA468ACF135015C1941E8CD, 0xAAA468ACF135015C1941E8CE,
     0xAAA468ACF135015C1941E8CF, 0xAAA468ACF135015C1941E8D0, 0xAAA468ACF135015C1941E8D1,
     0xAAA468ACF135015C1941E8D2, 0xAAA468ACF135015C1941E8D3, 0xAAA468ACF135015C1941E8D4] : List IWord).map decodeWord =
      [.fadd formR, .fsub formR, .fmul formR, .ffma formR, .fmin formR, .fmax formR,
       .fcmp formR, .frcp formR, .frsq formR, .fsqrt formR, .fexp2 formR, .flog2 formR,
       .fsinp formR, .fcosp formR, .ftanh formR, .fscl formR, .frnd formR, .ffrac formR,
       .fclass formR, .fdot2 formR, .ferf formR] := by
  decide +kernel

/-- The words of group 4 (0x100–0x10E). -/
theorem test_decode_group_4 :
    ([0xAAA468ACF135015C1941E900, 0xAAA468ACF135015C1941E901, 0xAAA468ACF135015C1941E902,
     0xAAA468ACF135015C1941E903, 0xAAA468ACF135015C1941E904, 0xAAA468ACF135015C1941E905,
     0xAAA468ACF135015C1941E906, 0xAAA468ACF135015C1941E907, 0xAAA468ACF135015C1941E908,
     0xAAA468ACF135015C1941E909, 0xAAA468ACF135015C1941E90A, 0xAAA468ACF135015C1941E90B,
     0xAAA468ACF135015C1941E90C, 0xAAA468ACF135015C1941E90D, 0xAAA468ACF135015C1941E90E] : List IWord).map decodeWord =
      [.cvt formR, .cvtp formR, .mxpk formR, .mxup formR, .qnt formR, .qnta formR,
       .accrd formR, .accwr formR, .emov formR, .eset formR, .eget formR, .eadd formR,
       .eamax formR, .mxcvt formR, .echk formR] := by
  decide +kernel

/-- The words of group 5 (0x140–0x14A). -/
theorem test_decode_group_5 :
    ([0xAAA468ACF135015C1941E940, 0xAAA468ACF135015C1941E941, 0xAAA468ACF135015C1941E942,
     0xAAA468ACF135015C1941E943, 0xAAA468ACF135015C1941E944, 0xAAA468ACF135015C1941E945,
     0xAAA468ACF135015C1941E946, 0xAAA468ACF135015C1941E947, 0xAAA468ACF135015C1941E948,
     0xAAA468ACF135015C1941E949, 0xAAA468ACF135015C1941E94A] : List IWord).map decodeWord =
      [.qswz formR, .qbcst formR, .shfl formR, .shflx formR, .shfld formR, .ballot formR,
       .vote formR, .mbcnt formR, .cmprs formR, .wred formR, .wscan formR] := by
  decide +kernel

/-- The words of group 6 (0x180–0x18E). -/
theorem test_decode_group_6 :
    ([0xAAA468ACF135015C1941E980, 0xAAA468ACF135015C1941E981, 0xAAA468ACF135015C1941E982,
     0xAAA468ACF135015C1941E983, 0xAAA468ACF135015C1941E984, 0xAAA468ACF135015C1941E985,
     0xAAA468ACF135015C1941E986, 0xAAA468ACF135015C1941E987, 0xAAA468ACF135015C1941E988,
     0xAAA468ACF135015C1941E989, 0xAAA468ACF135015C1941E98A, 0xAAA468ACF135015C1941E98B,
     0xAAA468ACF135015C1941E98C, 0xAAA468ACF135015C1941E98D, 0xAAA468ACF135015C1941E98E] : List IWord).map decodeWord =
      [.ldg formM, .stg formM, .lds formM, .sts formM, .ldcl formM, .stcl formM,
       .ldmx formM, .stmx formM, .sldg formM, .sstg formM, .cmpst formM, .expld formM,
       .fifopop formM, .fifopush formM, .pref formM] := by
  decide +kernel

/-- The words of group 7 (0x1C0–0x1C8). -/
theorem test_decode_group_7 :
    ([0xAAA468ACF135015C1941E9C0, 0xAAA468ACF135015C1941E9C1, 0xAAA468ACF135015C1941E9C2,
     0xAAA468ACF135015C1941E9C3, 0xAAA468ACF135015C1941E9C4, 0xAAA468ACF135015C1941E9C5,
     0xAAA468ACF135015C1941E9C6, 0xAAA468ACF135015C1941E9C7, 0xAAA468ACF135015C1941E9C8] : List IWord).map decodeWord =
      [.atom formC, .acas formC, .red formC, .redd formC, .rflush formJ, .fence formJ,
       .fencex formJ, .waitc formR, .rdcnt formR] := by
  decide +kernel

/-- The words of group 8 (0x200–0x206). -/
theorem test_decode_group_8 :
    ([0xAAA468ACF135015C1941EA00, 0xAAA468ACF135015C1941EA01, 0xAAA468ACF135015C1941EA02,
     0xAAA468ACF135015C1941EA03, 0xAAA468ACF135015C1941EA04, 0xAAA468ACF135015C1941EA05,
     0xAAA468ACF135015C1941EA06] : List IWord).map decodeWord =
      [.cpyk formR, .gsk formR, .colk formR, .rkput formR, .rkget formR, .migh formR,
       .launch formR] := by
  decide +kernel

/-- The words of group 9 (0x240–0x24A). -/
theorem test_decode_group_9 :
    ([0xAAA468ACF135015C1941EA40, 0xAAA468ACF135015C1941EA41, 0xAAA468ACF135015C1941EA42,
     0xAAA468ACF135015C1941EA43, 0xAAA468ACF135015C1941EA44, 0xAAA468ACF135015C1941EA45,
     0xAAA468ACF135015C1941EA46, 0xAAA468ACF135015C1941EA47, 0xAAA468ACF135015C1941EA48,
     0xAAA468ACF135015C1941EA49, 0xAAA468ACF135015C1941EA4A] : List IWord).map decodeWord =
      [.bar formR, .bara formR, .barw formR, .cbara formR, .cbarw formR, .dbara formR,
       .dbarw formR, .boinit formR, .boarv formR, .boexp formR, .bowait formR] := by
  decide +kernel

/-- The words of group 0xA (0x280–0x291). -/
theorem test_decode_group_0xa :
    ([0xAAA468ACF135015C1941EA80, 0xAAA468ACF135015C1941EA81, 0xAAA468ACF135015C1941EA82,
     0xAAA468ACF135015C1941EA83, 0xAAA468ACF135015C1941EA84, 0xAAA468ACF135015C1941EA85,
     0xAAA468ACF135015C1941EA86, 0xAAA468ACF135015C1941EA87, 0xAAA468ACF135015C1941EA88,
     0xAAA468ACF135015C1941EA89, 0xAAA468ACF135015C1941EA8A, 0xAAA468ACF135015C1941EA8B,
     0xAAA468ACF135015C1941EA8C, 0xAAA468ACF135015C1941EA8D, 0xAAA468ACF135015C1941EA8E,
     0xAAA468ACF135015C1941EA8F, 0xAAA468ACF135015C1941EA90, 0xAAA468ACF135015C1941EA91] : List IWord).map decodeWord =
      [.mma formR, .mmag formR, .azero formR, .alds formC, .asts formC, .astq formC,
       .mbara formR, .mbarw formR, .mloop formJ, .mnext formJ, .mbra formJ, .mend formJ,
       .mmov formR, .madd formR, .mlds formC, .mcpyk formR, .mwaitc formR, .mfencex formJ] := by
  decide +kernel

/-- The words of group 0xB (0x2C0–0x2CA). -/
theorem test_decode_group_0xb :
    ([0xAAA468ACF135015C1941EAC0, 0xAAA468ACF135015C1941EAC1, 0xAAA468ACF135015C1941EAC2,
     0xAAA468ACF135015C1941EAC3, 0xAAA468ACF135015C1941EAC4, 0xAAA468ACF135015C1941EAC5,
     0xAAA468ACF135015C1941EAC6, 0xAAA468ACF135015C1941EAC7, 0xAAA468ACF135015C1941EAC8,
     0xAAA468ACF135015C1941EAC9, 0xAAA468ACF135015C1941EACA] : List IWord).map decodeWord =
      [.sread formR, .swrite formR, .trap formI, .brk formI, .rte formJ, .ctrget formR,
       .ctrset formR, .rng formR, .clock formR, .gtime formR, .pmrd formR] := by
  decide +kernel

/-- The spec's own worked encodings (R67, R73, R74, R78), each as its three little-endian words. -/
theorem test_decode_worked :
    (decode (bytesLE 4 0x20025C42 ++ bytesLE 4 0x01025F40 ++ bytesLE 4 0x0007FFC0)).toOption =
      some (.sadd ⟨⟨0, 0, false, false, 1⟩, ⟨false, 7⟩, .s 9, .s 8, .imm 125, .none, 0, 0, false, false, false, false, false,
        true, .rne, .s32⟩, []) ∧
    (decode (bytesLE 4 0x12009C91 ++ bytesLE 4 0x80024010 ++ bytesLE 4 0x0003FFC0)).toOption =
      some (.vcmp ⟨⟨0, 0, false, false, 0⟩, ⟨false, 7⟩, .k 2, .v 4, .imm 0, .none, 0, 2, false, false, false, false, false,
        false, .rne, .s32⟩, []) ∧
    (decode (bytesLE 4 0xFFFFC408 ++ bytesLE 4 0x0023FFFF ++ bytesLE 4 0)).toOption =
      some (.ifc ⟨⟨0, 0, false, false, 0⟩, ⟨false, 1⟩, .none, .none, .none, 8⟩, []) ∧
    (decode (bytesLE 4 0xFFFFDC0D ++ bytesLE 4 0xFFE7FFFF ++ bytesLE 4 0x0003FFFF)).toOption =
      some (.endl ⟨⟨0, 0, false, false, 0⟩, ⟨false, 7⟩, .none, .none, .none, 0xFFFFFFF9⟩, []) := by
  decide +kernel

/-- Every word of the opcode map re-encodes to itself, and eleven bytes decode to nothing. -/
theorem test_encode_back : encodeWord (.vadd formR) = some 0xAAA468ACF135015C1941E882 ∧
    encodeWord (.ldg formM) = some 0xAAA468ACF135015C1941E980 ∧
    (decode (List.replicate 11 0)).toOption = none := by
  decide +kernel

/-! ### Single words on a small state

Expected values are worked out by hand from the rules named. -/

def wid : WarpId := ⟨0, 0, 0⟩
def bid : BlockId := ⟨0, 0⟩
/-- One core, and one block of one warp on it with `f` applied to the warp, whose word issues. -/
def probe (f : Warp → Warp) : State :=
  { cores := [Core.reset 0], cur := some (.warp wid), grids := [probeGrid],
    blocks := [{ probeBlock 0 with warps := [f (probeWarp 0)] }] }
/-- The warp after a word. -/
def after (i : Instr) (s : State) : Option Warp :=
  match exec i s with
  | .next t => (t.warp? wid).map (fun p => p.2)
  | _ => none
/-- A register after a word, its results landed. -/
def regAfter (i : Instr) (s : State) (r : RegId) : Option (BitVec 1024) := (after i s).map (fun x => x.landed x.win.num r)
/-- A V register with one word in lane 0 and another in every other lane. -/
def two (a b : Nat) : VReg := ofLanes (fun l => BitVec.ofNat 32 (if l = 0 then a else b))

/-- R116: −2,147,483,647 − 3 clamps to the least value under SAT, and wraps to 0x7FFFFFFE without it. -/
theorem test_sadd : (let s := probe (fun x => { x with s := [(8, 0x80000001)] })
    let f : RForm := { rf with d := .s 9, a := .s 8, b := .imm 0x7D }
    regAfter (.sadd { f with sat := true }) s (.s 9) = some 0x80000000 ∧ regAfter (.sadd f) s (.s 9) = some 0x7FFFFFFE) := by
  decide +kernel

/-- R117: the high half of −1 × 1 is −1 signed and 0 unsigned. -/
theorem test_smulh : (let s := probe (fun x => { x with s := [(8, 0xFFFFFFFF), (9, 1)] })
    let f : RForm := { rf with d := .s 4, a := .s 8, b := .s 9 }
    regAfter (.smulh f) s (.s 4) = some 0xFFFFFFFF ∧ regAfter (.smulh { f with ty := .n32 }) s (.s 4) = some 0) := by
  decide +kernel

/-- R117, R123: shifts by 32 and more leave zeros, or copies of the sign. -/
theorem test_shifts : (let s := probe (fun x => { x with s := [(8, 0x80000001), (9, 40)] })
    let f : RForm := { rf with d := .s 4, a := .s 8, b := .s 9, ty := .n32 }
    regAfter (.sshl f) s (.s 4) = some 0 ∧ regAfter (.sshr f) s (.s 4) = some 0 ∧
    regAfter (.ssar { f with ty := .s32 }) s (.s 4) = some 0xFFFFFFFF) := by
  decide +kernel

/-- R119: −1 is less than 0 as S32 and not as N32. -/
theorem test_scmp : (let s := probe (fun x => { x with s := [(8, 0xFFFFFFFF)] })
    let f : RForm := { rf with d := .s 4, a := .s 8, b := .imm 0, sub := 2 }
    regAfter (.scmp f) s (.s 4) = some 1 ∧ regAfter (.scmp { f with ty := .n32 }) s (.s 4) = some 0) := by
  decide +kernel

/-- R14: a guarded vector word writes the lanes of its K register only; a source may be the destination. -/
theorem test_vadd_guard : (let s := probe (fun x => { x with v := [(1, two 5 7)], k := [(2, 0x00000001)] })
    regAfter (.vadd { rf with d := .v 1, a := .v 1, b := .v 1, g := ⟨false, 2⟩ }) s (.v 1) = some (two 10 7)) := by
  decide +kernel

/-- R141, R142: a comparison writes K bits; `KLOGIC` takes bit 2·a + b of its table. -/
theorem test_vcmp_klogic : (let s := probe (fun x => { x with v := [(4, two 0xFFFFFFFF 3)], k := [(1, 0xC), (6, 0xA)] })
    regAfter (.vcmp { rf with d := .k 2, a := .v 4, b := .imm 0, sub := 2 }) s (.k 2) = some 1 ∧
    regAfter (.klogic { rf with d := .k 2, a := .k 1, b := .k 6, sub := 8 }) s (.k 2) = some 8) := by
  decide +kernel

/-- R148: 1.0 + 2^-24 rounds to even, to 1.0; toward positive it is 1.0 + 2^-23; the NaN result is canonical. -/
theorem test_fadd : (let s := probe (fun x => { x with v := [(1, two 0x3F800000 0x7F800001), (2, two 0x33800000 0)] })
    let f : RForm := { rf with d := .v 3, a := .v 1, b := .v 2, ty := .f32 }
    regAfter (.fadd f) s (.v 3) = some (two 0x3F800000 0x7FC00000) ∧
    regAfter (.fadd { f with rnd := .ru }) s (.v 3) = some (two 0x3F800001 0x7FC00000)) := by
  decide +kernel

/-- R145: a signalling NaN sets NV, an inexact sum NX, in `%fpst`. -/
theorem test_fadd_flags : (let s := probe (fun x => { x with v := [(1, two 0x3F800000 0x3F800000), (2, two 0x33800000 0)] })
    (after (.fadd { rf with d := .v 3, a := .v 1, b := .v 2, ty := .f32 }) s).map (fun x => x.fpst) = some 0x10) := by
  decide +kernel

/-- R163: a conversion to an integer rounds toward zero under RZ, and clamps out of range. -/
theorem test_cvt : (let s := probe (fun x => { x with v := [(1, two 0xBFC00000 0x4F800000)] })
    regAfter (.cvt { rf with d := .v 3, a := .v 1, ty := .s32, opx := 8, rnd := .rz }) s (.v 3) =
      some (two 0xFFFFFFFF 0x7FFFFFFF)) := by
  decide +kernel

/-- R107: a false condition skips to the ELSE part, where the lanes become live again. -/
theorem test_if_else : (let s := probe (fun x => { x with k := [(1, 0)] })
    (after (.ifc { jf 8 with g := ⟨false, 1⟩ }) s).map (fun x => (x.pc, nestOf x.nest 0)) = some (108, 1) ∧
    (after (.elsec (jf 8)) (probe (fun x => { x with nest := BitVec.ofNat 128 0x11111111111111111111111111111111 }))).map
      (fun x => (x.pc, nestOf x.nest 31)) = some (12, 0)) := by
  decide +kernel

/-- R78: the slot after the tenth of a code block is the first of the next. -/
theorem test_bra : (after (.bra (jf 9)) (probe id)).map (fun x => x.pc) = some 128 ∧
    (after (.bra (jf 0xFFFFFFFF)) (probe (fun x => { x with pc := 128 }))).map (fun x => x.pc) = some 128 ∧
    (after (.bra (jf 0xFFFFFFFE)) (probe (fun x => { x with pc := 128 }))).map (fun x => x.pc) = some 108 := by
  decide +kernel

/-- R105: `CALL` pushes the next slot, `RET` goes there. -/
theorem test_call_ret : (after (.call (jf 2)) (probe id)).map (fun x => (x.pc, x.stack)) = some (36, [12]) ∧
    (after (.ret (jf 0)) (probe (fun x => { x with stack := [12, 24] }))).map (fun x => (x.pc, x.stack)) = some (24, [12]) := by
  decide +kernel

/-- R110: `EXIT` under a guard retires those lanes; with no real lane left the warp ends. -/
theorem test_exit : (after (.exit { jf 0 with g := ⟨false, 1⟩ }) (probe (fun x => { x with k := [(1, 0xFF)] }))).map
      (fun x => (x.retired, x.terminated)) = some (0xFF, false) ∧
    (after (.exit (jf 0)) (probe id)).map (fun x => (x.retired, x.terminated)) = some (0xFFFFFFFF, true) := by
  decide +kernel

/-- R179, R182: `BALLOT` collects live lanes; `SHFL` down takes the lane above, the last lane itself. -/
theorem test_exchange : (let s := probe (fun x => { x with v := [(1, ofLanes (fun l => BitVec.ofNat 32 l))], k := [(3, 0xF0)] })
    regAfter (.ballot { rf with d := .s 4, a := .k 3 }) s (.s 4) = some 0xF0 ∧
    (regAfter (.shfl { rf with d := .v 2, a := .v 1, b := .imm 1, sub := 2, ty := .b32 }) s (.v 2)).map
      (fun r => (lane r 0, lane r 31)) = some (1, 31)) := by
  decide +kernel

/-- R186: the integer sum over the lanes of a warp is exact. -/
theorem test_wred : (let s := probe (fun x => { x with v := [(1, ofLanes (fun l => BitVec.ofNat 32 l))] })
    regAfter (.wred { rf with d := .s 4, a := .v 1, sub := 0 }) s (.s 4) = some 496) := by
  decide +kernel

/-- R261, R262: `SREAD` of `%lane`, and `SWRITE` of `%mode`. -/
theorem test_sread : regAfter (.sread { rf with d := .v 1, a := .sp 0 }) (probe id) (.v 1) =
      some (ofLanes (fun l => BitVec.ofNat 32 l)) ∧
    (after (.swrite { rf with d := .sp 0x16, a := .imm 1 }) (probe id)).map (fun x => x.mode) = some 1 := by
  decide +kernel

/-- R269, R275: `TRAP` without a handler stops the warp. -/
theorem test_trap : (after (.trap (i4 .none 0x55)) (probe id)).map (fun x => (x.stopped, x.pc)) = some (true, 0) := by
  decide +kernel

/-- R222: the only warp's arrival completes the phase of a barrier of one party. -/
theorem test_bara : (match exec (.bara { rf with a := .imm 1 }) (probe id) with
    | .next t => (t.block? bid).map (fun b => ((b.bar 1).phase, (b.bar 1).arr))
    | _ => none) = some (true, 0) := by
  decide +kernel

/-- R19, R90: a 64-bit value in an odd S register is ILLEGAL_OPERAND, and the warp stops without a handler. -/
theorem test_misaligned_pair : (let f : RForm := { rf with d := .s 4, a := .s 6, ty := .n64 }
    (after (.smov { f with d := .s 5 }) (probe id)).map (fun x => x.stopped) = some true ∧
    (after (.smov f) (probe id)).map (fun x => x.stopped) = some false) := by
  decide +kernel

/-- R250, R251: stream arithmetic on M registers, and a loop that is entered. -/
theorem test_stream : (let s : State := { probe id with cur := some (.seq bid), blocks := [{ probeBlock 0 with m := [(2, 5)] }] }
    let m (i : Instr) (n : Nat) : Option (BitVec 1024) := match exec i s with
      | .next t => (t.seq? bid).map (fun p => streamLanded p.1 p.2 p.2.win.num n)
      | _ => none
    m (.madd { rf with d := .m 3, a := .m 2, b := .m 2, opx := 3 }) 3 = some 45 ∧
    m (.mloop { jf 4 with d := .m 3, a := .m 2 }) 3 = some 5) := by
  decide +kernel

/-- The first step after reset runs the word that is placed: `SLI s12` of 0xDEADBEEF. -/
theorem test_first_step : (match step (State.reset.withFetchWord 96
      0b00000000000001_11011110101011011011111011101111_000000000001_111111111111_000000001100_0111_0001000001) with
    | .next t => (t.warp? wid).map (fun p => (p.2.pc, p.2.landed p.2.win.num (.s 12)))
    | _ => none) = some (12, 0xDEADBEEF) := by
  decide +kernel


/-! ### Witnesses: words that issue

For each statement over words, forms and a state that meet its hypotheses. -/

/-- The conditions of `Issues`, decided, with a further condition on what the word sees. -/
def issuesB (sh : Shape) (row7 : Ctx → Option TrapInfo) (s : State) (p : Ctx → Bool) : Bool :=
  match s.seenBy wid with
  | some c =>
    decide (s.cur = some (.warp wid)) && c.w.canIssue c.clk && !s.stopDue wid c.w && (sh.check false (Rec.declared c.g.record) c.w.pc).isNone &&
      (row7 c).isNone && issueGate c.w.win sh && (!c.chk || (coverage c.w.win sh).isNone) && p c
  | none => false

theorem issues_of {sh : Shape} {row7 : Ctx → Option TrapInfo} {s : State} {p : Ctx → Bool} (h : issuesB sh row7 s p = true) :
    ∃ c, Issues sh row7 s wid c ∧ p c = true := by
  unfold issuesB at h
  split at h
  · next c hc =>
    simp only [Bool.and_eq_true, decide_eq_true_eq, Option.isNone_iff_eq_none, Bool.or_eq_true, Bool.not_eq_true'] at h
    obtain ⟨⟨⟨⟨⟨⟨⟨h1, h2⟩, h0⟩, h3⟩, h4⟩, h5⟩, h6⟩, h7⟩ := h
    refine ⟨c, ⟨h1, hc, h2, h0, h3, h4, h5, fun hk => ?_⟩, h7⟩
    rcases h6 with h6 | h6
    · rw [hk] at h6; cases h6
    · exact h6
  · cases h

/-- Every shape of a list issues in a state. -/
theorem all_issue {l : List Shape} {s : State} (h : l.all (fun sh => issuesB sh noRow7 s (fun _ => true)) = true) :
    ∀ sh ∈ l, ∃ c, Issues sh noRow7 s wid c := fun sh m =>
  (issues_of (List.all_eq_true.mp h sh m)).imp (fun _ h => h.1)

/-- As `issuesB`, for a word of the block's stream. -/
def sIssuesB (sh : Shape) (s : State) (p : SCtx → Bool) : Bool :=
  match s.seqSees bid with
  | some c =>
    decide (s.cur = some (.seq bid)) && c.q.canIssue c.clk && (sh.check true (Rec.declared c.g.record) c.q.pc).isNone &&
      issueGate c.q.win sh && (!c.q.chk || (coverage c.q.win sh).isNone) && p c
  | none => false

theorem sIssues_of {sh : Shape} {s : State} {p : SCtx → Bool} (h : sIssuesB sh s p = true) :
    ∃ c, SIssues sh s bid c ∧ p c = true := by
  unfold sIssuesB at h
  split at h
  · next c hc =>
    simp only [Bool.and_eq_true, decide_eq_true_eq, Option.isNone_iff_eq_none, Bool.or_eq_true, Bool.not_eq_true'] at h
    obtain ⟨⟨⟨⟨⟨h1, h2⟩, h3⟩, h5⟩, h6⟩, h7⟩ := h
    refine ⟨c, ⟨h1, hc, h2, h3, h5, fun hk => ?_⟩, h7⟩
    rcases h6 with h6 | h6
    · rw [hk] at h6; cases h6
    · exact h6
  · cases h

theorem all_sIssue {l : List Shape} {s : State} (h : l.all (fun sh => sIssuesB sh s (fun _ => true)) = true) :
    ∀ sh ∈ l, ∃ c, SIssues sh s bid c := fun sh m =>
  (sIssues_of (List.all_eq_true.mp h sh m)).imp (fun _ h => h.1)

/-- The first `n` lines, each whole and with its sidecar in an L2. -/
def l2s (n : Nat) : List L2Line := (List.range n).map (fun i => { line := i, held := BitVec.allOnes 128, side := 0xFF })

/-- No write is on its way anywhere. -/
theorem nothingComing_of {s : State} (h : s.msgs = []) : nothingComing s := by
  intro m hm
  rw [h] at hm
  cases hm

/-- The probed warp and its block satisfy a condition. -/
def warpB (s : State) (p : Block → Warp → Bool) : Bool :=
  match s.warp? wid with
  | some (b, x) => p b x
  | none => false

theorem warp_of {s : State} {p : Block → Warp → Bool} (h : warpB s p = true) :
    ∃ b x, s.warp? wid = some (b, x) ∧ p b x = true := by
  unfold warpB at h
  split at h
  · next b x hw => exact ⟨b, x, hw, h⟩
  · cases h

/-- A word form with S registers, and one with V registers. -/
def us : RForm := { rf with d := .s 4, a := .s 8, b := .s 12 }
def uv : RForm := { rf with d := .v 4, a := .v 8, b := .v 12 }

theorem witness_TransfersOfControl :
    (∀ sh ∈ [shNop (jf 0), shBra (jf 3), shBrz { jf 3 with a := .s 4 }, shBrz { jf 3 with a := .k 1 }],
      ∃ c, Issues sh noRow7 (probe id) wid c) ∧
    (∃ c, Issues (shJmpi { rf with a := .s 4 })
        (fun c => if legalPc (c.uni64 (.s 4)) then none else some { cause := .illegalPc, detail := 0x01, addr := c.uni64 (.s 4) })
        (probe (fun x => { x with s := [(4, 108)] })) wid c) :=
  ⟨all_issue (by decide +kernel), (issues_of (p := fun _ => true) (by decide +kernel)).imp (fun _ h => h.1)⟩

theorem witness_CallsAndReturns :
    (∃ c, Issues (shBra (jf 3)) noRow7 (probe (fun x => { x with stack := List.replicate 15 0 })) wid c ∧
      decide (c.w.stack.length < 16) = true) ∧
    (∃ c, Issues (shJmpi { rf with a := .s 4 })
        (fun c => if legalPc (c.uni64 (.s 4)) then none else some { cause := .illegalPc, detail := 0x01, addr := c.uni64 (.s 4) })
        (probe (fun x => { x with s := [(4, 108)] })) wid c ∧ decide (c.w.stack.length < 16) = true) ∧
    (∃ c, Issues (shPlainJ (jf 0)) (fun c => match c.w.stack.getLast? with
        | none => some { cause := .illegalPc, detail := 0x01 }
        | some t => if legalPc t then none else some { cause := .illegalPc, detail := 0x01, addr := t })
        (probe (fun x => { x with stack := [24] })) wid c) :=
  ⟨issues_of (by decide +kernel), issues_of (by decide +kernel),
    (issues_of (p := fun _ => true) (by decide +kernel)).imp (fun _ h => h.1)⟩

/-- A counter at its greatest value, 15, that `IF` would not raise since the lane is live again below it. -/
theorem witness_Divergence :
    (∃ c, Issues (shIf { jf 3 with g := ⟨false, 1⟩ }) noRow7 (probe (fun x => { x with nest := 14 })) wid c ∧
      (List.range 32).all (fun l => bit c.w.retired l ||
        decide ((if 0 < nestOf c.w.nest l then nestOf c.w.nest l + 1 else if bit (c.guard ⟨false, 1⟩) l then 0 else 1) ≤ 15)) = true) ∧
    (∃ c, Issues (shBra (jf 3)) noRow7 (probe (fun x => { x with nest := 15 })) wid c ∧
      (List.range 32).all (fun l => bit c.w.retired l || decide (nestOf c.w.nest l ≤ 15)) = true) ∧
    (∀ sh ∈ [shPlainJ (jf 0), shBreak (jf 14)], ∃ c, Issues sh noRow7 (probe id) wid c) :=
  ⟨issues_of (by decide +kernel), issues_of (by decide +kernel), all_issue (by decide +kernel)⟩

theorem witness_ControlTraps :
    (∀ sh ∈ [shIf (jf 3), shPlainJ (jf 0)], ∃ c, Issues sh noRow7 (probe (fun x => { x with nest := 15 })) wid c) ∧
    (∃ c, Issues (shIf (jf 3)) noRow7 (probe (fun x => { x with nest := 15 })) wid c ∧
      decide (bit c.w.retired 0 = false ∧ nestOf c.w.nest 0 = 15) = true) ∧
    (∃ c, Issues (shBra (jf 3)) noRow7 (probe (fun x => { x with stack := List.replicate 16 0 })) wid c ∧
      decide (c.w.stack.length = 16) = true) ∧
    (∃ b x, (probe id).warp? wid = some (b, x) ∧
      (x.stack.isEmpty && x.canIssue ((probe id).clkOf (dieOfCore b.core)) && !(probe id).stopDue wid x &&
        ((shPlainJ (jf 0)).check false (Rec.declared probeGrid.record) x.pc).isNone) = true) :=
  ⟨all_issue (by decide +kernel), issues_of (by decide +kernel), issues_of (by decide +kernel), warp_of (by decide +kernel)⟩

theorem witness_ExitYieldSleep :
    (∃ c, Issues (shExit { jf 0 with g := ⟨false, 1⟩ }) noRow7 (probe (fun x => { x with k := [(1, 0x7FFFFFFF)] })) wid c ∧
      decide (((~~~(c.w.retired ||| c.regwrite ⟨false, 1⟩)) &&& ~~~c.w.helper) ≠ 0) = true) ∧
    (∃ c, Issues (shExit (jf 0)) noRow7 (probe (fun x => { x with helper := 1 })) wid c ∧
      decide (((~~~(c.w.retired ||| c.regwrite always)) &&& ~~~c.w.helper) = 0) = true) ∧
    (∀ sh ∈ [shPlainJ (jf 0), shSleep (i4 .none 5)], ∃ c, Issues sh noRow7 (probe id) wid c) ∧
    (∃ b x, (probe (fun x => { x with sleep := 1 })).warp? wid = some (b, x) ∧ (x.sleep == 1) = true) :=
  ⟨issues_of (by decide +kernel), issues_of (by decide +kernel), all_issue (by decide +kernel), warp_of (by decide +kernel)⟩

theorem witness_UniformArithmetic :
    ∀ sh ∈ [shSmov { us with b := .none }, shSli (i4 (.s 4) 7), shSadd us, shSmad { us with c := .s 16 }, shSmulh us, shSand us,
      shSnot { us with b := .none }, shSshl us], ∃ c, Issues sh noRow7 (probe id) wid c :=
  all_issue (by decide +kernel)

theorem witness_UniformSelection :
    ∀ sh ∈ [shScmp us, shSsel { us with c := .s 16 }, shSbfe { us with c := .s 16 }, shSbfi { us with c := .s 16 },
      shSpopc { us with b := .none }, shSlea us, shSldk { i4 (.s 4) 7 with a := .s 8 },
      shSfromv { us with a := .v 8 }, shSfromk { us with a := .k 1, b := .none }, shKfroms { us with d := .k 1, b := .none }],
      ∃ c, Issues sh noRow7 (probe id) wid c :=
  all_issue (by decide +kernel)

theorem witness_VectorArithmetic :
    ∀ sh ∈ [shVmov { uv with b := .none }, shVli (i4 (.v 4) 7), shVadd uv, shVmul uv, shVmad { uv with c := .v 16 }, shVmulh uv,
      shVmin uv, shVabs { uv with b := .none }, shVand uv, shVnot { uv with b := .none }, shVshl uv],
      ∃ c, Issues sh noRow7 (probe id) wid c :=
  all_issue (by decide +kernel)

theorem witness_VectorSelection :
    ∀ sh ∈ [shVcmp { uv with d := .k 1 }, shVsel { uv with c := .k 1 }, shVbfe { uv with c := .v 16 }, shVbfi { uv with c := .v 16 },
      shVpopc { uv with b := .none }, shVnot { uv with b := .none }, shVlea uv,
      shVprmb { uv with c := .v 16, ty := .b32 }, shVfroms { us with d := .v 4 },
      shKlogic { rf with d := .k 1, a := .k 2, b := .k 3, sub := 6 }],
      ∃ c, Issues sh noRow7 (probe id) wid c :=
  all_issue (by decide +kernel)

def uf : RForm := { uv with ty := .f32 }

theorem witness_FloatArithmetic :
    ∀ sh ∈ [shF2 uf, shFfma { uf with c := .v 16 }, shFmin uf, shFcmp { uf with d := .k 1 }, shFscl uf, shFrnd { uf with b := .none },
      shFfrac { uf with b := .none }, shFclass { uf with b := .none }, shFdot2 { uv with c := .v 16, ty := .f16x2 }],
      ∃ c, Issues sh noRow7 (probe id) wid c :=
  all_issue (by decide +kernel)

theorem witness_ApproximatedFunctions :
    ∀ sh ∈ [shF1 { uf with b := .none }, shFsqrt { uf with b := .none }], ∃ c, Issues sh noRow7 (probe id) wid c :=
  all_issue (by decide +kernel)

theorem witness_FloatLaws : (fdecode fp32 0x7F800001).isNan = true ∧ (FRes.mk 0x3F800001 0).bits < 2 ^ fp32.width := by
  decide +kernel

theorem witness_IntegerFunctions : tySigned .s16 = true ∧ tySigned .n64 = false ∧ tyW .s8 < 32 ∧ tySigned .s8 = true := by
  decide +kernel

theorem witness_ScalarConversions :
    ∀ sh ∈ [shCvt { uv with b := .none, ty := .f16, opx := 8 }, shCvtp { uv with ty := .f16x2, opx := 8 },
      shCvtp { uv with b := .none, ty := .f32, opx := 9 }], ∃ c, Issues sh noRow7 (probe id) wid c :=
  all_issue (by decide +kernel)

theorem witness_BlockScaledConversions :
    ∀ sh ∈ [shQnt { uv with b := .none }, shMxpk { uv with b := .e 12 }, shMxup { uv with b := .none },
      shMxcvt { uv with b := .none, opx := 4 }], ∃ c, Issues sh noRow7 (probe id) wid c :=
  all_issue (by decide +kernel)

theorem witness_ScaleRegisters :
    ∀ sh ∈ [shEmov { rf with d := .e 1, a := .e 2, sub := 3 }, shEset { rf with d := .e 1, a := .s 2, sub := 3 },
      shEget { rf with d := .s 1, a := .e 2, b := .imm 3 }, shEadd { rf with d := .e 1, a := .e 2, b := .s 3, opx := 8 },
      shEamax { rf with d := .e 1, a := .v 8, opx := 1 }, shEchk { rf with d := .s 1, a := .e 2, sub := 3 }],
      ∃ c, Issues sh noRow7 (probe id) wid c :=
  all_issue (by decide +kernel)

def ub : RForm := { uv with ty := .b32 }

theorem witness_LaneExchange :
    ∀ sh ∈ [shQswz { ub with b := .none, sub := 1 }, shQbcst ub, shShfl { ub with sub := 3, opx := 2 },
      shShflx { ub with c := .v 16 }, shShfld { ub with c := .s 16 }, shBallot { rf with d := .s 4, a := .k 1 },
      shVote { rf with d := .k 4, a := .v 8, sub := 2 }, shMbcnt { rf with d := .v 4, a := .s 8 }, shCmprs { ub with b := .k 1 }],
      ∃ c, Issues sh noRow7 (probe id) wid c :=
  all_issue (by decide +kernel)

theorem witness_ReductionsAndScans :
    ∀ sh ∈ [shWred { uf with b := .none }, shWred { uv with d := .s 4, b := .none, sub := 1 },
      shWscan { uf with b := .none, opx := 1 }], ∃ c, Issues sh noRow7 (probe id) wid c :=
  all_issue (by decide +kernel)


/-! ### Witnesses: memory, kicks and barriers -/

/-- A state in which S8:S9 holds an address of the block's scratchpad window and S10:S11 one of no page. -/
def mprobe : State :=
  let w : DWord := BitVec.ofNat 64 (windowBase + 0x4000)
  probe (fun x => { x with s := [(8, w.setWidth 32), (9, (w >>> 32).setWidth 32), (11, 0x10000), (16, 0x4000)] })
def um : MForm := { mf with d := .v 4, a := .s 8 }
def uc : CForm := { cf with d := .v 4, a := .s 8, b := .v 12, ty := 1 }
/-- The places of a word are found without a fault. -/
def placed (at_ : Places) (c : Ctx) : Bool := (at_ c).2.2.isNone
/-- They are, and a release in the word's operation meets no fault. -/
def queued (at_ : Places) (op : Ctx → List Piece → Op) (c : Ctx) : Bool :=
  (at_ c).2.2.isNone && ((at_ c).1.releaseFault c.blk.core c.id).isNone && !(at_ c).1.queuedFault c.g c.w.win &&
    (op c (at_ c).2.1).path != .m

theorem witness_LoadsAndStores :
    (∃ c, Issues (shLdg um) noRow7 mprobe wid c ∧ placed (placesM um .generic .read) c = true) ∧
    (∃ c, Issues (shLds { um with a := .s 16 }) noRow7 mprobe wid c ∧ placed (placesM { um with a := .s 16 } .own .read) c = true) ∧
    (∃ c, Issues (shLds { um with a := .s 16 }) noRow7 mprobe wid c ∧
      placed (placesM { um with a := .s 16 } .cluster .read) c = true) ∧
    (∃ c, Issues (shStg { um with ord := 2, scp := 1 }) noRow7 mprobe wid c ∧
      queued (placesM { um with ord := 2, scp := 1 } .generic .write) (storeOp { um with ord := 2, scp := 1 } .w true) c = true) ∧
    (∃ c, Issues (shSts { um with a := .s 16 }) noRow7 mprobe wid c ∧
      queued (placesM { um with a := .s 16 } .own .write) (storeOp { um with a := .s 16 } .s false) c = true) ∧
    (∃ c, Issues (shSts { um with a := .s 16 }) noRow7 mprobe wid c ∧
      queued (placesM { um with a := .s 16 } .cluster .write) (storeOp { um with a := .s 16 } .s false) c = true) ∧
    (∃ c, Issues (shSldg { um with d := .s 4 }) noRow7 mprobe wid c ∧
      (c.anylive && placed (placesS { um with d := .s 4 } .read) c && decide ((placesS { um with d := .s 4 } .read c).2.1 ≠ [])) = true) ∧
    (∃ c, Issues (shSstg { um with d := .s 4 }) noRow7 mprobe wid c ∧
      (c.anylive && placed (placesS { um with d := .s 4 } .write) c) = true) ∧
    (∀ sh ∈ [shSldg { um with d := .s 4 }, shSstg { um with d := .s 4 }], ∃ c, Issues sh noRow7
      (probe (fun x => { x with nest := BitVec.allOnes 128 })) wid c) :=
  ⟨issues_of (by decide +kernel), issues_of (by decide +kernel), issues_of (by decide +kernel), issues_of (by decide +kernel),
    issues_of (by decide +kernel), issues_of (by decide +kernel), issues_of (by decide +kernel), issues_of (by decide +kernel),
    all_issue (by decide +kernel)⟩

theorem witness_LineAndStreamAccess :
    (∃ c, Issues (shLdmx { um with wid := 1 }) noRow7 mprobe wid c ∧ placed (placesX { um with wid := 1 } .read) c = true) ∧
    (∃ c, Issues (shStmx { um with wid := 1 }) noRow7 mprobe wid c ∧ placed (placesX { um with wid := 1 } .write) c = true) ∧
    (∃ c, Issues (shCmpst { um with d := .s 4, b := .v 12 }) noRow7 mprobe wid c ∧
      placed (placesC { um with d := .s 4, b := .v 12 } .write
        (fun c => c.mAddr { { um with d := .s 4, b := .v 12 } with b := .none } 0)) c = true) ∧
    (∃ c, Issues (shExpld um) noRow7 mprobe wid c ∧ placed (placesC um .read (fun c => c.mAddr um 0)) c = true) ∧
    (∃ c, Issues (shPref { um with d := .none, wid := 0 }) noRow7 mprobe wid c ∧ true = true) :=
  ⟨issues_of (by decide +kernel), issues_of (by decide +kernel), issues_of (by decide +kernel), issues_of (by decide +kernel),
    issues_of (p := fun _ => true) (by decide +kernel)⟩

theorem witness_AtomicsAndReductions :
    (∃ c, Issues (shAtom uc) noRow7 mprobe wid c ∧ placed (fun c => c.atomPlaces uc) c = true) ∧
    (∃ c, Issues (shAcas { uc with ty := 13 }) noRow7 mprobe wid c ∧ placed (fun c => c.atomPlaces { uc with ty := 13 }) c = true) ∧
    (∃ c, Issues (shRed { uc with d := .none }) noRow7 mprobe wid c ∧ placed (fun c => c.atomPlaces { uc with d := .none }) c = true) ∧
    (∃ c, Issues (shRflush (jf 0)) noRow7 (probe id) wid c ∧ c.w.redd.isEmpty = true) ∧
    (∃ c, Issues (shRflush (jf 0)) noRow7 (probe (fun x => { x with redd := [⟨0, .n32, 0, 1⟩] })) wid c ∧
      (!c.w.redd.isEmpty) = true) :=
  ⟨issues_of (by decide +kernel), issues_of (by decide +kernel), issues_of (by decide +kernel), issues_of (by decide +kernel),
    issues_of (by decide +kernel)⟩

/-- S16 is an address of the heap, with the reduction buffer of the probed kernel. -/
def heapProbe : State :=
  { probe (fun x => { x with s := [(16, 0x4000)] }) with
    ctxs := { cvalid := true, hrd := true, hwr := true, hlim := 0x10000 } :: List.replicate 15 {} }

theorem witness_Redd :
    ∃ c, Issues (shRedd { uc with d := .none, a := .s 16 }) noRow7 heapProbe wid c ∧
      (decide (Rec.nredd c.g.record ≠ 0) && (match c.atomPlaces { uc with d := .none, a := .s 16 } with
        | (_, ps, none) => ps.all (fun p => !reddRefused p.loc) && !ps.isEmpty
        | _ => false)) = true :=
  issues_of (by decide +kernel)

/-- What `mayRelease` says, decided. -/
def mayReleaseB (c : Ctx) (scp : Nat) (fx all : Bool) : Bool :=
  c.w.win.performed OpKind.isLsu && (scp == 0 && !fx ||
    (let s0 := if 3 ≤ scp then c.s.reddDrain c.id else c.s
     !c.s.releaseLocked c.blk.core c.id && (s0.releaseFault c.blk.core c.id).isNone &&
     (decide (scp < 3) || s0.noSpills c.id && !(s0.releaseWb c.blk.core c.id).ownUnheard c.die &&
       (s0.releaseWb c.blk.core c.id).settled c.die all)))

theorem mayRelease_of {c : Ctx} {scp : Nat} {fx all : Bool} (h : mayReleaseB c scp fx all = true) :
    mayRelease c scp fx all := by
  simp only [mayReleaseB, Bool.and_eq_true, Bool.or_eq_true, beq_iff_eq, Bool.not_eq_true', Option.isNone_iff_eq_none,
    decide_eq_true_eq] at h
  refine ⟨h.1, fun hne => ?_⟩
  rcases h.2 with ⟨h0, hf⟩ | ⟨⟨h1, h2⟩, h3⟩
  · rcases hne with hne | hne
    · exact absurd h0 hne
    · rw [hf] at hne
      cases hne
  · refine ⟨h1, h2, fun h4 => ?_⟩
    obtain ⟨⟨ha, hb⟩, hc⟩ := h3.resolve_left (by omega)
    exact ⟨ha, hb, hc⟩

/-- S10:S11 holds an address that no context translates; an odd scratchpad address is misaligned. -/
theorem witness_MemoryFaults :
    (∃ c, Issues (shLdg { um with a := .s 10 }) noRow7 mprobe wid c ∧
      ((placesM { um with a := .s 10 } .generic .read c).2.2.isSome) = true) ∧
    (∃ c, Issues (shSts { um with a := .s 16, ofs := 1 }) noRow7 mprobe wid c ∧
      ((placesM { um with a := .s 16, ofs := 1 } .own .write c).2.2.isSome) = true) ∧
    (∃ c, Issues (shAtom { uc with a := .s 10 }) noRow7 mprobe wid c ∧
      ((c.atomPlaces { uc with a := .s 10 }).2.2.isSome) = true) ∧
    (∃ c, Issues (shSldg { um with d := .s 4, a := .s 10 }) noRow7 mprobe wid c ∧
      (c.anylive && (placesS { um with d := .s 4, a := .s 10 } .read c).2.2.isSome) = true) ∧
    (∃ c, Issues (shLdmx { um with ofs := 64 }) noRow7 mprobe wid c ∧
      ((placesX { um with ofs := 64 } .read c).2.2.isSome) = true) ∧
    (∃ c, Issues (shFifopop { um with a := .imm 7 }) noRow7 mprobe wid c ∧
      decide (Rec.nfifo c.g.record ≤ c.uni32 (.imm 7) % 8) = true) :=
  ⟨issues_of (by decide +kernel), issues_of (by decide +kernel), issues_of (by decide +kernel), issues_of (by decide +kernel),
    issues_of (by decide +kernel), issues_of (by decide +kernel)⟩

theorem witness_FencesAndCounters :
    (∃ c, Issues (shFence (jf 0x08)) noRow7 (probe id) wid c ∧ c.w.win.performed OpKind.reads = true) ∧
    (∃ c, Issues (shFence (jf 0x90)) noRow7 (probe id) wid c ∧ mayReleaseB c 4 false true = true) ∧
    (∃ c, Issues (shFence (jf 0x70)) noRow7 (probe id) wid c ∧ mayReleaseB c 3 false false = true) ∧
    (∃ c, Issues (shFence (jf 0x10)) noRow7 (probe id) wid c ∧ mayReleaseB c 0 false false = true) ∧
    (∃ c, Issues (shFence (jf 0x10)) noRow7
        (probe (fun x => { x with win := { ops := [{ num := 0, path := .w, pc := 0, kind := .store [] }] } })) wid c ∧
      (!c.w.win.performed OpKind.isLsu) = true) ∧
    (∃ c, Issues (shFencex (jf 0x406)) noRow7 (probe id) wid c ∧ c.s.settled c.die true = true) ∧
    (∃ c, Issues (shFencex (jf 0x403)) noRow7 (probe id) wid c ∧ mayReleaseB c 4 true true = true) ∧
    (∀ sh ∈ [shWaitc { rf with a := .imm 2, sub := 1 }, shRdcnt { rf with d := .s 4, sub := 7 }, shRdcnt { rf with d := .s 4 }],
      ∃ c, Issues sh noRow7 (probe id) wid c) :=
  ⟨issues_of (by decide +kernel), issues_of (by decide +kernel), issues_of (by decide +kernel), issues_of (by decide +kernel),
    issues_of (by decide +kernel), issues_of (by decide +kernel), issues_of (by decide +kernel), all_issue (by decide +kernel)⟩

theorem witness_AccumulatorRows :
    ∀ sh ∈ [shAccrd { rf with d := .v 4, a := .a 3, b := .imm 31 }, shAccwr { rf with d := .a 3, a := .imm 31, b := .v 4, opx := 1 },
      shQnta { rf with d := .v 4, a := .a 3, b := .imm 31, sub := 5 }], ∃ c, Issues sh noRow7 (probe id) wid c :=
  all_issue (by decide +kernel)

theorem witness_EngineKicks :
    (∃ c, Issues (shCpyk { rf with d := .s 4, a := .imm 0 }) noRow7 (probe id) wid c ∧
      (c.anylive && (c.offCheck 0 64 64).isNone) = true) ∧
    (∃ c, Issues (shGsk { rf with d := .s 4, a := .imm 1 }) noRow7 (probe id) wid c ∧
      (c.anylive && (c.offCheck 1 64 64).isSome) = true) ∧
    (∃ c, Issues (shColk { rf with d := .s 4, a := .s 8 }) noRow7 mprobe wid c ∧
      (c.anylive && ((alignCheck (c.uni64 (.s 8)) 256).or (c.rbkCheck (c.uni64 (.s 8)))).isNone) = true) ∧
    (∃ c, Issues (shRkput { rf with d := .s 4, a := .s 8, b := .imm 32 }) noRow7 mprobe wid c ∧
      (c.anylive && (c.rookCheck { rf with d := .s 4, a := .s 8, b := .imm 32 }).isNone) = true) ∧
    (∃ c, Issues (shLaunch { rf with d := .s 4, a := .s 8, b := .imm 63 }) noRow7 mprobe wid c ∧
      (c.anylive && decide (c.uni32 (.imm 63) < 64) &&
        ((alignCheck (c.uni64 (.s 8)) 128).or (c.rbkCheck (c.uni64 (.s 8)))).isNone) = true) ∧
    (∃ c, Issues (shLaunch { rf with d := .s 4, a := .s 8, b := .imm 64 }) noRow7 mprobe wid c ∧
      decide (64 ≤ c.uni32 (.imm 64)) = true) ∧
    (∃ c, Issues (shCpyk { rf with d := .s 4, a := .imm 0 }) noRow7 (probe (fun x => { x with nest := BitVec.allOnes 128 })) wid c ∧
      (!c.anylive) = true) :=
  ⟨issues_of (by decide +kernel), issues_of (by decide +kernel), issues_of (by decide +kernel), issues_of (by decide +kernel),
    issues_of (by decide +kernel), issues_of (by decide +kernel), issues_of (by decide +kernel)⟩

/-- An address in no page: `MIGH` finds no leaf; a tier beyond 2. -/
theorem witness_MigrationHint :
    (∃ c, Issues (shMigh { rf with a := .s 8, b := .imm 3 }) noRow7 (probe id) wid c ∧ decide (2 < c.uni32 (.imm 3)) = true) ∧
    (∃ c, Issues (shMigh { rf with a := .s 8, b := .imm 2 }) noRow7 mprobe wid c ∧
      decide (c.s.route c.g.ctx (c.uni64 (.s 8)) .read ≠ .tables) = true) :=
  ⟨issues_of (by decide +kernel), issues_of (by decide +kernel)⟩

theorem witness_FifoBanks :
    (∃ c, Issues (shFifopop { um with a := .imm 0 }) noRow7
        { probe id with grids := [{ probeGrid with record := probeRecord ||| BitVec.ofNat 1024 (2 ^ 60) }] } wid c ∧
      (c.anylive && decide (c.uni32 (.imm 0) % 8 < Rec.nfifo c.g.record)) = true) :=
  issues_of (by decide +kernel)

/-- `Placed` and `offFits`, decided. -/
def placedB (c : Ctx) : Bool := decide (c.blk.bars.length = 16 ∧ c.g.dbars.length = 4 ∧ c.blk.portion < 4)
def offB (c : SCtx) (a : DWord) (al n : Nat) : Bool := decide (a.toNat % al = 0 ∧ a.toNat < 2 ^ 19 ∧ a.toNat + n ≤ c.sb)

/-- Two warps, so that one arrival does not complete a phase, and the same in a cooperative grid. -/
def bprobe (bar : NBar) : State :=
  { probe id with
    grids := [{ probeGrid with dbars := List.replicate 4 {} }],
    blocks := [{ probeBlock 0 with warps := [probeWarp 0, probeWarp 0], bars := List.replicate 16 bar }] }
def coopGrid : Grid := { probeGrid with record := probeRecord ||| 8, dbars := List.replicate 4 { exp := 2 }, cbars := [(0, { exp := 2 })] }
def cprobe (f : Warp → Warp) : State := { probe f with grids := [coopGrid] }

/-- Barrier 15 is the greatest, and an arrival with `.xp` finds nothing outstanding. -/
theorem witness_BarrierArrivals :
    (∃ c, Issues (shBar { rf with a := .imm 15, opx := 1 }) noRow7 (bprobe { exp := 2 }) wid c ∧
      (placedB c && decide (c.uni32 (.imm 15) < c.nbar) && !bit (c.blk.bar 15).amask wid.warp &&
        mayReleaseB c 0 true true) = true) ∧
    (∃ c, Issues (shCbara { rf with opx := 1 }) noRow7 (probe id) wid c ∧ (!c.w.cArr && mayReleaseB c 1 true true) = true) ∧
    (∃ c, Issues (shCbara { rf with opx := 1 }) noRow7 (cprobe id) wid c ∧
      (!c.w.dArr && Rec.coop c.g.record && placedB c && mayReleaseB c 2 true true) = true) :=
  ⟨issues_of (by decide +kernel), issues_of (by decide +kernel), issues_of (by decide +kernel)⟩

theorem witness_BarrierWaits :
    (∃ c, Issues (shBar { rf with a := .imm 0 }) noRow7 (bprobe { exp := 2 }) wid c ∧
      (placedB c && decide (c.uni32 (.imm 0) < c.nbar) && !bit (c.blk.bar 0).amask wid.warp && !(c.blk.bar 0).fallen) = true) ∧
    (∃ c, Issues (shBarw { rf with a := .imm 15, b := .imm 1 }) noRow7 (probe id) wid c ∧
      (decide (c.uni32 (.imm 15) < c.nbar) && ((c.blk.bar 15).phase != uniParity c (.imm 1))) = true) ∧
    (∃ c, Issues (shBarw { rf with a := .imm 15, b := .imm 0 }) noRow7 (probe id) wid c ∧
      (decide (c.uni32 (.imm 15) < c.nbar) && ((c.blk.bar 15).phase == uniParity c (.imm 0)) && !(c.blk.bar 15).fallen) = true) ∧
    (∃ c, Issues (shCbarw { rf with a := .imm 1 }) noRow7 (cprobe id) wid c ∧
      (((c.g.cbar (clusterOf c.g wid.block)).phase != uniParity c (.imm 1)) && Rec.coop c.g.record &&
        ((c.g.dbar c.blk.portion).phase != uniParity c (.imm 1))) = true) ∧
    (∃ c, Issues (shBowait { rf with a := .imm 3, b := .imm 1 }) noRow7 (probe id) wid c ∧
      (decide (c.uni32 (.imm 3) < Rec.nbobj c.g.record) && c.w.win.performed (OpKind.onObj 3) &&
        (c.blk.obj 3).passes (uniParity c (.imm 1))) = true) ∧
    (∃ c, Issues (shBowait { rf with a := .imm 3, b := .imm 0 }) noRow7
        { probe id with blocks := [(probeBlock 0).sput 48 (objInit 1).toBytes] } wid c ∧
      (decide (c.uni32 (.imm 3) < Rec.nbobj c.g.record) && c.w.win.performed (OpKind.onObj 3) &&
        !(c.blk.obj 3).passes (uniParity c (.imm 0))) = true) :=
  ⟨issues_of (by decide +kernel), issues_of (by decide +kernel), issues_of (by decide +kernel), issues_of (by decide +kernel),
    issues_of (by decide +kernel), issues_of (by decide +kernel)⟩

theorem witness_BarrierObjects :
    (∃ c, Issues (shBoinit { rf with a := .imm 3, b := .s 8 }) noRow7 (probe (fun x => { x with s := [(8, 1023)] })) wid c ∧
      (decide (c.uni32 (.imm 3) < Rec.nbobj c.g.record) && decide (1 ≤ c.uni32 (.s 8)) && decide (c.uni32 (.s 8) ≤ 1023)) = true) ∧
    (∃ c, Issues (shBoarv { rf with a := .imm 3 }) noRow7 (probe id) wid c ∧ decide (c.uni32 (.imm 3) < Rec.nbobj c.g.record) = true) ∧
    (objInit 1).valid = true ∧ (objInit 1).bytes = 0 ∧ (objInit 1).arr ≠ (objInit 1).expa :=
  ⟨issues_of (by decide +kernel), issues_of (by decide +kernel), by decide +kernel⟩

theorem witness_BarrierTraps :
    (∃ c, Issues (shBar { rf with a := .imm 16 }) noRow7 (probe id) wid c ∧ decide (c.nbar ≤ c.uni32 (.imm 16)) = true) ∧
    (∃ c, Issues (shBarw { rf with a := .imm 16, b := .imm 0 }) noRow7 (probe id) wid c ∧ decide (c.nbar ≤ c.uni32 (.imm 16)) = true) ∧
    (∀ sh ∈ [shCbara rf, shCbarw { rf with a := .imm 0 }], ∃ c, Issues sh noRow7 (probe id) wid c) ∧
    Rec.coop probeGrid.record = false ∧
    (∃ c, Issues (shBoinit { rf with a := .imm 4, b := .imm 1 }) noRow7 (probe id) wid c ∧
      decide (Rec.nbobj c.g.record ≤ c.uni32 (.imm 4)) = true) ∧
    (∃ c, Issues (shBoinit { rf with a := .imm 3, b := .imm 0 }) noRow7 (probe id) wid c ∧
      (decide (c.uni32 (.imm 3) < Rec.nbobj c.g.record) && decide (c.uni32 (.imm 0) = 0)) = true) ∧
    (∃ c, Issues (shBoarv { rf with a := .imm 4 }) noRow7 (probe id) wid c ∧ decide (Rec.nbobj c.g.record ≤ c.uni32 (.imm 4)) = true) ∧
    (∃ c, Issues (shBowait { rf with a := .imm 4, b := .imm 0 }) noRow7 (probe id) wid c ∧
      decide (Rec.nbobj c.g.record ≤ c.uni32 (.imm 4)) = true) :=
  ⟨issues_of (by decide +kernel), issues_of (by decide +kernel), all_issue (by decide +kernel), by decide +kernel,
    issues_of (by decide +kernel), issues_of (by decide +kernel), issues_of (by decide +kernel), issues_of (by decide +kernel)⟩

/-! ### Witnesses: the matrix stream -/

/-- The probed block's stream holds the turn; `f` is applied to the block. -/
def sprobe (f : Block → Block) : State := { probe id with cur := some (.seq bid), blocks := [f (probeBlock 0)] }
def mm : RForm := { rf with d := .a 0, a := .m 1, b := .m 2, c := .imm 1, ty := .f32 }

theorem witness_MatrixMultiply :
    (∃ c, SIssues (shMma mm) (sprobe id) bid c ∧
      (decide ((descOf (c.val mm.a)).rsv = false ∧ (descOf (c.val mm.b)).rsv = false ∧ c.cnt mm.c = 1 ∧
        0 + ((descOf (c.val mm.a)).nt + 1) * ((descOf (c.val mm.b)).nt + 1) ≤ Rec.nacc c.g.record ∧
        (descOf (c.val mm.a)).misaligned 0 true = false ∧ (descOf (c.val mm.b)).misaligned 0 true = false) &&
       ((descOf (c.val mm.a)).beyond 0 1 c.sb (descOf (c.val mm.a)).rows).isNone &&
       ((descOf (c.val mm.b)).beyond 0 1 c.sb (descOf (c.val mm.b)).rows).isNone && !c.locked (mulTiles c mm) true) = true) ∧
    (∃ c, SIssues (shMmag { mm with c := .m 3 }) (sprobe (fun b => { b with m := [(3, 0x100000000)] })) bid c ∧
      (let x := (c.val (.m 3)).toNat
       decide ((descOf (c.val mm.a)).nt = 0 ∧ (descOf (c.val mm.a)).rsv = false ∧ (descOf (c.val mm.b)).rsv = false ∧
         0 + ((descOf (c.val mm.b)).nt + 1) ≤ Rec.nacc c.g.record ∧ (descOf (c.val mm.a)).misaligned 0 false = false ∧
         (descOf (c.val mm.b)).misaligned 0 true = false ∧
         ((descOf (c.val mm.b)).beyond 0 1 c.sb (descOf (c.val mm.b)).rows).isNone = true) &&
       decide (field x 19 13 = 0 ∧ field x 37 27 = 0 ∧ field x 0 19 % 64 = 0 ∧ field x 0 19 + 64 ≤ c.sb ∧ field x 32 5 = 1) &&
       (List.range 32).all (fun i => field (c.blk.snat (32 + i) 1) 5 2 == 0) &&
       ((descOf (c.val mm.a)).beyond 0 1 c.sb ((gatherRows c.blk 0).map (fun p => (0, p.1)))).isNone &&
       !c.locked (mulTiles c mm) true) = true) ∧
    (∃ c, SIssues (shMma mm) (sprobe (fun b => { b with seq := b.seq.map (fun q =>
        { q with busy := [{ tile := 0, byMma := false, doneAt := none, op := 0 }] }) })) bid c ∧ c.locked (mulTiles c mm) true = true) :=
  ⟨sIssues_of (by decide +kernel), sIssues_of (by decide +kernel), sIssues_of (by decide +kernel)⟩

def sc : CForm := { cf with d := .a 63, a := .m 1, wid := 0 }

theorem witness_TileTransfers :
    (∃ c, SIssues (shAzero { rf with d := .a 0, a := .m 5 }) (sprobe (fun b => { b with m := [(5, 64)] })) bid c ∧
      decide (c.cnt (.m 5) = 64 ∧ 0 + c.cnt (.m 5) ≤ Rec.nacc c.g.record ∧ c.locked (tilesFrom 0 (c.cnt (.m 5))) false = false) = true) ∧
    (∃ c, SIssues (shAlds { sc with ty := 8, sub := 1 }) (sprobe id) bid c ∧
      (offB c (c.off { sc with ty := 8, sub := 1 }) 128 (tileBytes 8) && !c.locked [63] false) = true) ∧
    (∃ c, SIssues (shAsts { sc with ty := 0xB }) (sprobe (fun b => { b with m := [(1, 128)] })) bid c ∧
      (offB c (c.off { sc with ty := 0xB }) 128 (tileBytes 0xB) && !c.locked [63] false &&
        decide (16 * Rec.nbobj c.g.record ≤ (c.off { sc with ty := 0xB }).toNat)) = true) ∧
    (∃ c, SIssues (shMlds { sc with d := .m 3, wid := 3 }) (sprobe (fun b => { b with m := [(1, 32760)] })) bid c ∧
      offB c (c.off { sc with d := .m 3, wid := 3 }) 8 8 = true) ∧
    (∃ c, SIssues (shAstq { sc with sub := 4, ty := 1 }) (sprobe id) bid c ∧
      (decide ((c.off { sc with sub := 4, ty := 1 }).toNat % blockBytes .e2m1 = 0 ∧ c.locked [63] false = false) &&
        decide ((c.s.core c.blk.core).park + 32 * blockBytes .e2m1 ≤ 65536)) = true) ∧
    (∃ c, SIssues (shMlds { sc with d := .m 3, wid := 3 }) (sprobe (fun b => { b with m := [(1, 32768)] })) bid c ∧
      decide ((c.off { sc with d := .m 3, wid := 3 }).toNat % 8 = 0 ∧ c.sb < (c.off { sc with d := .m 3, wid := 3 }).toNat + 8) = true) ∧
    (∃ c, SIssues (shMlds { sc with d := .m 3, wid := 3 }) (sprobe (fun b => { b with m := [(1, 1)] })) bid c ∧
      decide ((c.off { sc with d := .m 3, wid := 3 }).toNat % 8 ≠ 0) = true) :=
  ⟨sIssues_of (by decide +kernel), sIssues_of (by decide +kernel), sIssues_of (by decide +kernel), sIssues_of (by decide +kernel),
    sIssues_of (by decide +kernel), sIssues_of (by decide +kernel), sIssues_of (by decide +kernel)⟩

theorem witness_StreamControl :
    (∀ sh ∈ [shMmov { rf with d := .m 1, a := .m 2 }, shMadd { rf with d := .m 1, a := .m 2, b := .imm 63, opx := 15 },
      shMloop { jf 3 with d := .m 1, a := .imm 0 }, shMnext { jf 0xFFFFFFFF with d := .m 1 }, shMbra { jf 3 with a := .m 1 }, shMbra (jf 3),
      shMwaitc { rf with a := .imm 0, sub := 4 }, shMend (jf 0)], ∃ c, SIssues sh (sprobe (fun b => { b with seq := b.seq.map (fun q =>
        { q with pc := 12 }) })) bid c) ∧
    (∃ c, SIssues (shMcpyk { rf with a := .imm 0 }) (sprobe id) bid c ∧ offB c (BitVec.ofNat 64 (c.cnt (.imm 0))) 64 64 = true) ∧
    (∃ c, SIssues (shMfencex (jf 0x406)) (sprobe id) bid c ∧
      (!c.writing && c.q.win.performed OpKind.isMma && c.s.settled (dieOfCore c.blk.core) true) = true) ∧
    (∃ c, SIssues (shMfencex (jf 0x403)) (sprobe id) bid c ∧
      (!c.writing && c.q.win.performed OpKind.isMma && (c.s.passedSects c.blk.core c.id).all (fun p => !c.s.locked p.1 &&
          (match (c.s.core c.blk.core).l1? p.1 with
            | some l => !c.s.wbWaits l p.2
            | none => true)) &&
        ((c.s.passedWb c.blk.core c.id).passedSects c.blk.core c.id).isEmpty &&
        (c.s.passedWb c.blk.core c.id).settled (dieOfCore c.blk.core) true) = true) :=
  ⟨all_sIssue (by decide +kernel), sIssues_of (by decide +kernel), sIssues_of (by decide +kernel), sIssues_of (by decide +kernel)⟩

def sbars (bar : NBar) : State := sprobe (fun b => { b with bars := List.replicate 16 bar })

theorem witness_StreamBarriers :
    (∃ c, SIssues (shMbara { rf with a := .imm 15, opx := 1 }) (sbars { exp := 2, seqp := true }) bid c ∧
      decide (c.blk.bars.length = 16 ∧ c.cnt (.imm 15) < Rec.nbar c.g.record ∧ (c.blk.bar 15).seqp = true ∧
        (c.blk.bar 15).seqa = false ∧ c.writing = false ∧ c.q.win.count .s = 0 ∧ c.q.win.count .w = 0) = true) ∧
    (∃ c, SIssues (shMbarw { rf with a := .imm 15, b := .imm 1 }) (sbars { exp := 2, seqp := true }) bid c ∧
      decide (c.cnt (.imm 15) < Rec.nbar c.g.record ∧ (c.blk.bar 15).seqp = true ∧ (c.blk.bar 15).phase ≠ (c.cnt (.imm 1) % 2 == 1)) = true) ∧
    (∃ c, SIssues (shMbarw { rf with a := .imm 15, b := .imm 2 }) (sbars { exp := 2, seqp := true }) bid c ∧
      decide ((c.blk.bar 15).seqp = true ∧ (c.blk.bar 15).phase = (c.cnt (.imm 2) % 2 == 1) ∧ (c.blk.bar 15).fallen = false) = true) ∧
    (∃ c, SIssues (shMbara { rf with a := .imm 16 }) (sprobe id) bid c ∧ decide (Rec.nbar c.g.record ≤ c.cnt (.imm 16)) = true) ∧
    (∃ c, SIssues (shMbara { rf with a := .imm 15 }) (sprobe id) bid c ∧
      decide (c.cnt (.imm 15) < Rec.nbar c.g.record ∧ (c.blk.bar (c.cnt (.imm 15))).seqp = false) = true) :=
  ⟨sIssues_of (by decide +kernel), sIssues_of (by decide +kernel), sIssues_of (by decide +kernel), sIssues_of (by decide +kernel),
    sIssues_of (by decide +kernel)⟩

/-! ### Witnesses: system words and traps -/

theorem witness_SpecialRegisters :
    (∀ sh ∈ [shSread { rf with d := .s 4, a := .sp 0x13 }, shSread { rf with d := .v 4, a := .sp 0 },
      shSwrite { rf with d := .sp 0x12, a := .s 8 }, shSwrite { rf with d := .sp 0x16, a := .imm 0 }],
      ∃ c, Issues sh noRow7 (probe id) wid c) ∧
    (∃ c, Issues (shSwrite { rf with d := .sp 0x10, a := .imm 0 }) noRow7 (probe id) wid c ∧ (c.anyActive && !c.fpHeld) = true) ∧
    (∃ c, Issues (shSwrite { rf with d := .sp 0x10, a := .imm 0 }) noRow7 (probe (fun x => { x with nest := BitVec.allOnes 128 })) wid c ∧
      (!c.anyActive && !c.fpHeld) = true) ∧
    (∃ c, Issues (shSread { rf with d := .s 4, a := .sp 0x10 }) noRow7 (probe (fun x => { x with fpClk := 9 })) wid c ∧
      c.fpHeld = true) :=
  ⟨all_issue (by decide +kernel), issues_of (by decide +kernel), issues_of (by decide +kernel), issues_of (by decide +kernel)⟩

theorem witness_SoftwareTraps :
    (∃ c, Issues (shTrap (i4 .none 0x55)) noRow7 (probe id) wid c ∧ (c.regwrite always != 0) = true) ∧
    (∃ c, Issues (shTrap { i4 .none 0x55 with g := ⟨false, 1⟩ }) noRow7 (probe id) wid c ∧ (c.regwrite ⟨false, 1⟩ == 0) = true) :=
  ⟨issues_of (by decide +kernel), issues_of (by decide +kernel)⟩

theorem witness_UnassignedOpcodes :
    (∃ b x, (probe id).warp? wid = some (b, x) ∧ (x.canIssue ((probe id).clkOf (dieOfCore b.core)) && !(probe id).stopDue wid x) = true) ∧
    ((sprobe id).seq? bid).any (fun p => p.2.canIssue ((sprobe id).clkOf (dieOfCore p.1.core))) = true :=
  ⟨warp_of (by decide +kernel), by decide +kernel⟩

/-- A kernel with a handler at slot 2 and its frames at the start of the heap, which context 0 lets it write. -/
def trapState (f : Warp → Warp) : State :=
  { probe f with
    grids := [{ probeGrid with record := probeRecord ||| BitVec.ofNat 1024 (2 ^ 87 + 2 ^ 145) }],
    ctxs := { cvalid := true, hrd := true, hwr := true, hlim := 0x10000 } :: List.replicate 15 {} }

theorem witness_TrapEntry :
    (∃ b x, (trapState id).warp? wid = some (b, x) ∧
      (!x.inTrap && ((trapState id).grid? wid.grid).any (fun g => Rec.trapv g.record &&
        (match (trapState id).frameLocs b g (frameAddr g.record wid) with
         | (_, .ok _) => true
         | _ => false))) = true) ∧
    Rec.trapv probeGrid.record = false ∧
    (∃ b x, (trapState (fun x => { x with inTrap := true })).warp? wid = some (b, x) ∧ x.inTrap = true) :=
  ⟨warp_of (by decide +kernel), by decide +kernel, warp_of (by decide +kernel)⟩

theorem witness_ReturnFromTrap :
    (∃ c, Issues (shRte (jf 0)) noRow7 (probe id) wid c ∧ (!c.w.inTrap) = true) ∧
    (∃ c, Issues (shRte (jf 0)) noRow7 (trapState (fun x => { x with inTrap := true, win := { ops :=
        [{ num := 0, path := .w, pc := 0, kind := .store [] }] } })) wid c ∧ (c.w.inTrap && decide (c.w.win.count .w ≠ 0)) = true) ∧
    (∃ c, Issues (shRte (jf 0)) noRow7
        { trapState (fun x => { x with inTrap := true, trappc := 24 }) with dies := List.replicate 4 { l2 := l2s 40 } } wid c ∧
      (c.w.inTrap && decide (c.w.win.count .w = 0 ∧ c.w.win.count .a = 0) &&
        (match c.readFrame with
         | .got _ fr false => legalPc (if bit fr 32 then nextPc c.w.trappc else c.w.trappc)
         | _ => false)) = true) :=
  ⟨issues_of (by decide +kernel), issues_of (by decide +kernel), issues_of (by decide +kernel)⟩

theorem witness_GeneratorAndClocks :
    (∃ c, Issues (shRng { rf with d := .v 4, ty := .f32 }) noRow7 (probe id) wid c ∧ (c.anylive && !c.chk) = true) ∧
    (∃ c, Issues (shCtrset { rf with a := .s 8, opx := 1 }) noRow7 (probe (fun x => { x with mode := 1 })) wid c ∧
      (c.anyActive && c.chk && !c.w.specUncovered .ctr) = true) ∧
    (∀ sh ∈ [shCtrget { rf with d := .s 4, sub := 1 }, shClock { rf with d := .s 4 }, shPmrd { rf with d := .s 4, a := .imm 5 }],
      ∃ c, Issues sh noRow7 (probe id) wid c) :=
  ⟨issues_of (by decide +kernel), issues_of (by decide +kernel), all_issue (by decide +kernel)⟩


theorem witness_FormsComplete :
    (∀ sh ∈ [shVdot4 { uv with c := .v 16, ty := .s8 }, shQnt { uv with b := .none }, shMxpk { uv with b := .e 12 }, shMxup { uv with b := .none },
      shMxcvt { uv with b := .none, opx := 4 }, shClock { rf with d := .s 4 }, shPmrd { rf with d := .s 4, a := .imm 5 }],
      ∃ c, Issues sh noRow7 (probe id) wid c) ∧
    (∃ c, Issues (shBoinit { rf with a := .imm 3, b := .s 8 }) noRow7 (probe (fun x => { x with s := [(8, 1023)] })) wid c ∧
      (decide (c.uni32 (.imm 3) < Rec.nbobj c.g.record) && decide (1 ≤ c.uni32 (.s 8)) && decide (c.uni32 (.s 8) ≤ 1023)) = true) ∧
    (∃ c, Issues (shBoarv { rf with a := .imm 3 }) noRow7 (probe id) wid c ∧ decide (c.uni32 (.imm 3) < Rec.nbobj c.g.record) = true) ∧
    (∃ c, Issues (shSread { rf with d := .s 4, a := .sp 0x10 }) noRow7 (probe (fun x => { x with mode := 1 })) wid c ∧
      (c.chk && !c.fpHeld && !c.w.specUncovered .fpst) = true) ∧
    (∃ c, Issues (shSwrite { rf with d := .sp 0x10, a := .imm 0 }) noRow7 (probe id) wid c ∧ (!c.fpHeld) = true) ∧
    (∃ c, Issues (shCtrget { rf with d := .s 4, sub := 1 }) noRow7 (probe (fun x => { x with mode := 1 })) wid c ∧
      (c.chk && !c.w.specUncovered .key) = true) ∧
    (∃ c, Issues (shCtrset { rf with a := .s 8, opx := 1 }) noRow7 (probe (fun x => { x with mode := 1 })) wid c ∧
      (c.chk && !c.w.specUncovered .ctr) = true) ∧
    (∃ c, Issues (shRng { rf with d := .v 4, ty := .f32 }) noRow7 (probe (fun x => { x with mode := 1 })) wid c ∧
      (c.chk && !c.w.specUncovered .key && !c.w.specUncovered .ctr) = true) :=
  ⟨all_issue (by decide +kernel), issues_of (by decide +kernel), issues_of (by decide +kernel), issues_of (by decide +kernel),
    issues_of (by decide +kernel), issues_of (by decide +kernel), issues_of (by decide +kernel), issues_of (by decide +kernel)⟩

/-! ### Witnesses: operations, boundaries, engines -/

def op0 (p : Path) (k : OpKind) : Op := { num := 0, path := p, pc := 0, kind := k }
def opState (o : Op) : State := probe (fun x => { x with win := { ops := [o], num := 1 } })
def opWarp (o : Op) : Warp := { probeWarp 0 with win := { ops := [o], num := 1 } }
/-- An operation on a block whose FIFO bank 0 holds `es`. -/
def fifoState (es : List VReg) (o : Op) : State :=
  { probe id with blocks := [{ probeBlock 0 with fifos := [es], warps := [opWarp o] }] }
/-- Operation 0 of the probed warp is due on a path, writes each register once, and satisfies `q`. -/
def dueB (s : State) (p : Path) (q : Block → Warp → Op → Bool) : Bool :=
  warpB s (fun b x => match x.win.ops[0]? with
    | some o => !o.done && !o.early && o.path == p && x.win.mayPerform o && o.clob.isEmpty && decide ((o.dst.map Prod.fst).Nodup) &&
        o.dst.all (fun p => p.1.ofWarp) && q b x o
    | none => false)

def sp0 : Piece := ⟨3, 0x4000, .scratch bid 0x4000⟩

theorem witness_OperationsPerformed :
    dueB (opState { op0 .g (.load [sp0] 4 7) with dst := vPend 8 7 1 }) .g (fun b _ o =>
      let s := opState { op0 .g (.load [sp0] 4 7) with dst := vPend 8 7 1 }
      o.kind.asks.all (s.askReady b.core o.scope (.op (.warp wid) o.num)) &&
      (s.readAsks b.core o.scope o.cp.toNat (some wid) (.op (.warp wid) o.num) o.kind.asks).2.all (fun g => !g.poi)) = true ∧
    dueB (opState (op0 .w (.store [⟨0x4000, .scratch bid 0x4000, 1, 1, 0, 0⟩]))) .w (fun b _ o =>
      let s := opState (op0 .w (.store [⟨0x4000, .scratch bid 0x4000, 1, 1, 0, 0⟩]))
      !o.releases && s.putReady b.core o.scope (.op (.warp wid) o.num) ⟨0x4000, .scratch bid 0x4000, 1, 1, 0, 0⟩) = true ∧
    dueB (opState { op0 .a (.atom [⟨sp0, 5, 0⟩] 0 .n32 false (some 9)) with dst := vPend 8 9 1 }) .a (fun _ _ o =>
      !o.releases && ((opState (op0 .a .rflush)).block? bid).isSome && ((opState (op0 .a .rflush)).outOf (.op (.warp wid) 0)).isEmpty) = true ∧
    [op0 .s (.boarv 3 7), op0 .s (.boexp 3 7)].all (fun o => dueB (opState o) .s (fun _ _ o => o.dst.isEmpty)) = true ∧
    dueB (fifoState [7, 8] { op0 .s (.fifoPop 0 9 1) with dst := vPend 1 9 1 }) .s (fun b _ _ => b.fifo 0 == [7, 8]) = true ∧
    dueB (fifoState (List.replicate 255 7) (op0 .s (.fifoPush 0 9))) .s (fun b _ _ =>
      decide ((b.fifo 0).length < 256 ∧ 0 < b.fifos.length)) = true ∧
    dueB (opState (op0 .s (.boinit 3 1023))) .s (fun _ _ o => o.dst.isEmpty) = true ∧
    dueB (opState (op0 .s (.fifoPop 0 9 1))) .s (fun b _ _ => (b.fifo 0).isEmpty) = true ∧
    dueB (opState { op0 .m (.accrd 3 31 9 1) with dst := vPend 1 9 1 }) .m (fun _ x o =>
      x.win.ops.find? (fun o => o.path == .m && !o.done) == some o) = true ∧
    dueB { opState (op0 .s (.fifoPop 0 9 1)) with clks := [1000000, 0, 0, 0] } .s (fun b x o =>
      decide (o.clk + Rec.tb probeGrid.record ≤ ({ opState o with clks := [1000000, 0, 0, 0] } : State).clkOf (dieOfCore b.core)) &&
        !x.inTrap) = true := by
  decide +kernel

/-- Two operations of a path, the second performed: the counter falls only when the first is. -/
theorem witness_PathCountersFallInOrder :
    (retireGo [] [op0 .g .rflush, { op0 .g .rflush with num := 1, done := true }]).length = 2 ∧
    (retireGo [] [{ op0 .g .rflush with done := true }, { op0 .g .rflush with num := 1, done := true }]).length = 0 := by
  decide +kernel

theorem witness_WindowReads :
    (let wn : Win := { fly := [⟨.v 1, 1, 1, 0, 4, false, 0⟩], nominal := 4, num := 1 }
     wn.pendingBits (.v 1) = 0 ∧ wn.badRead (.v 1) = false) := by
  decide +kernel

theorem witness_InstructionBoundary :
    (let s : State := { probe id with
        ctxs := { cvalid := true, hex := true, hlim := 0x10000 } :: List.replicate 15 {}, dies := List.replicate 4 { l2 := l2s 1 } }
     (∃ b x, s.warp? wid = some (b, x) ∧ (x.canIssue (s.clkOf (dieOfCore b.core)) && x.frame.isEmpty && decide (s.route probeGrid.ctx x.pc .fetch = .heap 0) &&
       !s.locked 0 && (match s.pocRead? (dieOfCore b.core) 0 (BitVec.allOnes 128) false with
         | some (_, _, p) => !p
         | none => false)) = true)) ∧
    (∃ b x, (probe (fun x => { x with pend := [{ row1 := false, info := { cause := .fifoMisuse }, tpc := 0, fpc := 0 }] })).warp? wid =
        some (b, x) ∧ (x.trapDue 0 && x.due.isSome) = true) ∧
    (∃ b x, (probe (fun x => { x with susp := some ⟨.translation, 0, 0, 0, 0, none, none, true⟩ })).warp? wid = some (b, x) ∧
        (x.running && !x.held && x.susp.any (fun u => u.serviced)) = true) ∧
    (∃ k, (bprobe { exp := 2, arr := 1, torem := 0, begun := true }).block? bid = some k ∧
      decide (15 < k.bars.length ∧ (k.bar 15).begun = true ∧ (k.bar 15).torem = 0) = true) ∧
    (probe id).blocks.all (fun b => ((probe id).die (dieOfCore b.core)).clocked) = true ∧
    (∃ b x, (probe (fun x => { x with wait := some (.object 3 false 0) })).warp? wid = some (b, x) ∧
        (decide (x.wait = some (.object 3 false 0)) && !x.inTrap && !x.held) = true) :=
  ⟨warp_of (by decide +kernel), warp_of (by decide +kernel), warp_of (by decide +kernel), ⟨_, rfl, by decide +kernel⟩,
    by decide +kernel, warp_of (by decide +kernel)⟩

def runState : State :=
  sprobe (fun b => { b with seq := b.seq.map (fun q =>
    { q with run := some ⟨false, 0, 0, 0, 0, 1, [], 0, 1, 1, 0, 0, 1, 0, 0⟩ }) })

theorem witness_EnginesAndArray :
    (∃ b x, (opState { op0 .c (.kick (.refused 0x22) (some (.s 4))) with dst := sPend 4 1 }).warp? wid = some (b, x) ∧
      decide ((opState { op0 .c (.kick (.refused 0x22) (some (.s 4))) with dst := sPend 4 1 }).firstOp (.warp wid) .c =
        some { op0 .c (.kick (.refused 0x22) (some (.s 4))) with dst := sPend 4 1 }) = true) ∧
    (∃ b x, (opState { op0 .f (.kick (.refused 0x06) (some (.s 4))) with dst := sPend 4 1 }).warp? wid = some (b, x) ∧
      decide ((opState { op0 .f (.kick (.refused 0x06) (some (.s 4))) with dst := sPend 4 1 }).firstOp (.warp wid) .f =
        some { op0 .f (.kick (.refused 0x06) (some (.s 4))) with dst := sPend 4 1 }) = true) ∧
    ((runState.seq? runState.on.block).any (fun p => p.2.run.isSome && !p.2.stopped && (runState.die (dieOfCore p.1.core)).clocked &&
      decide (runState.clkOf (dieOfCore p.1.core) % 4 = p.1.slot) &&
      (p.2.run.any (fun r => decide (r.ready ≤ runState.clkOf (dieOfCore p.1.core)))) && !p.2.ending)) = true ∧
    (let s : State := { grids := [{ probeGrid with endedBlocks := [0] }] }
     ((s.grid? 0).any (fun g => s.blocksGone g && !g.recover)) = true) ∧
    (Staged.before ⟨0, 0, .n32, 0, 0, 0, 0, 0, 0, 1⟩ ⟨0, 0, .n32, 0, 0, 0, 0, 0, 1, 1⟩ = true ∧
      Staged.before ⟨0, 0, .n32, 0, 0, 0, 0, 0, 1, 1⟩ ⟨0, 0, .n32, 0, 0, 0, 0, 0, 2, 1⟩ = true) :=
  ⟨warp_of (by decide +kernel), warp_of (by decide +kernel), by decide +kernel, by decide +kernel, by decide +kernel⟩

/-! ### Witnesses: the fault queue, queues and grids, pre-emption -/

def rec0 : FaultRec :=
  { kind := 1, cause := 1, detail := 0, grid := 0, block := 0, warp := 0, core := 0, engine := 0, pc := 0, addr := 0, acc := 0,
    waiter := .warp wid }
/-- A written record 7 that the suspended probe warp waits on. -/
def waitState : State :=
  { probe (fun x => { x with susp := some ⟨.translation, 0, 0, 0, 0, none, none, false⟩ }) with
    fq := { fqlog := 4, ansseq := 7, waiting := [(7, rec0)] } }

theorem witness_FaultQueue :
    (let s : State := { fq := { fqbase := 0x1000, fqlog := 4, fqtail := 0xFFFFFFFF, fqhead := 0xFFFFFFFF, pending := [rec0] } }
     s.fq.hasRoom = true ∧ (s.fq.fqbase.toNat + 64 * (s.fq.fqtail.toNat % 2 ^ s.fq.fqlog.toNat)) % 64 = 0 ∧ s.lost 47 = false ∧ s.msgs = []) ∧
    (let s : State := { fq := { fqlog := 4, fqtail := 16, pending := [rec0] } }
     s.fq.pending ≠ [] ∧ s.fq.hasRoom = false) ∧
    (waitState.fq.waiting.find? (fun p => p.1 == waitState.fq.ansseq) = some (7, rec0)) ∧
    warpB waitState (fun _ x => x.susp.any (fun u => u.release.isNone && u.at_.isNone)) = true ∧
    (({} : State).fq.waiting.find? (fun p => p.1 == ({} : State).fq.ansseq) = none) ∧
    (({} : State).fq.flush = none) ∧
    (let s : State := { fq := { flush := some ⟨1, none, [], 0⟩ } }
     s.flushHeld ⟨1, none, [], 0⟩ = false) ∧
    (let s : State := { opState (op0 .g (.load [] 4 0)) with fq := { flush := some ⟨1, none, [(.warp wid, 0)], 0⟩ } }
     s.flushHeld ⟨1, none, [(.warp wid, 0)], 0⟩ = true) := by
  decide +kernel

def onq (s : State) (n : Nat) : State := { s with on := { n := n } }

/-- A queue whose head slot holds a legal record, with its kernel in a heap whose lines are at hand. -/
def launchState : State := {
  cores := (List.range 192).map Core.reset
  queues := { qbase := 0x1000, cbase := 0x2000, qlog := 1, tail := 1, qstate := 1,
              snoop := probeRecord ||| BitVec.ofNat 1024 (0xF <<< 16) } :: List.replicate 63 {}
  ctxs := { cvalid := true, hrd := true, hex := true, hlim := 0x10000 } :: List.replicate 15 {}
  dies := List.replicate 4 { l2 := l2s 64 } }

def isGo : Launching → Bool
  | .go _ => true
  | _ => false
def isRefuse : Launching → Bool
  | .refuse _ _ => true
  | _ => false

theorem witness_GridLifecycle :
    (let s : State := { queues := { qbase := 0x1000, cbase := 0x2000, qlog := 1 } :: [] }
     (s.queue s.on.n).qstate = 0 ∧ (s.queue s.on.n).basesOk = true ∧ s.on.n < s.queues.length ∧ s.gridsOf s.on.n = []) ∧
    (let s : State := { queues := [{ qbase := 1 }] }
     (s.queue s.on.n).basesOk = false) ∧
    ((launchState.queue launchState.on.n).qstate ≠ 0 ∧ launchState.on.n < launchState.queues.length ∧
      launchState.gridsOf launchState.on.n = []) ∧
    (isGo (launchState.launching 0) = true ∧ launchState.nextLaunch = some launchState.on.n) ∧
    (let s : State := { launchState with queues := [{ qbase := 0x1000, cbase := 0x2000, qlog := 1, tail := 1, qstate := 1, snoop := 1 }] }
     isRefuse (s.launching 0) = true) ∧
    (let g : Grid := { probeGrid with nextBlock := 0, record := probeRecord ||| BitVec.ofNat 1024 (0xF <<< 16) }
     let s : State := { launchState with grids := [g] }
     (s.grid? s.on.w.grid = some g ∧ s.free? g = true ∧
      s.grids.any (fun x => s.before x g && s.free? x && (s.placeNext x).isSome) = false ∧ (s.placeNext g).isSome = true)) ∧
    warpB (probe (fun x => { x with terminated := true })) (fun _ x => x.terminated && x.win.ops.isEmpty && x.spills.isEmpty) = true ∧
    (let s : State := { probe id with
        blocks := [{ probeBlock 0 with warps := [{ probeWarp 0 with terminated := true, freed := true }], seq := none }] }
     ((s.block? s.on.block).any (fun b => s.blockEnds b)) = true) ∧
    (let s : State := { grids := [{ probeGrid with endedBlocks := [0] }] }
     ((s.grid? s.on.w.grid).any (fun g => s.blocksGone g && !g.recover && s.gridIdle g.id && (s.orderedOf g.id).isEmpty && !s.msgsOf g.id)) =
       true) ∧
    (({} : State).grid? ({} : State).front.cmdgrid = none) ∧ ((probe id).grid? (probe id).front.cmdgrid).isSome = true := by
  refine ⟨?_, ?_, ?_, ?_, ?_, ?_, ?_, ?_, ?_, ?_, ?_⟩
  all_goals decide +kernel


/-- The grid of the probed block is being saved to 0x1000. -/
def saveState (f : Warp → Warp) : State :=
  { probe f with front := { cmdcsa := 0x1000, cbusy := true, job := some { grid := 0, csa := 0x1000, startNs := 0, deadline := 0 } } }
/-- What a machine answers, when it goes on. -/
def goesOn (o : Host.Outcome State Fault Refusal) (p : State → Bool) : Bool :=
  match o with
  | .next t => p t
  | _ => false

theorem witness_Preemption :
    (let s : State := { probe id with front := { cmdcsa := 0x1000 } }
     s.front.cbusy = false ∧ csaOk s.front.cmdcsa = true ∧ (s.grid? s.front.cmdgrid).any (fun g => g.state != .saved) = true) ∧
    (saveState id).front.cbusy = true ∧
    (({} : State).front.cbusy = false ∧ ({} : State).grid? ({} : State).front.cmdgrid = none) ∧
    (csaOk 0x800 = false) ∧
    (let s : State := { front := { cmdcsa := 0x1000 }, grids := [{ probeGrid with state := .saved }] }
     (s.grid? s.front.cmdgrid).any (fun g => g.state == .saved) = true) ∧
    (let s := saveState id
     s.stopping s.on.w.grid = true ∧ warpB s (fun _ x => x.canStop && x.quiet) = true) ∧
    (let s := saveState (fun x => { x with wait := some (.numbered 0 false), win := { fly := [⟨.v 1, 1, 1, 0, 9, false, 0⟩] } })
     s.stopping s.on.w.grid = true ∧ warpB s (fun _ x => x.canStop && x.atOnce && !x.quiet) = true) ∧
    (let s := saveState (fun x => { x with sinceCmd := 64 })
     s.stopping s.on.w.grid = true ∧ warpB s (fun _ x => x.canStop && decide (64 ≤ x.sinceCmd)) = true) ∧
    (let s := saveState (fun x => { x with sinceCmd := 63 })
     s.front.rstate ≠ 2 ∧ warpB s (fun _ x => decide (x.sinceCmd < 64)) = true) ∧
    (let s := saveState id
     (s.seq? s.on.block).any (fun p => p.2.run.isNone && p.2.win.quiet && !p.2.held) = true) ∧
    (let s : State := { saveState id with
        blocks := [{ probeBlock 0 with warps := [{ probeWarp 0 with held := true }],
                                       seq := some { pc := 0, held := true } }] }
     s.readyToSave 0 = true ∧ s.savesHeld = false ∧ s.stopping 0 = true ∧ (s.settleGrid 0).readyToSave 0 = true ∧
       (s.block? s.on.block).any (fun b => s.front.job.any (fun j => !s.rangeBusy (s.recordAt j probeGrid b) (wholeSize probeRecord) &&
         inHbmRange ((s.settleGrid 0).recordAt j probeGrid b) (wholeSize probeRecord))) = true ∧
       (s.settleGrid 0).msgs = []) ∧
    (let s : State := { saveState id with blocks := [] }
     s.front.job.any (fun j => !j.failed && !s.rangeBusy j.csa.toNat (blkOff (clustersOf probeGrid (j.blocks.getD [])).length) &&
       inHbmRange (j.csa.toNat + 0x100) 0) = true ∧ s.blocks.any (fun b => b.id.grid == 0) = false ∧ s.savesHeld = false) ∧
    (1 ≤ Rec.clus probeRecord ∧ (probeBlock 0).warps[0]? = some (probeWarp 0) ∧ (∀ y ∈ (probeBlock 0).warps, y.stack.length ≤ 16)) := by
  refine ⟨?_, ?_, ?_, ?_, ?_, ?_, ?_, ?_, ?_, ?_, ?_, ?_, ?_⟩
  all_goals decide +kernel

/-- A saved grid without blocks whose area is at 0x1000, with a restore of it begun. -/
def restoreOf (s : State) (granted : Bool) (m : List Host.Cell) : State :=
  { s with mem := m, front := { cmdcsa := 0x1000, restore := some { grid := 0, csa := 0x1000, granted := granted } } }

/-- The save area that the completion of a save without blocks leaves passes every check of a restore. -/
theorem witness_RestoreAndRetraining :
    goesOn (exec .saveComplete { saveState id with blocks := [] }) (fun t =>
      let s := restoreOf t false t.mem
      !t.front.cbusy && csaOk t.front.cmdcsa && (s.grid? s.on.w.grid).any (fun g => g.state == .saved && g.id == 0 &&
        !s.rangeBusy 0x1000 (areaSize g) && (s.areaAt 0x1000 (areaSize g)).check g == 0 &&
        (s.restoreBlocks g ((s.areaAt 0x1000 (areaSize g)).records g) []).any (fun u => u.msgs.isEmpty))) = true ∧
    (let s := restoreOf { grids := [{ probeGrid with state := .saved }] } false []
     (s.grid? s.on.w.grid).any (fun g => !s.rangeBusy 0x1000 (areaSize g) && (s.areaAt 0x1000 (areaSize g)).check g != 0) = true) ∧
    (let s := restoreOf { grids := [{ probeGrid with state := .saved }], blocks := [{ probeBlock 0 with frozen := true }],
                          queues := [{}] } true []
     (s.grid? s.on.w.grid).any (fun g => g.id == 0) = true ∧ (∀ b ∈ s.blocks, b.id.grid = 0 ∧ b.frozen = true)) ∧
    ({ front := { cmdcsa := 0x1000, cbusy := true } } : State).front.cbusy = true ∧
    (let s : State := { front := { rstack := 9, rrate := 3 } }
     s.front.rstate ≠ 1 ∧ s.front.rstate ≠ 2 ∧ s.front.rstack.toNat < 10 ∧ s.front.rrate.toNat < 4) ∧
    (let s : State := { front := { rstack := 10 } }
     10 ≤ s.front.rstack.toNat) ∧
    (let s : State := { front := { rstate := 2, rhold := some (3, 1, 5) }, now := 38005 }
     s.front.rhold = some (3, 1, 5) ∧ s.front.rstate = 2 ∧ 5 + 38000 ≤ s.now) := by
  refine ⟨?_, ?_, ?_, ?_, ?_, ?_, ?_⟩
  all_goals decide +kernel

/-- Core 1, bank 15. -/
def bankState (f : Core → Core) : State :=
  { cores := [Core.reset 0, f (Core.reset 1)], on := { n := 1, m := 15 } }

theorem witness_BankCommands :
    (let s := bankState (fun k => { k with busy := true })
     s.on.n < s.cores.length ∧ (s.core s.on.n).busy = true) ∧
    (let s := bankState (fun k => { k with modes := List.replicate 16 .fifo })
     s.on.n < s.cores.length ∧ s.on.m < 16 ∧ (s.core s.on.n).busy = false ∧ (s.core s.on.n).isOwned s.on.m = false ∧
      (s.core s.on.n).modeOf s.on.m = .fifo) ∧
    (let s := bankState id
     s.on.n < s.cores.length ∧ s.on.m < 16 ∧ (s.core s.on.n).busy = false ∧ (s.core s.on.n).isOwned s.on.m = false ∧
      (s.core s.on.n).modeOf s.on.m = .cache) ∧
    (let s := bankState (fun k => { k with owned := 0x8000 })
     (s.core s.on.n).busy = false ∧ (s.core s.on.n).isOwned s.on.m = true) ∧
    (let s := { bankState (fun k => { k with leaving := some ⟨15, .off, 4⟩ }) with clks := [5, 0, 0, 0] }
     s.on.n < s.cores.length ∧ (s.core s.on.n).leaving = some ⟨15, .off, 4⟩ ∧ 15 < (s.core s.on.n).modes.length ∧
      4 < s.clkOf (dieOfCore s.on.n) ∧ (s.core s.on.n).l1 = []) ∧
    (let s := bankState (fun k => { k with leaving := some ⟨15, .off, 0⟩ })
     (s.core s.on.n).leaving = some ⟨15, .off, 0⟩ ∧ s.clkOf (dieOfCore s.on.n) ≤ 0) := by
  decide +kernel

/-- A message of die 0 to die 1 about a line, and a state with it. -/
def msg0 (line : Nat) (stamp : Nat) (data : Bool) : Msg :=
  { src := 0, dst := 1, stamp := [BitVec.ofNat 48 stamp, 0, 0, 0], line := line, grid := none,
    put := if data then some (7, 1, 0, 0) else none }
def msgState (m : Msg) : State := { msgs := [m] }

/-- Line 2 has die 1 as its home, which takes the data; line 0 has not. -/
theorem witness_LinesAndHost :
    (homeDie 0 = 0 ∧ (List.range 64).any (fun l => homeDie l == 1) = true) ∧
    (∃ l, l < 64 ∧ homeDie l = 1 ∧
      (let m := msg0 l 1 true
       let s := msgState m
       s.msgs[s.on.n]? = some m ∧ m.dst < s.dies.length ∧ m.src < (s.die m.dst).vclk.length ∧ s.copyLocked m.line = false ∧
       s.parked? m.line = false ∧ stampAt (s.clockOf m.dst) m.src = stampAt m.stamp m.src - 1 ∧
       (∀ k, k < 4 → k ≠ m.src → cntLe (stampAt m.stamp k) (stampAt (s.clockOf m.dst) k) = true) ∧
       (s.applyMsg m).isSome = true ∧ m.put = some (7, 1, 0, 0) ∧ s.poisoned m.line = false ∧ m.grid = none)) ∧
    (let m := msg0 0 1 false
     let s := msgState m
     s.msgs[s.on.n]? = some m ∧ homeDie m.line ≠ m.dst ∧ m.put = none ∧
     stampAt (s.clockOf m.dst) m.src = stampAt m.stamp m.src - 1) ∧
    (let m := msg0 0 2 false
     let s := msgState m
     s.msgs[s.on.n]? = some m ∧ stampAt (s.clockOf m.dst) m.src ≠ stampAt m.stamp m.src - 1) ∧
    (let s : State := { fetches := [{ die := 1, line := 0, got := some (5, 0, [0, 0, 0, 0]) }] }
     (s.fetches[s.on.n]?).any (fun f => (f.got.any (fun g => reached (s.die f.die).vclk g.2.2)) && decide (f.die < s.dies.length)) = true ∧
     s.cores = []) ∧
    (let s : State := { fetches := [{ die := 1, line := 0 }], dies := [{ l2 := l2s 1 }, {}, {}, {}] }
     (s.fetches[s.on.n]?).any (fun f => f.got.isNone && !s.lost f.line && s.homeServes f) = true) ∧
    (let s : State := { dies := [{ fills := [(0, 1, 0)] }, {}, {}, {}] }
     (s.die 0).fills.find? (fun f => f.1 == 0) = some (0, 1, 0) ∧ 0 < s.dies.length ∧ s.parked? 0 = false ∧
       ((s.currentLine 0).bind s.channelOf).all (fun c => !s.channelHeld c) = true ∧ s.castle.moves = [] ∧ homeDie 0 ≠ 4 ∧
       s.cores = []) ∧
    ((tierOf (128 * 0)).isSome = true ∧ ({} : State).locked 0 = false ∧ ({} : State).parked? 0 = false ∧ ({} : State).hub.bootst ≠ 4 ∧
      ({} : State).hostCache.find? (fun p => p.1 == 0) = none ∧ ({} : State).atPeer 0 = false ∧ homed 0 = true) ∧
    (({ hostCache := [(0, 5)] } : State).hostCache.find? (fun p => p.1 == 0) = some (0, 5)) ∧
    (({ hub := { bootst := 4 } } : State).hub.bootst = 4) ∧
    tierOf (128 * 0x7FFFFFFFFF) = none := by
  refine ⟨?_, ?_, ?_, ?_, ?_, ?_, ?_, ?_, ?_, ?_, ?_⟩
  all_goals decide +kernel

theorem witness_MemoryBytes :
    (100 % 128 + (List.replicate 28 (0 : Byte)).length ≤ 128 ∧ ({} : State).lost 0 = false ∧ ({} : State).poisoned 0 = false ∧
      ({} : State).castle.moves = [] ∧ ({} : State).msgs = []) ∧
    (({ poison := [5] } : State).poisoned 5 = true ∧ ({ poison := [5] } : State).lost 5 = false ∧
      ({ poison := [5] } : State).poison.contains 5 = true ∧ (1 : BitVec 128) ≠ BitVec.allOnes 128) ∧
    (let s : State := { dies := [{}, { copies := [⟨0, 1, 1, 0, 0⟩] }, {}, {}] }
     homeDie 0 ≠ 1 ∧ homeDie 0 ≠ 4 ∧ 1 < s.dies.length ∧ ((s.die 1).copy? 0).isSome = true) := by
  decide +kernel

/-- A move record at 0 for the 64-KiB page at 0x20000, whose leaf entry is at 0x1000, with destination 0x30000. -/
def moveMem : List Host.Cell := [(9, 0x10), (0x12, 3), (0x1000, 3), (0x1002, 2)]
/-- A move of that page, with its record at 0. -/
def move64 : Move :=
  { rec_ := 0, size := 65536, ptea := 0x1000, oldpte := 0x20003, newpte := 0x30003, src := .mem 0x20000, dst := .mem 0x30000 }
def moving (m : Move) : State := { castle := { moves := [m] }, cores := [Core.reset 0] }

theorem witness_CastleCommands :
    (let s : State := { castle := { celog := 1, cetail := 2, events := [{ kind := 1 }] } }
     s.castle.ringHeld = true) ∧
    (({} : State).castle.ringHeld = false ∧ (moving move64).castle.ringHeld = false) ∧
    (let s : State := { castle := { moves := List.replicate 16 move64 } }
     16 ≤ s.castle.moves.length ∧ s.castle.ringHeld = false) ∧
    (let s : State := { castle := { csrec := 1 } }
     s.castle.moves.length < 16 ∧ s.castle.recOk = false) ∧
    (let s := moving move64
     s.castle.moves.length < 16 ∧ s.castle.recOk = true ∧ (s.move? s.castle.csrec.toNat).isSome = true) ∧
    (let s : State := { mem := moveMem }
     s.castle.moves.length < 16 ∧ s.castle.recOk = true ∧ s.move? s.castle.csrec.toNat = none ∧
     field (s.readNat 0 256) 2 2 ≠ 3 ∧ (∀ p ∈ moveReserved, field (s.readNat 0 256) p.1 p.2 = 0) ∧
     field (s.readNat 0 256) 64 47 = 0x1000 ∧ (tierOf 0x1000).isSome = true ∧ s.poisoned (0x1000 / 128) = false ∧
     s.leafOk (s.readNat 0x1000 8) 65536 = true ∧
     s.pageLoc (pteKind (s.readNat 0x1000 8) == 1) (ptePeer (s.readNat 0x1000 8)) (pteAddr (s.readNat 0x1000 8)) = .mem 0x20000 ∧
     s.pageLoc (pteBit (s.readNat 0 256) 4) (field (s.readNat 0 256) 192 10) (field (s.readNat 0 256) 128 47) = .mem 0x30000 ∧
     destOk (.mem 0x20000) (.mem 0x30000) 65536 = true ∧ destOk (.mem 0x20000) (.mem 0x20000) 65536 = false) ∧
    (let s : State := { mem := [(0, 12)] }
     field (s.readNat 0 256) 2 2 = 3) ∧
    (({} : State).leafOk (({} : State).readNat 0 8) 65536 = false) ∧
    (let s := moving { move64 with leafHit := true }
     s.castle.recOk = true ∧ s.castle.moves.findIdx? (fun m => m.rec_ == s.castle.csrec.toNat) = some 0 ∧
     s.castle.moves[0]? = some { move64 with leafHit := true } ∧ move64.phase = .copying ∧ move64.leafHit = false ∧ 512 * (move64.chunk + 1) ≤ move64.lines ∧
     move64.src = .mem 0x20000) ∧
    (({} : State).castle.recOk = true ∧ (∀ m ∈ ({} : State).castle.moves, m.rec_ ≠ 0)) := by
  refine ⟨?_, ?_, ?_, ?_, ?_, ?_, ?_, ?_, ?_, ?_⟩
  all_goals decide +kernel

theorem witness_CastleMoves :
    (let s := moving move64
     s.castle.moves[s.on.n]? = some move64 ∧ s.castle.ringHeld = false ∧ move64.allLocked = none ∧ move64.lock = none ∧
     move64.turnLine = some 0 ∧ s.lockable move64 0 = true) ∧
    (let m := { move64 with lock := some (511, 0), moved := BitVec.allOnes 512 >>> 1 }
     let s := moving m
     s.castle.moves[s.on.n]? = some m ∧ s.castle.ringHeld = false ∧ m.allLocked = none ∧ m.phase = .copying ∧
     m.rec_ % 256 = 0 ∧ m.rec_ / 128 ≠ 0x30000 / 128 + 511 ∧ s.lost (0x30000 / 128 + 511) = false ∧ 511 / 512 = m.chunk ∧
     511 < m.lines ∧ s.moveClk m < 0 + m.lmax ∧ m.src = .mem 0x20000 ∧ m.dst = .mem 0x30000 ∧ s.atPeer (0x20000 / 128 + 511) = false ∧
     (∀ n ∈ s.castle.moves, n.inKey (0x30000 / 128 + 511) = false) ∧ s.msgs = []) ∧
    (let m := { move64 with lock := some (0, 0) }
     m.lmax = 4096 ∧ 0 + m.lmax ≤ ({ clks := [4096, 0, 0, 0] } : State).moveClk m ∧
     ({ clks := [4095, 0, 0, 0] } : State).moveClk m < 0 + m.lmax) ∧
    (let m := { move64 with moved := BitVec.allOnes 512 }
     let s := moving m
     s.castle.moves[s.on.n]? = some m ∧ s.castle.ringHeld = false ∧ m.canComplete = true ∧ m.lock = none ∧
     m.allLocked = none ∧ m.src = .mem 0x20000) ∧
    (let m := { move64 with moved := BitVec.allOnes 512, allLocked := some 0 }
     let s := moving m
     s.castle.moves[s.on.n]? = some m ∧ s.castle.ringHeld = false ∧ m.canComplete = true ∧ m.lock = none ∧ m.phase = .copying ∧
     m.wb = [] ∧ s.l1Lines m = [] ∧ s.writesComing m = false ∧ m.ptea % 8 = 0 ∧ m.ptea / 128 ≠ m.rec_ / 128 ∧
     s.lost (m.ptea / 128) = false ∧ s.moveClk m < 0 + 16384 ∧ m.src = .mem 0x20000 ∧ m.dst = .mem 0x30000 ∧
     s.outOf (.castle m.rec_) = [] ∧ m.inKey (m.ptea / 128) = false ∧ m.inKey (m.rec_ / 128) = false ∧ s.msgs = []) ∧
    (({ clks := [16384, 0, 0, 0] } : State).moveClk move64 = 16384 ∧ ({ clks := [16383, 0, 0, 0] } : State).moveClk move64 < 16384) := by
  refine ⟨?_, ?_, ?_, ?_, ?_, ?_⟩
  all_goals decide +kernel

/-- A line is lost only when its die has failed. -/
theorem lost_of (s : State) (h : ∀ d, (s.die d).dieflt = false) : ∀ l, s.lost l = false := by
  intro l
  simp [State.lost, h]

theorem die_default (s : State) (h : s.dies = [{}, {}, {}, {}]) : ∀ d, (s.die d).dieflt = false := by
  intro d
  simp only [State.die, h]
  match d with
  | 0 | 1 | 2 | 3 => rfl
  | _ + 4 => rfl

def eventState : State :=
  { castle := { celog := 1, cebase := 0x1000, events := [{ kind := 1 }] } }
def ckState : State :=
  { castle := { ckdst0 := 0x400000000000, ckdst1 := 0x600000000000, ckbusy := true } }

theorem witness_EventsHotnessCheckpoint :
    (eventState.castle.events = [{ kind := 1 }] ∧ eventState.castle.cmds = [] ∧ eventState.msgs = [] ∧ eventState.castle.hasRoom = true ∧ eventState.castle.cebase.toNat % 32 = 0 ∧
      eventState.lost (0x1000 / 128) = false) ∧
    (let s : State := { castle := { celog := 1, cetail := 2, events := [{ kind := 5 }, { kind := 1 }] } }
     s.castle.hasRoom = false ∧ s.castle.cmds = [] ∧ ({ kind := 5 } : CastleEvent).isHint = true ∧ ({ kind := 1 } : CastleEvent).isHint = false) ∧
    (({} : State).castle.hotbase = 0 ∧ ({} : State).castle.ringHeld = false) ∧
    (let s : State := { castle := { hotbase := 0x1000, hot := [(3, 7)] } }
     s.castle.hotbase ≠ 0 ∧ s.castle.hotbase.toNat % 8 = 0 ∧ 3 ∈ s.hotKeys ∧ s.castle.ringHeld = false ∧ s.castle.moves = [] ∧ s.msgs = []) ∧
    (∀ l, ({ castle := { hotbase := 0x1000, hot := [(3, 7)] } } : State).lost l = false) ∧
    (ckState.castle.ckbusy = true ∧ ckState.castle.ringHeld = false ∧ ckState.castle.ckGroup < imageRuns ∧
      ckState.castle.moves = [] ∧ halfOk ckState.castle.ckdst0 0x400000000000 0x600000000000 = true ∧
      halfOk ckState.castle.ckdst1 0x600000000000 0x800000000000 = true) ∧
    (∀ l, ckState.lost l = false) ∧
    (({} : State).castle.ckbusy = false ∧ ({} : State).castle.ringHeld = false ∧ halfOk ({} : State).castle.ckdst0 0x400000000000 0x600000000000 = false) ∧
    (let s : State := { ckState with castle := { ckState.castle with ckbusy := false } }
     s.castle.ckbusy = false ∧ s.castle.ringHeld = false ∧ halfOk s.castle.ckdst1 0x600000000000 0x800000000000 = true ∧
     halfOk s.castle.ckdst0 0x400000000000 0x600000000000 = true) ∧
    (imageRuns ≤ ({ castle := { ckbusy := true, ckGroup := imageRuns } } : State).castle.ckGroup) := by
  refine ⟨?_, ?_, ?_, ?_, ?_, ?_, ?_, ?_, ?_, ?_⟩
  · decide +kernel
  · decide +kernel
  · decide +kernel
  · decide +kernel
  · exact lost_of _ (die_default _ rfl)
  · decide +kernel
  · exact lost_of _ (die_default _ rfl)
  · decide +kernel
  · decide +kernel
  · exact Nat.le_refl _

/-- Grid 0 in recovery, with one log entry at 0x100000 for line 0. -/
def recoverState : State :=
  { grids := [{ probeGrid with recover := true }],
    qctxs := { ulbase := 0x100000, ulsize := 4, ulused := 1, rbst := 2 } :: List.replicate 63 {} }

theorem witness_RollbackRecovers :
    (∃ g, recoverState.grid? recoverState.on.w.grid = some g ∧ g.recover = true ∧ gridQueue g.id < recoverState.qctxs.length ∧
      (recoverState.qctx (gridQueue g.id)).rbst ≠ 3 ∧ (∀ e ∈ recoverState.eng, e.block.grid ≠ g.id) ∧
      (∀ m ∈ recoverState.msgs, m.grid = some g.id → m.put = none) ∧
      (let q := recoverState.qctx (gridQueue g.id)
       let entry (n : Nat) : Nat := q.ulbase.toNat + 160 * n
       let lineAt (n : Nat) : Nat := recoverState.readNat (entry n) 8 % 2 ^ 47 / 128
       0 < q.ulused.toNat ∧ recoverState.castle.moves = [] ∧ recoverState.msgs = [] ∧
       (∀ l, l ∈ q.ulpois → 128 * l + 128 ≤ q.ulbase.toNat ∨ entry q.ulused.toNat ≤ 128 * l) ∧
       ∀ n, n < q.ulused.toNat → 128 * lineAt n + 128 ≤ q.ulbase.toNat ∨ entry q.ulused.toNat ≤ 128 * lineAt n)) ∧
    (∀ l, recoverState.lost l = false) ∧
    (let s := { recoverState with qctxs := { rbst := 3 } :: List.replicate 63 {} }
     ∃ g, s.grid? s.on.w.grid = some g ∧ g.recover = true ∧ gridQueue g.id < s.qctxs.length ∧
       (s.qctx (gridQueue g.id)).rbst = 3) := by
  refine ⟨⟨{ probeGrid with recover := true }, ?_⟩, lost_of _ (die_default _ rfl), ⟨{ probeGrid with recover := true }, ?_⟩⟩
  · decide +kernel
  · decide +kernel

/-! ### Witnesses: the fabric -/

/-- Stations 0 and 15 are up under an identifier, and `f` is applied to the fabric. -/
def fabState (f : Fabric → Fabric) : State := { fab := f { fvalid := true, stup := 0x8001 } }
def req0 (op : PeerOp) : PeerReq := { src := 3, die := 3, inc := 0, station := 15, id := 9, op := op }
def out0 : PeerOut := { id := 0, dev := 3, station := 0, die := 0, owner := .engine 5, op := .read 0 3 true, left := some 0 }

theorem witness_PeerRequests :
    ((fabState id).fab.fvalid = true ∧ ({} : State).fab.fvalid = false) ∧
    (let r := { req0 (.read 0 3 true) with station := 1 }
     bit (fabState id).fab.stup r.station.toNat = false) ∧
    (let r := { req0 (.read 0 3 true) with inc := 1 }
     bit (fabState id).fab.stup r.station.toNat = true ∧ (fabState id).staleInc r = true ∧ announces r = false) ∧
    (let s := fabState id
     let r := req0 (.read 0 3 true)
     s.fab.fvalid = true ∧ bit s.fab.stup r.station.toNat = true ∧ s.staleInc r = false ∧ (tierOf (128 * 0)).isSome = true ∧
     s.peerWaits 0 = false ∧ s.atPeer 0 = false ∧ (s.homeRead 0).2.2 = false ∧ s.lost 0 = false ∧ s.msgs = [] ∧
     (tierOf (128 * 0x7FFFFFFFFF)).isNone = true) ∧
    (let s := { fabState id with poison := [0] }
     s.staleInc (req0 (.read 0 3 true)) = false ∧ s.peerWaits 0 = false ∧ s.atPeer 0 = false ∧ (s.homeRead 0).2.2 = true) ∧
    ((fabState id).staleFrom 3 0 0 = false ∧ (fabState id).staleFrom 3 0 1 = true) ∧
    (let s := fabState (fun f => { f with rsv := [{ src := 3, station := 15, bytes := 1048576, start := 0 }] })
     s.fab.fvalid = true ∧ s.fab.rsv[s.on.n]? = some { src := 3, station := 15, bytes := 1048576, start := 0 } ∧
     s.fab.windowOf 19999 3 15 128 = some { src := 3, station := 15, bytes := 1048576, start := 0 } ∧
     s.fab.windowOf 20000 3 15 128 = s.fab.windowOf 0 3 15 128 ∧ s.gtime.toNat < 0 + 20000 + s.fab.treq.toNat ∧
     0 + 20000 + s.fab.treq.toNat ≤ ({ s with gtime := 2020000 } : State).gtime.toNat) ∧
    (let o := { out0 with left := none, drops := 1, window := some 1 }
     let s : State := { fabState (fun f => { f with out := [o], stations := List.replicate 16 { cur := some ⟨1, 2⟩ } }) with on := { m := 1 } }
     s.on.m = 1 ∧ s.fab.out.find? (fun o => o.id == s.on.n) = some o ∧ s.gtime.toNat < 1 ∧
     1 ≤ ({ s with gtime := 1 } : State).gtime.toNat ∧ s.fab.fences = [] ∧
     (let k := (s.fab.stations[s.stationOf o.line o.dev]?).getD {}
      k.lapsed = false ∧ (k.use s.now).2 = true)) ∧
    (∀ o ∈ (fabState id).fab.out, o.id = 5 → o.answer.isSome = true ∨ o.left = none) ∧
    (let s := fabState (fun f => { f with nextReq := 2, out := [out0, { out0 with id := 1 }] })
     s.fab.out.find? (fun q => q.id == out0.id && q.answer.isNone && q.left.isSome) = some out0 ∧ out0.drops < 15 ∧
     out0.id < s.fab.nextReq ∧ (∀ q ∈ s.fab.out, q.id = out0.id → q = out0)) ∧
    (∀ d k, out0.owner ≠ .reserve d k) ∧
    (let o := { out0 with drops := 15 }
     let s := fabState (fun f => { f with out := [o] })
     s.fab.out.find? (fun q => q.id == o.id && q.answer.isNone && q.left.isSome) = some o ∧ 15 ≤ o.drops) ∧
    (let s := { fabState (fun f => { f with out := [out0] }) with now := 2000000 }
     s.fab.out.find? (fun q => q.id == out0.id && q.answer.isNone) = some out0 ∧ out0.left = some 0 ∧ 0 + s.fab.treq.toNat ≤ s.now) ∧
    (let o := { out0 with left := none }
     let s := fabState (fun f => { f with out := [o] })
     s.fab.out.find? (fun q => q.id == o.id && q.answer.isNone) = some o) := by
  refine ⟨?_, ?_, ?_, ?_, ?_, ?_, ?_, ?_, ?_, ?_, ?_, ?_, ?_, ?_⟩
  case refine_11 => intro d k h; cases h
  all_goals decide +kernel

def key0 : Key := ⟨1, 2⟩
theorem witness_ResetsAndKeys :
    ((fabState id).fab.fvalid = true) ∧
    (let s := fabState (fun f => { f with rstpol := true, quiesce := some { die := 0, since := 0 } })
     s.fab.quiesce = some { die := 0, since := 0 } ∧ s.on.n < s.fab.inc.length ∧ s.fab.rstpol = true ∧
     s.now < 0 + 2 * s.fab.treq.toNat ∧ 0 + 2 * s.fab.treq.toNat ≤ ({ s with now := 4000000 } : State).now) ∧
    (({} : State).on.n < ({} : State).fab.inc.length ∧ ({} : State).fab.rstpol = false ∧
     ({ fab := { rstpol := true } } : State).fab.quiesce = none) ∧
    (heard (fabState id) ∧ (fabState (fun f => { f with flows := [(1023, {})] })).flowBusy 1023 = false) ∧
    (keyTarget 0x010 = none ∧ keyTarget 0x3FF = none ∧ keyTarget 0x00F = some (.station 15) ∧ keyTarget 0x7FF = some (.flow 0x3FF)) ∧
    (let s := fabState (fun f => { f with ktgt := 0, stations := List.replicate 16 { next := some key0 } })
     s.fab.ktgt.toNat = (0 : BitVec 4).toNat ∧ s.fab.stations[0]? = some { next := some key0 }) ∧
    (let s := fabState (fun f => { f with ktgt := 15, out := [out0] })
     s.fab.ktgt.toNat = (15 : BitVec 4).toNat ∧ s.fab.stations[15]? = some ({} : KeySlot) ∧ ({} : KeySlot).next = none ∧
     (∀ o ∈ s.fab.out, o.heldAt 15 = false) ∧ s.fab.heldReplies = []) ∧
    (let s := fabState (fun f => { f with ktgt := 0x7FF })
     s.fab.ktgt.toNat = 1024 + (0x3FF : BitVec 10).toNat ∧ (s.flow 0x3FF).keys.next = none) ∧
    (let k : KeySlot := { cur := some key0, ctr := 2 ^ 32 - 1, kx := some 0 }
     let s : State := { fabState (fun f => { f with stations := List.replicate 16 k, flows := [(1023, { keys := k })] }) with now := 100000000 }
     s.fab.stations[15]? = some k ∧ k.late s.now s.fab.kto.toNat = true ∧ s.fab.out = [] ∧ (s.flow 1023).keys.late s.now s.fab.kto.toNat = true ∧
     s.flowBusy 1023 = false) := by
  unfold heard
  refine ⟨?_, ?_, ?_, ?_, ?_, ?_, ?_, ?_, ?_⟩
  all_goals decide +kernel

/-- Quiescence that no acknowledgement has ended: one other device at least must answer. -/
theorem witness_notAcked (s : State) (q : Quiesce) (h : s.allAcked q = false) :
    ∃ d, d < 1024 ∧ d ≠ s.fab.fabid.toNat ∧ Config.joined d = true ∧ d ∉ q.acks := by
  simpa [State.allAcked, and_assoc] using h

/-- Flow 0 described at 0, enabled and keyed, with `g` applied to it. -/
def flowState (g : Flow → Flow) : State :=
  { fabState (fun f => { f with nflow := 1, flows := [(0, g { keys := { cur := some key0 } })] }) with mem := [(0, 4)] }

/-- A segment of flow 0, whose ports and addresses are all 0. -/
def seg0 : Segment :=
  { data := true, ksel := false, flow := 0, ctr := 0, seq := 0, ackb := 0, sack := 0, payload := [], tag := 0 }

/-- A segment as its sender tags it under `key0`. -/
def tagged : Segment := { seg0 with tag := Config.gcmTag key0.salt key0.key seg0.ctr (segBytes seg0) }

theorem tagged_authentic : segAuthentic tagged key0 = true := by
  have h : segBytes tagged = segBytes seg0 := rfl
  unfold segAuthentic
  rw [h]
  exact beq_self_eq_true _

theorem witness_WaiporFlows :
    (let s := flowState (fun w => { w with nextSeq := 0xFFFFFFFF, queue := [{ own := 2, src := .bytes [1, 2] }] })
     s.flowOpen 0 = true ∧ s.flowBusy 0 = false ∧ (s.flow 0).nextSeq = (0xFFFFFFFF : Word).toNat ∧
     (s.flow 0).queue = [{ own := 2, src := .bytes [1, 2] }] ∧ (s.segRead { own := 2, src := .bytes [1, 2] }).toOption = some [1, 2] ∧
     (∀ x ∈ (s.flow 0).sent, x.seq % 2 ^ 32 ≠ (0xFFFFFFFF : Word).toNat) ∧ (s.flow 0).sent.length < 32768 ∧
     ((s.flow 0).keys.use s.now).2 = true) ∧
    (let s := flowState (fun w => { w with sent := [{ seq := 7, at_ := 0, sends := 1, later := 2 }], rtos := 14 })
     s.flowOpen 0 = true ∧ s.flowBusy 0 = false ∧
     (s.flow 0).sent.find? (fun x => x.seq % 2 ^ 32 == (7 : Word).toNat) = some { seq := 7, at_ := 0, sends := 1, later := 2 } ∧
     (s.segRead ({ seq := 7, at_ := 0, sends := 1 } : SentSeg).data).toOption = some [] ∧
     (s.flow 0).held.contains 7 = false ∧ s.now < 0 + s.rto 0 ∧ 0 + s.rto 0 ≤ ({ s with now := 2500000 } : State).now ∧ (s.flow 0).rtos < 15 ∧
     ((s.flow 0).keys.use 2500000).2 = true) ∧
    (let s := flowState (fun w => { w with sent := [{ seq := 7, at_ := 0, sends := 1, later := 2 }], rtos := 15 })
     s.flowOpen 0 = true ∧ 15 ≤ (s.flow 0).rtos ∧ s.flowPa 0 % 64 = 0 ∧ s.msgs = [] ∧
     (∀ i, i < 64 → s.lost ((s.flowPa 0 + i) / 128) = false)) ∧
    (let s := fabState (fun f => { f with nflow := 1 })
     let t : State := { s with mem := [(0, 4)] }
     0 < t.fab.nflow.toNat ∧ (t.flowWord 0 0).testBit 2 = true ∧ (t.flow 0).keys.candidates false = [] ∧
     t.flowMatch 0 seg0 = true ∧ t.flowMatch 0 { seg0 with flow := 1 } = false ∧ t.flowBusy 0 = false ∧
     t.flowPa 0 % 64 = 0 ∧ t.msgs = [] ∧ (∀ i, i < 64 → t.lost ((t.flowPa 0 + i) / 128) = false)) ∧
    (let s := flowState (fun w => { w with sent := [{ seq := 7, at_ := 0, sends := 1, later := 3 }] })
     (s.flow 0).sent.find? (fun x => x.seq % 2 ^ 32 == (7 : Word).toNat) = some { seq := 7, at_ := 0, sends := 1, later := 3 } ∧
     s.flowOpen 0 = true ∧ ((s.flow 0).keys.use s.now).2 = true) ∧
    (let s := flowState (fun w => { w with ackb := 3, got := [5] })
     0 < s.fab.nflow.toNat ∧ (s.flowWord 0 0).testBit 2 = true ∧ s.flowMatch 0 seg0 = true ∧ s.flowBusy 0 = false ∧
     key0 ∈ (s.flow 0).keys.candidates seg0.ksel ∧ s.flowOpen 0 = true ∧ seg0.data = true ∧ ((s.flow 0).keys.use s.now).2 = true ∧
     nearSeq 3 (3 : Word).toNat = 3 ∧ 3 ∉ (s.flow 0).got ∧ 3 < nearSeq 3 (4 : Word).toNat ∧ nearSeq 3 (4 : Word).toNat ∉ (s.flow 0).got ∧
     nearSeq 3 (2 : Word).toNat < 3 ∧ nearSeq 3 (5 : Word).toNat ∈ (s.flow 0).got) ∧
    (({ ackb := 3, got := [5] } : Flow).ackb < 4 ∧ 4 ∉ ({ ackb := 3, got := [5] } : Flow).got ∧
      ({ ackb := 3, got := [5] } : Flow).ackb ∉ ({ ackb := 3, got := [5] } : Flow).got) := by
  refine ⟨?_, ?_, ?_, ?_, ?_, ?_, ?_⟩
  all_goals decide +kernel

/-- A flow with 32,768 segments out. -/
theorem witness_WaiporFull :
    (let s := flowState (fun w => { w with sent := List.replicate 32768 { seq := 7, at_ := 0, sends := 1 } })
     (∀ x ∈ (s.flow 0).sent, x.seq % 2 ^ 32 ≠ (8 : Word).toNat) ∧ 32768 ≤ (s.flow 0).sent.length) := by
  refine ⟨fun x h => ?_, ?_⟩
  · have : x ∈ List.replicate 32768 ({ seq := 7, at_ := 0, sends := 1 } : SentSeg) := h
    rw [List.eq_of_mem_replicate this]
    decide
  · exact Nat.le_of_eq (List.length_replicate ..).symm

/-! ### Witnesses: the Rook service -/

def region0 : RookRegion :=
  { rookid := 5, role := 1, cmask := 0x80000001, nblk := 1, base := 0x100000, swbase := 0x4000, pubbase := 0x8000, dlns := 100 }
/-- Region 0 active, with one block whose state word, at 0x4000, has the bytes `m`; `f` is applied to the fabric. -/
def rookState (m : List Host.Cell) (f : Fabric → Fabric) : State :=
  { fab := f { fvalid := true, regions := region0 :: List.replicate 15 {} }, mem := m,
    ctxs := { cvalid := true, hrd := true, hwr := true, hlim := 0x10000000 } :: List.replicate 15 {} }
/-- As `rookState`, with region 0 changed by `g`. -/
def rookWith (m : List Host.Cell) (g : RookRegion → RookRegion) (f : Fabric → Fabric) : State :=
  (rookState m f).setRegion 0 g
def rkB (s : State) (q : RkBlock → Bool) : Bool :=
  (s.rkBlock? s.on.n s.on.m).any q && decide (s.rkPa s.on.n ((s.region s.on.n).stateVa s.on.m) .write = some 0x4000) &&
    !s.lost 0x80 && s.msgs.isEmpty
theorem rk_of {s : State} {q : RkBlock → Bool} (h : rkB s q = true) : ∃ x, RkHas s s.on.n s.on.m 0x4000 x ∧ q x = true := by
  simp only [rkB, Bool.and_eq_true, Option.any_eq_true, decide_eq_true_eq, Bool.not_eq_true', List.isEmpty_iff] at h
  obtain ⟨⟨⟨⟨x, hx, hq⟩, hp⟩, hl⟩, hm⟩ := h
  exact ⟨x, ⟨hx, hp, rfl, hl, nothingComing_of hm⟩, hq⟩

/-- Block 0 of region 0 has nothing due and a state word of which `q` holds. -/
def rkQuiet (s : State) (q : RkBlock → Bool) : Bool :=
  rkB s (fun x => q x && (x.state != RkState.idle || (s.heldFor s.on.n s.on.m x.step).isEmpty) &&
    (x.state != RkState.gathering || x.dlx || x.dlt == 0 || decide (s.gtime.toNat < x.dlt)))
theorem rkq_of {s : State} {q : RkBlock → Bool} (h : rkQuiet s q = true) :
    ∃ x, RkHas s s.on.n s.on.m 0x4000 x ∧ quietBlock s s.on.n s.on.m x ∧ q x = true := by
  obtain ⟨x, hx, h⟩ := rk_of h
  simp only [Bool.and_eq_true, Bool.or_eq_true, bne_iff_ne, beq_iff_eq, List.isEmpty_iff, decide_eq_true_eq] at h
  obtain ⟨⟨hq, hi⟩, hg⟩ := h
  refine ⟨x, hx, ⟨fun e => hi.resolve_left (fun n => n e), fun e => ?_⟩, hq⟩
  rcases hg with ((hg | hg) | hg) | hg
  · exact absurd e hg
  · exact .inl hg
  · exact .inr (.inl hg)
  · exact .inr (.inr hg)

def putOp (step : BitVec 48) : RookOp := { rook := 5, blk := 0, step := step, src := .peer 3 9, lines := [7] }
def put0 : RookPut := { region := 0, blk := 0, step := 5, contrib := 31, src := .peer 3 9, lines := [7] }
/-- A put of this device's own warp. -/
def ownPut : RookOp := { rook := 5, blk := 0, step := 5, src := .own wid 0 }
def rookReq (op : PeerOp) : PeerReq := { src := 3, die := 3, inc := 0, station := 15, id := 9, op := op }
/-- A state word of step 5 in state `st`, with RBMP byte 3 and HBMP byte 3 as given. -/
def word5 (st rb hb : Byte) : List Host.Cell :=
  [(0x4000, 5)] ++ (if st = 0 then [] else [(0x4006, st)]) ++ (if rb = 0 then [] else [(0x400F, rb)]) ++
    (if hb = 0 then [] else [(0x4013, hb)])

/-- The cases of a put of contributor 31 at step 5, 4, 6 and 7 of a block of step 5. -/
theorem witness_RookPuts :
    (({} : State).rookNew (.peer 3 9) = false) ∧
    (let s := rookState [] (fun f => { f with rookOwn := [⟨wid, 0, false, none⟩] })
     s.rookNew ownPut.src = true ∧ s.rookHeld ownPut = false) ∧
    (let s := rookState [] (fun f => { f with stup := 0x8000 })
     let r := rookReq (.rookPut 5 0 5 31 [7])
     s.fab.fvalid = true ∧ bit s.fab.stup r.station.toNat = true ∧ s.staleInc r = false) ∧
    (let s := rookState [] id
     s.activeRegion (putOp 5).rook = some 0 ∧ (putOp 5).blk.toNat < (s.region 0).nblk.toNat ∧
     bit (s.region 0).cmask (31 : BitVec 5).toNat = true ∧ bit (s.region 0).cmask (30 : BitVec 5).toNat = false ∧
     s.activeRegion 6 = none ∧ (s.region 0).nblk.toNat ≤ 1) ∧
    (rkQuiet (rookState (word5 5 0 0) id) (fun x => x.state == RkState.failed) = true) ∧
    (rkQuiet (rookState (word5 1 0 0) id) (fun x => x.state == RkState.gathering && decide (4 < x.step) && decide (x.step + 1 < 7) &&
      x.step == 5 && !(x.rbmp.testBit 31) && !(x.hbmp.testBit 31)) = true) ∧
    (rkQuiet (rookState (word5 1 0x80 0x80) id) (fun x => x.state == RkState.gathering && x.step == 5 && x.rbmp.testBit 31 &&
      x.hbmp.testBit 31) = true) ∧
    (rkQuiet (rookState (word5 2 0 0) id) (fun x => x.state != RkState.failed && x.step == 5 && !(x.rbmp.testBit 31) &&
      decide (RkState.complete ≤ x.state)) = true) ∧
    (rkQuiet (rookState (word5 0 0 0) id) (fun x => x.state == RkState.idle && x.step == 5) = true) ∧
    ((rookState [] id).heldPuts < 1024) ∧
    (1024 ≤ (rookState [] (fun f => { f with puts := List.replicate 1024 { put0 with queued := true } })).heldPuts) := by
  refine ⟨?_, ?_, ?_, ?_, ?_, ?_, ?_, ?_, ?_, ?_, ?_⟩
  all_goals decide +kernel

/-- The read of the data of put 9 of peer 3, with its answer. -/
def dataOut (a : Option (PeerStatus × VReg × EReg)) : PeerOut :=
  { id := 0, dev := 3, station := 0, die := 0, owner := .rookPut 3 9, op := .read 7 3 false, left := some 0, answer := a }
/-- The put of contributor 31 being staged at a block in state `st` that expects `e` puts, its data answered with `a`. -/
def stageState (st e : Byte) (a : Option (PeerStatus × VReg × EReg)) : State :=
  { rookState [(0x4000, 5), (0x4006, st), (0x4008, e), (0x400F, 0x80)] (fun f => { f with puts := [put0], out := [dataOut a] }) with
    dies := [] }
/-- The state without the put that is staged. -/
def stagedState (s : State) : State :=
  (s.setFab (fun f => { f with puts := f.puts.filter (fun q => q != put0) })).dropReads put0.src
/-- Put `put0` is there to be staged at a block that nothing holds and at which nothing is due. -/
def stageB (s : State) (q : RkBlock → Bool) : Bool :=
  !s.rkBusy 0 0 && s.fab.puts.find? (fun p => p.region == 0 && p.blk == 0 && p.contrib == 31 && !p.held) == some put0 && rkQuiet s q
/-- The block after the put, its data written, has been counted. -/
def stagedB (s : State) (q : RkBlock → Bool) : Bool :=
  match s.putData put0, s.rkBlock? 0 0 with
  | .got ls, some x =>
    ((stagedState s).rkWrite 0 ((s.region 0).blockVa 0 + 66048 + 16384 * (s.region 0).slotOf 31) false (ls.map (fun v => (v, 0)))).any
      (fun s2 =>
        let s3 := s2.setRk 0 0 { x with recv := x.recv + 1 }
        ((s3.rookAnswer put0.src 0).rkBlock? 0 0).any q)
  | _, _ => false

theorem witness_RookStaging :
    (stageB (stageState 1 2 none) (fun x => x.state != RkState.failed && x.rbmp.testBit 31) = true ∧
      (stageState 1 2 none).outOfTurn put0 = false ∧ (stageState 1 2 none).putData put0 = .wait (stageState 1 2 none)) ∧
    (stageB (stageState 5 2 none) (fun x => x.state == RkState.failed) = true ∧ (stageState 5 2 none).outOfTurn put0 = false) ∧
    (let s : State := (stageState 1 2 none).setFab (fun f => { f with puts := [{ put0 with queued := true }, { put0 with contrib := 3, queued := true }] })
     s.fab.puts.find? (fun p => p.region == 0 && p.blk == 0 && p.contrib == 31 && !p.held) = some { put0 with queued := true } ∧
       s.outOfTurn { put0 with queued := true } = true) ∧
    (let s := stageState 1 2 (some (.error, 0, 0))
     stageB s (fun x => x.rbmp.testBit 31 &&
       ((((stagedState s).setRk 0 0 { x with rbmp := x.rbmp - 2 ^ 31 }).rookAnswer put0.src 0x30).rkBlock? 0 0).any (fun y =>
         y.recv != y.expect && !y.dlx)) = true ∧ s.putData put0 = .failed) ∧
    (stageB (stageState 1 2 (some (.ok, 6, 0))) (fun _ => true) = true ∧
      stagedB (stageState 1 2 (some (.ok, 6, 0))) (fun y => y.recv != y.expect && !y.dlx) = true) ∧
    (stageB (stageState 1 1 (some (.ok, 6, 0))) (fun _ => true) = true ∧
      stagedB (stageState 1 1 (some (.ok, 6, 0))) (fun y => y.state == RkState.gathering && y.recv == y.expect) = true) := by
  refine ⟨?_, ?_, ?_, ?_, ?_, ?_⟩
  all_goals decide +kernel

/-- A gathering block of step 5 whose deadline is 10, at time `now`. -/
def dueRook (now : DWord) (f : Fabric → Fabric) : State :=
  { rookState [(0x4000, 5), (0x4006, 1), (0x4018, 10)] f with gtime := now }
def mirrorOut (a : Option (PeerStatus × VReg × EReg)) : PeerOut :=
  { id := 0, dev := 3, station := 0, die := 0, owner := .mirror 0 0, op := .read 0 3 true, left := some 0, answer := a }
/-- The write of line 0 to subscriber 3, whose receive base is 0, with its answer. -/
def pubOut (a : PeerStatus) : PeerOut :=
  { id := 0, dev := 3, station := 0, die := 0, owner := .publish 0 0, op := .write 0 0 0 0 0 true, left := some 0, answer := some (a, 0, 0) }
/-- A published block of step 5 with one subscriber. -/
def subState (a : PeerStatus) : State :=
  rookWith (word5 4 0 0 ++ [(0x6000, 3)]) (fun r => { r with nsub := 1, subl := 0x6000 }) (fun f => { f with out := [pubOut a] })

theorem witness_RookBlocks :
    (let s := rookState (word5 0 0 0x80) (fun f => { f with puts := [{ put0 with held := true, queued := true }] })
     rkB s (fun x => x.state == RkState.idle && !(s.heldFor 0 0 x.step).isEmpty) = true ∧ s.rkBusy 0 0 = false) ∧
    (rkB (dueRook 10 id) (fun x => x.state == RkState.gathering && !x.dlx && decide (x.dlt ≠ 0 ∧ x.dlt ≤ (dueRook 10 id).gtime.toNat)) = true ∧
      (0 < (dueRook 10 id).fab.regions.length) ∧ ((dueRook 10 id).region 0).role = 1 ∧ ((dueRook 10 id).region 0).policy = 0 ∧
      (dueRook 10 id).staging 0 0 = [] ∧ (dueRook 10 (fun f => { f with puts := [put0] })).staging 0 0 ≠ [] ∧
      (dueRook 10 id).rkBusy 0 0 = false) ∧
    (rkQuiet (dueRook 9 id) (fun x => decide ((dueRook 9 id).gtime.toNat < x.dlt)) = true) ∧
    (let s := rookState [(0x4000, 5), (0x4006, 9)] id
     (s.region s.on.n).rblk ≠ 0xFFFFFFFF ∧ (s.region s.on.n).rblk.toNat < (s.region s.on.n).nblk.toNat ∧
     s.regionBusy 0 = false ∧ s.hub.bootst ≠ 4 ∧ (s.region 0).policy = 0 ∧ (s.region 0).role = 1 ∧ s.staging 0 0 = [] ∧
     rkQuiet s (fun x => x.state == RkState.gathering && x.dlx) = true) ∧
    (let s := rookState [(0x4000, 5), (0x4006, 9)] (fun f => { f with puts := [{ put0 with before := true }] })
     (∃ p ∈ s.staging 0 0, p.before = true) ∧ rkQuiet s (fun x => x.state == RkState.gathering && x.dlx) = true) ∧
    (let s := rookState (word5 2 0 0) (fun f => { f with ends := [⟨0, 0, 1, 0⟩], out := [{ mirrorOut none with owner := .template 0 0 }] })
     rkB s (fun x => x.state == RkState.complete) = true ∧ s.rkBusy 0 0 = false) ∧
    (let s := rookState (word5 3 0 0) (fun f => { f with ends := [⟨0, 0, 0, 0⟩] })
     s.fab.ends.find? (fun e => e.region == s.on.n && e.blk == s.on.m) = some ⟨0, 0, 0, 0⟩ ∧ s.rkBusy 0 0 = false ∧
     rkB s (fun x => x.state == RkState.updating && x.ugrid == 0 &&
       ((s.setRk 0 0 { x with ustat := 0, state := RkState.published, pstep := x.step }).rkLines 0 ((s.region 0).pubVa 0 x.step) 32).isSome) = true ∧
     (s.region 0).men = false ∧ (s.region 0).nsub = 0 ∧ (∀ g ∈ s.fab.gets, ¬(g.region = 0 ∧ g.blk = 0))) ∧
    (let s := rookState (word5 3 0 0) (fun f => { f with ends := [⟨0, 0, 0, 2⟩] })
     s.fab.ends.find? (fun e => e.region == s.on.n && e.blk == s.on.m) = some ⟨0, 0, 0, 2⟩) ∧
    (let s := rookState (word5 3 0 0) (fun f => { f with out := [mirrorOut none] })
     mirrorOut none ∈ s.outOf (.mirror s.on.n s.on.m)) ∧
    (let s := rookState (word5 3 0 0) (fun f => { f with out := [mirrorOut (some (.error, 0, 0))] })
     s.outOf (.mirror s.on.n s.on.m) ≠ [] ∧ (∀ o ∈ s.outOf (.mirror s.on.n s.on.m), o.answer.isSome = true) ∧
     (∃ o ∈ s.outOf (.mirror s.on.n s.on.m), o.failed = true) ∧ s.rkBusy 0 0 = false) ∧
    (let s := rookState (word5 3 0 0) (fun f => { f with out := [mirrorOut (some (.ok, 0, 0))] })
     s.outOf (.mirror s.on.n s.on.m) ≠ [] ∧ (∀ o ∈ s.outOf (.mirror s.on.n s.on.m), o.failed = false) ∧ s.rkBusy 0 0 = false ∧
     (∀ o ∈ s.outOf (.mirror s.on.n s.on.m), o.answer.isSome = true) ∧ rkB s (fun x => x.state == RkState.updating) = true) ∧
    (let s := rookState (word5 3 0 0) (fun f => { f with retries := [⟨0, 0, 100⟩] })
     s.fab.retries.find? (fun r => r.region == s.on.n && r.blk == s.on.m) = some ⟨0, 0, 100⟩ ∧ s.now < 100 ∧ s.rkBusy 0 0 = false ∧
     100 ≤ ({ s with now := 100 } : State).now ∧ rkB s (fun x => x.state == RkState.updating) = true) ∧
    (let s := rookState (word5 4 0 0) id
     rkB s (fun x => x.state == RkState.published) = true ∧ (s.region s.on.n).nsub = 0 ∧ s.outOf (.publish s.on.n s.on.m) = [] ∧
     s.rkBusy 0 0 = false) ∧
    (∀ a ∈ [PeerStatus.ok, .error],
      rkB (subState a) (fun x => x.state == RkState.published && decide ((pubOut a).op ≠ stepWord 0 0 x.step)) = true ∧
      (subState a).rkBusy 0 0 = false ∧ (subState a).subscribers 0 = some [(3, 0)] ∧ 3 ≠ (subState a).fab.fabid.toNat ∧
      (subState a).outOf (.publish 0 0) = [pubOut a] ∧ (pubOut a).answer.isSome = true ∧ (pubOut a).dev = 3 ∧
      subLine 0 0 0 ≤ peerLine (pubOut a).op ∧ peerLine (pubOut a).op < subLine 0 0 32 ∧ (pubOut a).failed = (a == .error)) := by
  refine ⟨?_, ?_, ?_, ?_, ?_, ?_, ?_, ?_, ?_, ?_, ?_, ?_, ?_, ?_⟩
  all_goals decide +kernel

/-- A COMPLETE block of step 5 that no put has reached; its template is at 0x2000, its constants at 0x3000. -/
def completeState (m : List Host.Cell) : State :=
  { rookWith (m ++ word5 2 0 0) (fun r => { r with urec := 0x2000 }) id with dies := [] }
/-- A template record: RKR, and its constant set. -/
def template0 : List Host.Cell := [(0x2002, 0x10), (0x2021, 0x30)]

theorem witness_RookUpdate :
    (rkB (completeState []) (fun x => x.state == RkState.complete &&
        (((completeState []).dropOut (.template 0 0)).sumBlock 0 0 x).isSome) = true ∧
      (completeState []).template 0 0 = .bad 0x02 ∧ (completeState []).rkBusy 0 0 = false) ∧
    ((match (completeState template0).template 0 0 with
      | .got _ ks => rkB (completeState template0) (fun x =>
        (((completeState template0).dropOut (.template 0 0)).sumBlock 0 0 x).any (fun s1 =>
          decide ((s1.region 0).blockVa 0 = (completeState template0 |>.region 0).blockVa 0 ∧ (s1.region 0).uq = 0) &&
          (s1.rkWrite 0 ((s1.region 0).blockVa 0 + 65536) false
            ((List.range 4).map (fun k => ((s1.region 0).konstLine 0 x ((ks[k]?).getD 0) k, 0)))).isSome))
      | _ => false) = true) := by
  refine ⟨?_, ?_⟩
  all_goals decide +kernel

/-- A block of step 5 whose last published step is `n`, in state `st`. -/
def getState (st n : Byte) : State := rookState (word5 st 0 0 ++ [(0x4020, n)]) id

/-- A get of this device's own warp, with its 32 destination lines. -/
def ownGet : RookOp := { rook := 5, blk := 0, step := 4, src := .own wid 0 }
def ownGetState : State :=
  { rookState (word5 1 0 0 ++ [(0x4020, 4)]) (fun f => { f with rookOwn := [⟨wid, 0, false, none⟩] }) with
    blocks := [{ probeBlock 0 with warps := [opWarp (op0 .f (.kick (.rkget 0x200000 ((List.range 32).map (fun k => 0x4000 + k)) 0) none))] }] }

theorem witness_RookGetsAndRegions :
    (let s := ownGetState
     s.rookNew ownGet.src = true ∧ s.rookHeld ownGet = false ∧ s.rookNew (putOp 4).src = false) ∧
    (let s := rookState [] (fun f => { f with stup := 0x8000 })
     let r := rookReq (.rookGet 5 0 5 [7])
     s.fab.fvalid = true ∧ bit s.fab.stup r.station.toNat = true ∧ s.staleInc r = false) ∧
    (let s := getState 1 4
     s.activeRegion (putOp 4).rook = some 0 ∧ (putOp 4).blk.toNat < (s.region 0).nblk.toNat ∧
     s.activeRegion 6 = none ∧ (s.region 0).nblk.toNat ≤ 1 ∧
     rkB s (fun x => (putOp 4).step.toNat == x.pstep && (s.rkLines 0 ((s.region 0).pubVa 0 x.pstep) 32).isSome) = true ∧
     rkB s (fun x => (putOp 5).step.toNat != x.pstep && ((putOp 5).step.toNat + 1) % 2 ^ 48 != x.pstep && (putOp 5).step.toNat == x.step) = true ∧
     rkB s (fun x => (putOp 2).step.toNat != x.pstep && ((putOp 2).step.toNat + 1) % 2 ^ 48 != x.pstep && decide ((putOp 2).step.toNat < x.step)) = true ∧
     rkB s (fun x => (putOp 6).step.toNat != x.pstep && ((putOp 6).step.toNat + 1) % 2 ^ 48 != x.pstep && decide (x.step < (putOp 6).step.toNat)) = true) ∧
    ((putOp 4).src = .peer 3 9 ∧ ({ putOp 4 with lines := [] } : RookOp).lines = [] ∧ (putOp 4).lines ≠ []) ∧
    (let s := ownGetState
     s.activeRegion ownGet.rook = some 0 ∧ (s.srcLines ownGet.src ownGet.lines).Nodup ∧
     (s.srcLines ownGet.src ownGet.lines).length = 32 ∧ s.castle.moves = [] ∧ s.msgs = [] ∧
     rkB s (fun x => ownGet.step.toNat == x.pstep && (s.rkLines 0 ((s.region 0).pubVa 0 x.pstep) 32).isSome) = true) ∧
    (rkB (getState 3 4) (fun x => ((putOp 3).step.toNat + 1) % 2 ^ 48 == x.pstep && x.state == RkState.updating &&
      x.step == (x.pstep + 1) % 2 ^ 48) = true) ∧
    (let s := rookState [] (fun f => { f with gets := [⟨0, 0, 5, .peer 3 9, 0, []⟩] })
     (s.fab.gets.filter (fun g => g.region == (0 : BitVec 4).toNat))[0]? = some ⟨0, 0, 5, .peer 3 9, 0, []⟩ ∧
     s.now < 0 + (s.region 0).dlns.toNat ∧ 0 + (s.region 0).dlns.toNat ≤ ({ s with now := 100 } : State).now) ∧
    (let s := rookState [] id
     s.hub.bootst ≠ 4 ∧ s.regionBusy 0 = false ∧ s.msgs = [] ∧ (s.region s.on.n).nblk = 1 ∧ s.on.n < s.fab.regions.length ∧
     s.rkPa s.on.n ((s.region s.on.n).stateVa 0) .write = some 0x4000 ∧ 0x4000 % 64 = 0 ∧ s.lost (0x4000 / 128) = false ∧
     (s.region s.on.n).role ≠ 2) ∧
    (let s := rookWith (word5 4 0 0) (fun r => { r with role := 2 }) id
     s.regionBusy 0 = false ∧ (s.region s.on.n).role = 2 ∧ (s.region s.on.n).nblk = 1 ∧
     rkB s (fun x => x.state == RkState.published) = true) ∧
    (let s := rookState [] id
     let r := (s.region 0).put 0x34 false 7
     let q := (s.region 0).put 0x34 false 0
     (0 : BitVec 4).toNat < s.fab.regions.length ∧ r.role ≠ 0 ∧ (s.setRegion 0 (fun _ => r)).descriptorOk 0 = true ∧
     (s.setRegion 0 (fun _ => r)).regionBusy 0 = false ∧ (s.setRegion 0 (fun _ => q)).regionBusy 0 = false ∧
     (s.setRegion 0 (fun _ => r)).sameId 0 = [] ∧ (s.region 0).role ≠ 0 ∧
     q.role ≠ 0 ∧ (s.setRegion 0 (fun _ => q)).descriptorOk 0 = false ∧ ((s.region 0).put 0 false 0).role = 0) ∧
    (let s := rookWith [] (fun r => { r with role := 0 }) id
     let r := (s.region 0).put 0 false 0x10005
     s.regionBusy 0 = false ∧ (s.setRegion 0 (fun _ => r)).regionBusy 0 = false ∧ (s.region 0).role = 0 ∧ r.role ≠ 0 ∧
     (s.setRegion 0 (fun _ => r)).descriptorOk 0 = true ∧ (s.setRegion 0 (fun _ => r)).sameId 0 = []) ∧
    (let s := rookState [] (fun f => { f with regions := region0 :: region0 :: List.replicate 14 {} })
     let r := (s.region 0).put 0x34 false 7
     (s.setRegion 0 (fun _ => r)).descriptorOk 0 = true ∧ (s.setRegion 0 (fun _ => r)).sameId 0 ≠ []) ∧
    (let s := rookState [] id
     s.regionBusy 0 = false ∧ (s.setRegion 0 (fun r => r.put 0x68 false 4)).regionBusy 0 = false) := by
  refine ⟨?_, ?_, ?_, ?_, ?_, ?_, ?_, ?_, ?_, ?_, ?_, ?_, ?_⟩
  all_goals decide +kernel

/-! ### Witnesses: engines, collectives, the hub, decoding and steps -/

/-- The probed block with engine operation `e`, a heap whose lines are at hand, and `f` applied to the fabric. -/
def engState (e : EngOp) : State :=
  { probe id with
    eng := [e], ctxs := { cvalid := true, hrd := true, hwr := true, hlim := 0x10000 } :: List.replicate 15 {},
    dies := List.replicate 4 { l2 := l2s 32 } }
def copy0 : EngOp :=
  { id := 0, block := bid, core := 0, gather := false, conv := 0, fmt := .e4m3, bobj := 0, total := 128, src := 0x800, dst := 0,
    scl := 0, sshape := [128], dshape := [128] }
def row0 (sh : List Int) : EngOp :=
  { copy0 with gather := true, rowb := 128, pitch := 128, idx := 0x800, sshape := sh, dshape := [] }

/-- An engine's read that has found its bytes, in a state of which `p` holds. -/
def EngReads.found (r : EngReads) (p : State → Bool) : Bool :=
  match r with
  | .got s _ _ => p s
  | _ => false
/-- The line at 0, to which every copy of these tests writes, takes the bytes of engine operation 0. -/
def line0 (s : State) : Bool :=
  match s.engXlat (probeBlock 0) probeGrid 0 128 .write with
  | (s2, .ok l) => l == .mem 0 && homeDie 0 == dieOfCore 0 && !s2.lost 0 && !s2.locked 0 && (s2.outOf (.engine 0)).isEmpty &&
      !s2.logging 0 && s2.msgs.isEmpty
  | _ => false

theorem witness_CopiesAndRows :
    (let s := engState copy0
     s.eng.find? (fun e => e.id == s.on.n && e.gather == false && !e.waiting) = some copy0 ∧
     (s.block? bid).isSome = true ∧ s.grid? 0 = some probeGrid ∧ (∀ e1 ∈ s.eng, e1.id = copy0.id → e1 = copy0) ∧ copy0.conv = 0 ∧
     (walkAt copy0.dshape copy0.dst 0) = (0, 128) ∧
     EngReads.found (s.engReads (.engine 0) (probeBlock 0) probeGrid false (spans (walkAt copy0.sshape copy0.src) 0 128)) line0 =
       true) ∧
    (let s := engState (row0 [])
     s.eng.find? (fun e => e.id == s.on.n && e.gather == true && !e.waiting) = some (row0 []) ∧
     EngReads.found (s.engReads (.engine 0) (probeBlock 0) probeGrid false
       (spans (flat ((row0 []).idx + BitVec.ofNat 64 (4 * ((row0 []).next / (row0 []).rowb)))) 0 4)) (fun _ => true) = true) ∧
    (let s := engState (row0 [0])
     s.eng.find? (fun e => e.id == s.on.n && e.gather == true && !e.waiting) = some (row0 [0]) ∧ (row0 [0]).dir = 0 ∧
     EngReads.found (s.engReads (.engine 0) (probeBlock 0) probeGrid false (spans (flat (row0 [0]).src) 0 128)) line0 = true) := by
  refine ⟨?_, ?_, ?_⟩
  all_goals decide +kernel

/-- An all-gather of 32 elements among one rank, its completion word at 0; not begun. -/
def planNew : Plan :=
  { id := 2, die := 0, grid := 0, bytes := BitVec.ofNat 1024 (1 + 2 ^ 32 + 2 ^ 48 + 32 * 2 ^ 128 + 0x800 * 2 ^ 192 + 0x900 * 2 ^ 256) }
/-- The same plan, its lists read. -/
def plan0 : Plan := { planNew with rings := some ([0], [0]) }
def planWith (p : Plan) (f : Fabric → Fabric) : State := { engState copy0 with eng := [], fab := f { plans := [p] } }
def planState : State := planWith plan0 id

/-- `canEnd`, decided, but that no write is coming, which an empty list of messages implies. -/
def canEndB (s : State) (p : Plan) (st : Byte) (pa : Nat) : Bool :=
  (s.outOf (.plan p.id)).all (fun o => o.answer.isSome) && s.msgs.isEmpty && s.settled p.die false &&
    decide (st = 0 → s.planUnacked p.id = false) &&
    decide (s.planLoc (s.ctxOf p.grid) (PlanF.cword p.bytes) .write = .here pa) && decide (pa % 8 = 0 ∧ homeDie (pa / 128) = p.die) &&
    !s.locked (pa / 128) && !s.parked? (pa / 128) && !s.lost (pa / 128) && !s.logging p.grid

theorem canEnd_of {s : State} {p : Plan} {st : Byte} {pa : Nat} (h : canEndB s p st pa = true) : canEnd s p st pa := by
  simp only [canEndB, Bool.and_eq_true, decide_eq_true_eq, Bool.not_eq_true', List.isEmpty_iff, List.all_eq_true] at h
  obtain ⟨⟨⟨⟨⟨⟨⟨⟨⟨h1, h2⟩, h3⟩, h4⟩, h5⟩, h6, h7⟩, h8⟩, h9⟩, h10⟩, h11⟩ := h
  exact ⟨h1, h3, h4, h5, h6, h7, h8, h9, h10, h11, nothingComing_of h2⟩

def planOut (a : Option (PeerStatus × VReg × EReg)) : PeerOut :=
  { id := 0, dev := 3, station := 0, die := 0, owner := .plan 2, op := .params [], left := some 0, answer := a }
def planFail : Plan := { plan0 with status := some 0x33 }

theorem witness_CollectivesEnd :
    (let s := planWith planNew id
     s.fab.plans.find? (fun q => q.id == planNew.id) = some planNew ∧ planNew.status = none ∧ planNew.rings = none ∧
       (s.planRings planNew (s.ctxOf 0)).toOption = some ([0], [0])) ∧
    (let s := planWith planFail id
     s.fab.plans.find? (fun q => q.id == planFail.id) = some planFail ∧ planFail.status = some 0x33 ∧ planFail.cwordSent = false ∧
       canEnd s planFail 0x33 0) ∧
    (let s := planWith { plan0 with status := some 0 } (fun f => { f with out := [planOut (some (.error, 0, 0))] })
     canEnd s { plan0 with status := some 0 } 0 0 ∧ outsCode (s.outOf (.plan 2)) = 0x30) ∧
    (outsCode [planOut (some (.drop, 0, 0))] = 0x34 ∧ (planOut (some (.error, 0, 0))).failed = true ∧
      (planOut (some (.ok, 0, 0))).failed = false) ∧
    (let s := planWith planFail (fun f => { f with out := [planOut none] })
     s.fab.plans.find? (fun q => q.id == planFail.id) = some planFail ∧ ∃ o ∈ s.outOf (.plan planFail.id), o.answer = none) ∧
    (planGoes planState plan0 ∧ canEnd planState plan0 0x31 0) ∧
    (let d := planState.planWork plan0 (planState.ctxOf plan0.grid) (fun _ => true)
     d.stop = none ∧ d.s.ctxOf plan0.grid = planState.ctxOf plan0.grid ∧ (∀ o ∈ d.s.outOf (.plan plan0.id), o.failed = false) ∧
       canEnd d.s plan0 0 0) ∧
    (let s := planWith plan0 (fun f => { f with out := [planOut none] })
     let d := s.planWork plan0 (s.ctxOf plan0.grid) (fun _ => true)
     planGoes s plan0 ∧ d.stop = none ∧ ∃ o ∈ d.s.outOf (.plan plan0.id), o.answer = none) ∧
    (let p := { plan0 with bytes := plan0.bytes + BitVec.ofNat 1024 (0x800 * 2 ^ 192) }
     let s : State := { planWith p id with dies := { vclk := [0, 0, 0, 0] } :: List.replicate 3 { vclk := [0, 1, 0, 0] } }
     planGoes s p ∧ (s.planWork p (s.ctxOf p.grid) (fun _ => true)).stop = some .wait) ∧
    (let p := { plan0 with rings := some ([0], [0, 0]) }
     let s : State := { planWith p (fun f => { f with nflow := 1 }) with mem := [(0, 8)] }
     s.fab.plans.find? (fun q => q.id == p.id) = some p ∧ p.status = none ∧ p.rings.isSome = true ∧ s.planFlowDown p = true) ∧
    (PlanF.op plan0.bytes = 1 ∧ PlanF.nin plan0.bytes = 1 ∧ PlanF.nout plan0.bytes = 1 ∧ PlanF.myin plan0.bytes = 0 ∧
      PlanF.myout plan0.bytes = 0) ∧
    ((match planState.planList plan0 (planState.ctxOf plan0.grid) (PlanF.srca plan0.bytes) (PlanF.elemBytes plan0.bytes)
        (PlanF.count plan0.bytes) with
      | .ok _ => true
      | .error _ => false) = true) ∧
    (planState.fab.plans.find? (fun q => q.id == 3) = none) := by
  unfold planGoes
  refine ⟨?_, ⟨by decide +kernel, rfl, rfl, canEnd_of (by decide +kernel)⟩,
    ⟨canEnd_of (by decide +kernel), by decide +kernel⟩, ?_, ?_, ⟨by decide +kernel, canEnd_of (by decide +kernel)⟩,
    ⟨by decide +kernel, by decide +kernel, by decide +kernel, canEnd_of (by decide +kernel)⟩, ?_, ?_, ?_, ?_, ?_, ?_⟩
  all_goals decide +kernel

def pw (f : Die → Die) : State := { dies := List.replicate 4 (f {}) }
/-- Core 5 is fused, core 6 has a block, core 7 holds line 9 dirty and line 10 clean. -/
def fuseState (c : Byte) : State :=
  { probe id with
    cores := (List.range 8).map (fun n => if n = 5 then { Core.reset 5 with fused := true }
      else if n = 7 then { Core.reset 7 with l1 := [⟨9, 0, 0, 0xF, 1, 0, false, 0, false, []⟩, ⟨10, 0, 0, 0xF, 0, 0, false, 0, false, []⟩] }
      else Core.reset n),
    blocks := [{ probeBlock 0 with core := 6, warps := [probeWarp 0] }], hub := { cfcore := c } }

theorem witness_PowerAndErrors :
    ((pw id).dies.length = 4) ∧
    (((pw (fun x => { x with pbusy := true })).die 3).pbusy = true) ∧
    ((pw (fun x => { x with pbusy := true })).justBegun 3 = true ∧
      (pw (fun x => { x with pbusy := true, begun := (1, 0, 0) })).justBegun 3 = false) ∧
    (let s := pw (fun x => { x with l2 := [{ line := 0, held := 1, side := 0 }] })
     homeDie 0 < s.dies.length ∧ ((s.die (homeDie 0)).l2? 0).isSome = true) ∧
    (let x := (pw (fun x => { x with halt := true, temp := 799, pcur := 5 })).die 3
     x.pbusy = false ∧ x.halt = true ∧ x.temp.toNat < 800 ∧ 800 ≤ ((pw (fun x => { x with temp := 800 })).die 3).temp.toNat) ∧
    (let x := (pw (fun x => { x with pcur := 4 })).die 3
     x.pbusy = false ∧ x.halt = false ∧ x.pcur.toNat ≤ 4 ∧ (0 : BitVec 3) ≠ x.pcur) ∧
    (let s := pw (fun x => { x with pcur := 5 })
     (s.die 3).pcur = 5 ∧ s.canPark 3 = true ∧ { s with castle := { ckbusy := true } }.canPark 3 = false) ∧
    (((pw (fun x => { x with pcur := 6 })).die 3).pcur = 6) ∧
    (let s := { pw (fun x => { x with pbusy := true, pends := 7, haltAfter := true }) with now := 7 }
     s.on.n < s.dies.length ∧ (s.die s.on.n).pbusy = true ∧ (s.die s.on.n).pends ≤ s.now ∧
     { s with now := 6 }.now < (s.die s.on.n).pends) ∧
    ((879 : BitVec 12).toNat < 880 ∧ 880 ≤ (880 : BitVec 12).toNat) ∧
    ((fuseState 5).core (fuseState 5).hub.cfcore.toNat).fused = true ∧ 192 ≤ (fuseState 192).hub.cfcore.toNat ∧
    ((fuseState 6).core 6).fused = false ∧ (∃ b ∈ (fuseState 6).blocks, b.core = (fuseState 6).hub.cfcore.toNat) ∧
    ((fuseState 0).hub.cfcore.toNat < (fuseState 0).cores.length ∧ ((fuseState 0).core 0).fused = false ∧
      ∀ b ∈ (fuseState 0).blocks, b.core ≠ (fuseState 0).hub.cfcore.toNat) ∧
    (tierOf (128 * 0) = some 0 ∧ tierOf (128 * 0x200000000) = some 1 ∧ homeDie 0 < 4 ∧ homeDie 0x200000000 < 4) ∧
    (7 < (fuseState 0).cores.length ∧ dieOfCore 7 < (fuseState 0).dies.length ∧
      (((fuseState 0).core 7).l1? 9).any (fun l => l.dirty != 0) = true ∧
      (((fuseState 0).core 7).l1? 10).any (fun l => l.dirty == 0) = true) ∧
    (let s : State := { agenda := [.ns 5], hub := { tnext := some 7 } }
     s.agenda = .ns 5 :: [] ∧ s.hub.tnext = some 7 ∧ 1 ≤ 5) ∧
    (let s := pw (fun x => { x with l2 := [{ line := 0, held := 1, side := 0, dirty := true }] })
     homeDie 0 < s.dies.length ∧ ((s.die (homeDie 0)).l2? 0).any (fun l => l.dirty) = true) ∧
    (let s := { pw (fun x => { x with copies := [⟨4, 7, 1, 0, 0⟩] }) with
                  msgs := [{ src := 3, dst := homeDie 4, stamp := [], line := 4, grid := none, put := some (7, 1, 0, 0) }] }
     3 < s.dies.length ∧ homeDie 4 ≠ 3 ∧ (s.unapplied 3 4).1 ≠ 0 ∧ ((s.die 3).copy? 4).isSome = true) ∧
    (let s := pw (fun x => { x with l2 := [{ line := 0, held := 1, side := 0 }] })
     ((s.die 3).l2? 0).any (fun l => !l.dirty) = true ∧ (s.unapplied 3 0).1 = 0 ∧ (s.unapplied 3 0).2 = 0) ∧
    (∃ b x, (probe id).warp? wid = some (b, x) ∧ decide (wid.blockId = b.id) = true) := by
  refine ⟨?_, ?_, ?_, ?_, ?_, ?_, ?_, ?_, ?_, ?_, ?_, ?_, ?_, ?_, ?_, ?_, ?_, ?_, ?_, ?_, ?_, warp_of (by decide +kernel)⟩
  all_goals decide +kernel

theorem witness_BootAndAttestation :
    (failedAt 4 0b01111 = [] ∧ failedAt 4 0b10111 = [3] ∧ 3 ∈ failedAt 4 0b10101) ∧
    (({} : State).hub.hidden.toNat = 4 ∧ ({} : State).hub.swapped = false ∧ bit (0b10111 : BitVec 5) 4 = true ∧
      bit (0b00111 : BitVec 5) 4 = false ∧ ({ hub := { swapped := true } } : State).hub.swapped = true) ∧
    (1 ≤ (1 : Byte).toNat ∧ (9 : Byte).toNat ≤ 9 ∧ 9 < (10 : Byte).toNat ∧ (0 : Byte).toNat = 0) ∧
    (∀ e ∈ ({} : State).hub.report, e.pos = (9 : Byte).toNat - 5 → e.dstate ≠ 0) ∧
    (let s : State := { hub := { bootst := 1, badPos := [2] } }
     s.hub.bootst = 1 ∧ failedAt s.hub.hidden.toNat (s.hub.passes 0b11111) = [2] ∧ s.hub.swapped = false ∧
       bit (s.hub.passes 0b11111) s.hub.hidden.toNat = true ∧ bit (s.hub.passes 0b01111) s.hub.hidden.toNat = false) ∧
    (failedAt 4 (({ hub := { bootst := 1 } } : State).hub.passes 0b11111) = [] ∧ ({ hub := { bootst := 2 } } : State).hub.bootst = 2) := by
  decide +kernel

theorem witness_HostRegisters :
    ((0x34, 0xFFFFFFFF) ∈ rwRegs ∧ ({} : State).hub.bootst ≠ 4 ∧ ({ hub := { bootst := 4 } } : State).hub.bootst = 4) ∧
    ((0x35 : BitVec 25).toNat % 4 ≠ 0 ∧ (0x34 : BitVec 25).toNat % 8 ≠ 0 ∧ 0x10000 ≤ (0x10000 : BitVec 25).toNat) ∧
    (({} : State).fab.stup = 0 ∧ (fabState id).fab.stup ≠ 0) ∧
    ((15 : BitVec 4).toNat < ({} : State).ctxs.length ∧ (0x27 : BitVec 6).toNat < 0x28 ∧ 0x28 ≤ (0x28 : BitVec 6).toNat) := by
  decide +kernel

theorem witness_DecodeEncode :
    WellFormed (.nop ⟨⟨0, 0, false, false, 0⟩, ⟨false, 0⟩, .s 0, .s 0, .s 0, 0⟩) = true ∧
    encodeWord (.nop ⟨⟨0, 0, false, false, 0⟩, ⟨false, 0⟩, .s 0, .s 0, .s 0, 0⟩) = some 0 := by
  decide +kernel

/-- The probed warp at `pc` of a code block of zeros, with its quadrant's turn to come. -/
def turnState (pc : DWord) (f : Warp → Warp) : State :=
  { probe (fun x => f { x with pc := pc, ibuf := some (0, 0) }) with agenda := [.quadrant 0 0], cur := none }

/-- The warp that a quadrant's turn chooses, its note of who was ready made first. -/
def chosen (s : State) : Option WarpId :=
  let r := ({ s with agenda := [], cur := none } : State).findReady 0 0
  r.1.pickWarp 0 0 r.2

theorem witness_StepRunsDecoded :
    (let s := turnState 116 id
     s.agenda = [.quadrant 0 0] ∧ (s.die (dieOfCore 0)).clocked = true ∧ s.quadSpent 0 0 = false ∧ chosen s = some wid ∧
     warpB s (fun _ x => !x.trapDue (s.clkOf (dieOfCore 0)) && x.ibuf == some (x.pc.toNat / 128, 0) && decide (x.pc.toNat % 128 ≤ 116)) = true) ∧
    (let s := turnState 0 (fun x => { x with pend := [{ row1 := false, info := { cause := .fifoMisuse }, tpc := 0, fpc := 0 }] })
     chosen s = some wid ∧ warpB s (fun _ x => x.trapDue (s.clkOf (dieOfCore 0))) = true) ∧
    (chosen { agenda := [.quadrant 0 0] } = none ∧ ({ agenda := [.quadrant 0 0] } : State).quadSpent 0 0 = false) ∧
    ((({ dies := List.replicate 4 { pcur := 6 } } : State).die (dieOfCore 0)).clocked = false) ∧
    (let s : State := { sprobe (fun b => { b with seq := b.seq.map (fun q => { q with ibuf := some (0, 0) }) }) with agenda := [.seq bid] }
     s.agenda = [.seq bid] ∧ (s.seq? bid).any (fun p => (s.die (dieOfCore p.1.core)).clocked && p.2.ibuf == some (p.2.pc.toNat / 128, 0) &&
       decide (p.2.pc.toNat % 128 ≤ 116)) = true) ∧
    ((decode (wordIn 0 116)).toOption.any (fun p => p.2.isEmpty) = true) := by
  refine ⟨?_, ?_, ?_, ?_, ?_, ?_⟩
  all_goals decide +kernel

/-- The hypotheses of the invariant hold of the state after reset. -/
theorem witness_MemoryCanonical : State.reset.wf = true ∧ step State.reset = .next State.reset := by
  constructor
  · decide +kernel
  · rfl

/-! ### Witnesses: checks of words, kicks, the array, merges, translation, frames -/

/-- What the probed warp sees of its word, with a condition on it. -/
def offersB (s : State) (p : Ctx → Bool) : Bool :=
  match s.seenBy wid with
  | some c => decide (s.cur = some (.warp wid)) && c.w.canIssue c.clk && !s.stopDue wid c.w && p c
  | none => false

theorem offers_of {s : State} {p : Ctx → Bool} (h : offersB s p = true) : ∃ c, Offers s wid c ∧ p c = true := by
  unfold offersB at h
  split at h
  · next c hc =>
    simp only [Bool.and_eq_true, decide_eq_true_eq, Bool.not_eq_true'] at h
    obtain ⟨⟨⟨h1, h2⟩, h3⟩, h4⟩ := h
    exact ⟨c, ⟨h1, hc, h2, h3⟩, h4⟩
  · cases h

/-- A word whose B is reserved, one whose target register holds no address of a word, one that a full G counter holds back,
and a word of a stream at a warp's turn. -/
theorem witness_WordChecks :
    (∃ c, Offers (probe id) wid c ∧
      ((shSadd { us with b := .rsv 0x700 }).check false (Rec.declared c.g.record) c.w.pc).isSome = true) ∧
    (∃ c, Offers (probe (fun x => { x with s := [(4, 6)] })) wid c ∧
      (((shJmpi { rf with a := .s 4 }).check false (Rec.declared c.g.record) c.w.pc).isNone &&
        issueGate c.w.win (shJmpi { rf with a := .s 4 }) && (wordTarget c (.jmpi { rf with a := .s 4 })).isSome) = true) ∧
    (∃ c, Offers (opState (op0 .g (.load [] 4 0))) wid c ∧
      (((shNop { jf 0 with h := { hint with wpath := 1 } }).check false (Rec.declared c.g.record) c.w.pc).isNone &&
        !issueGate c.w.win (shNop { jf 0 with h := { hint with wpath := 1 } })) = true) ∧
    ((sprobe id).seq? bid).any (fun p => p.2.canIssue ((sprobe id).clkOf (dieOfCore p.1.core)) &&
      ((shSadd us).check true (Rec.declared probeGrid.record) p.2.pc).isSome) = true ∧
    (opndReserved (.rsv 0x700) = true ∧ opndReserved (.s 4) = false ∧ opndCls (.s 4) = some .s ∧ opndReserved .none = false ∧
      opndCls .none = none) ∧
    (∃ c, Offers (probe id) wid c ∧
      decide ((shSwrite { rf with d := .sp 0, a := .s 8 }).check false (Rec.declared c.g.record) c.w.pc = illOperand 0x02) = true) ∧
    (guardOk .always false rf.g = true ∧ hintsOk false (shSwrite rf).lat rf.h = true ∧ (shSwrite rf).modOk = true ∧
      (0 : BitVec 10).toNat ≤ 0x16 ∧ specOf (0 : BitVec 10).toNat = none) :=
  ⟨offers_of (by decide +kernel), offers_of (by decide +kernel), offers_of (by decide +kernel), by decide +kernel, by decide +kernel,
    offers_of (by decide +kernel), by decide +kernel⟩

/-- In checked mode, a register with an uncovered result, and one that a load has pending. -/
theorem witness_CheckedMode :
    (∃ c, Offers (probe (fun x => { x with mode := 1, win := { fly := [⟨.s 8, 1, 1, 0, 9, false, 0⟩], num := 1 } })) wid c ∧
      (c.chk && c.w.win.badRead (.s 8) && ((shSadd us).check false (Rec.declared c.g.record) c.w.pc).isNone &&
        issueGate c.w.win (shSadd us) && decide (wordTarget c (.sadd us) = none)) = true) ∧
    readsReg (shSadd us) (.s 8) ∧ writesReg (shSadd us) (.s 4) ∧
    (∃ c, Offers (probe (fun x => { x with mode := 1, win := { ops := [{ op0 .g (.load [] 4 0) with dst := sPend 4 1 }], num := 1 } })) wid c ∧
      (c.chk && c.w.win.badWrite (.s 4) && issueGate c.w.win (shSadd us)) = true) :=
  ⟨offers_of (by decide +kernel), .inr (.inl (by decide +kernel)), .inl (by decide +kernel), offers_of (by decide +kernel)⟩

/-- A load that has landed in V7 and still counts. -/
theorem witness_PendingRead :
    (let o : Op := { op0 .g (.load [] 4 7) with done := true, dst := vPend 1 7 1, old := [(.v 7, 3)] }
     let wn : Win := { ops := [] ++ o :: [], num := 1 }
     wn.ops = [] ++ o :: [] ∧ o.done = true ∧ o.dst = [(.v 7, laneBits 1)] ∧ o.old = [(.v 7, 3)] ∧ o.clob = [] ∧ 0 < (RegId.v 7).slots) := by
  decide +kernel

/-! The oldest kick of the probed warp. -/

def kickedB (s : State) (p : Path) (q : Block → Warp → Grid → Op → Bool) : Bool :=
  match s.warp? wid, s.grid? wid.grid, s.firstOp (.warp wid) p with
  | some (b, x), some g, some o => !s.kickSynced (.warp wid) o && decide (o.dst = sPend 4 1) && o.clob.isEmpty && q b x g o
  | _, _, _ => false

theorem kicked_of {s : State} {p : Path} {q : Block → Warp → Grid → Op → Bool} (h : kickedB s p q = true) :
    ∃ b x g o, Kicked s wid p b x g o 4 ∧ q b x g o = true := by
  unfold kickedB at h
  split at h
  · next b x g o hw hg hf =>
    simp only [Bool.and_eq_true, decide_eq_true_eq, Bool.not_eq_true', List.isEmpty_iff] at h
    obtain ⟨⟨⟨h1, h2⟩, h3⟩, h4⟩ := h
    exact ⟨b, x, g, o, ⟨hw, hg, hf, h1, h2, h3⟩, h4⟩
  · cases h

/-- A block whose warp has kicked `k` on path `p`; `f` fills its scratchpad. -/
def kickState (p : Path) (k : Kick) (f : Block → Block) : State :=
  { probe id with
    blocks := [f { probeBlock 0 with warps := [opWarp { op0 p (.kick k (some (.s 4))) with dst := sPend 4 1 }] }]
    ctxs := { cvalid := true, hrd := true, hwr := true, hlim := 0x10000 } :: List.replicate 15 {}
    dies := List.replicate 4 { l2 := l2s 32 } }

/-- A copy of 128 bytes from 0x800 to 0, its request at 1024, its shape at 1088. -/
def copyReq (b : Block) : Block :=
  (b.sput 1024 (bytesLE 4 0xFF00 ++ bytesLE 2 17 ++ bytesLE 2 17 ++ bytesLE 8 0x800)).sput 1088
    (bytesLE 4 1 ++ bytesLE 4 128 ++ bytesLE 4 1 ++ bytesLE 4 1 ++ bytesLE 4 1 ++ bytesLE 4 1)
/-- A gather of one row of 32 bytes, its request at 1024. -/
def gatherReq (b : Block) : Block := b.sput 1024 (bytesLE 4 0xFF00 ++ bytesLE 4 32 ++ bytesLE 4 1)
/-- The kick of a record at 0x800 on queue 0, whose slot 0 is at 0x1000. -/
def launchKick (m : List Host.Cell) : State :=
  { kickState .c (.launch 0x800 0) id with
    mem := m
    queues := [{ qstate := 1, devq := true, qlog := 1, qbase := 0x1000 }] }
def launchKickB (s : State) (q : Queue → State → Nat → Bool) : Bool :=
  kickedB s .c (fun b x g o =>
    let s1 := (s.reddDrain wid).releaseWb b.core wid
    x.win.ops.all (fun p => decide (o.num ≤ p.num) || !p.kind.isLsu || p.done) && !s.releaseLocked b.core wid &&
      !s.launchBefore wid b.core o 0 && s1.noSpills wid && s1.settled (dieOfCore b.core) false && s1.slotStatus 0 == 0 &&
      (match s1.kickPlace b g.ctx 0x800 .read with
        | (s2, .at_ pa) => !s2.atPeer (pa / 128) && !s2.lineBusy (pa / 128) && !s2.slotBusy 0 && !s2.poisoned (pa / 128) &&
          q (s1.queue 0) s2 pa
        | _ => false))

theorem witness_KicksAnswered :
    (∃ b x g o, Kicked (kickState .c (.refused 0x22) id) wid .c b x g o 4 ∧ decide (o.kind = .kick (.refused 0x22) (some (.s 4))) = true) ∧
    (∃ b x g o, Kicked (kickState .f (.refused 0x06) id) wid .f b x g o 4 ∧ decide (o.kind = .kick (.refused 0x06) (some (.s 4))) = true) ∧
    (∃ b x g o, Kicked (kickState .c (.copy 1024) copyReq) wid .c b x g o 4 ∧
      (decide (o.kind = .kick (.copy 1024) (some (.s 4))) && !x.win.touches o (copyAsks b 1024) &&
        decide ((kickState .c (.copy 1024) copyReq).copies b.core < 64) &&
        (checkCopy b (Rec.nbobj g.record) (Rec.scrb g.record) 1024 0).2.any (fun e => e.total == 128)) = true) ∧
    (∃ b x g o, Kicked (kickState .c (.gather 1024) gatherReq) wid .c b x g o 4 ∧
      (decide (o.kind = .kick (.gather 1024) (some (.s 4))) && !x.win.touches o [scratchAsk b.id 1024 64] &&
        (checkGather b (Rec.nbobj g.record) 1024 0 (fun _ => true)).2.any (fun e => e.total == 32)) = true) ∧
    (∃ b x g o, Kicked (launchKick []) wid .c b x g o 4 ∧ true = true) ∧
    launchKickB (launchKick []) (fun qu s2 pa => !Rec.rkr (s2.homeRead (pa / 128)).1 && !s2.lost (qu.slotPa qu.tail.toNat / 128) &&
      s2.msgs.isEmpty && s2.queue 0 == qu) = true ∧
    launchKickB (launchKick [(0x802, 0x10)]) (fun _ s2 pa => Rec.rkr (s2.homeRead (pa / 128)).1) = true ∧
    ((({} : State).queue 0).qstate = 0 ∧ ((launchKick []).queue 0).qstate ≠ 0 ∧ ((launchKick []).queue 0).disabling = false) ∧
    (∃ b x g o, Kicked (kickState .f (.rkput 0x800 [] 1024) id) wid .f b x g o 4 ∧
      (decide (o.kind = .kick (.rkput 0x800 [] 1024) (some (.s 4))) && !x.win.touches o [scratchAsk b.id 1024 32] &&
        (kickState .f (.rkput 0x800 [] 1024) id).fab.rookOwn.isEmpty && !(tagOf b 1024).bad && (tagOf b 1024).dev == 0) = true) ∧
    (∃ b x g o, Kicked (kickState .f (.rkput 0x800 [] 1024) (fun b => b.sput 1027 [4])) wid .f b x g o 4 ∧ (tagOf b 1024).bad = true) ∧
    (∃ b x g o, Kicked (kickState .f (.coll 0x800) id) wid .f b x g o 4 ∧
      (let s := kickState .f (.coll 0x800) id
       match s.kickPlace b g.ctx 0x800 .read with
       | (sA, .at_ p0) => (match sA.kickPlace b g.ctx 0x880 .read with
         | (sB, .at_ p1) =>
           !sB.locked (p0 / 128) && !sB.locked (p1 / 128) &&
           !x.win.touches o ([p0, p1].map (fun p => { va := 0x800, loc := (Loc.mem p).base, mask := BitVec.allOnes 128, side := false })) &&
           [p0, p1].all (fun p => match ((sB.planWb b.core p0).planWb b.core p1).pocRead? (dieOfCore b.core) (p / 128) (BitVec.allOnes 128) false with
             | some (_, _, poi) => !poi
             | none => false)
         | _ => false)
       | _ => false) = true) ∧
    (∃ b x g o, Kicked ((kickState .f (.rkget 0x800 [] 1024) id).setFab (fun f => { f with rookOwn := [⟨wid, 0, true, some 0x44⟩] })) wid .f b x g o 4 ∧
      decide (o.num = 0) = true) :=
  ⟨kicked_of (by decide +kernel), kicked_of (by decide +kernel), kicked_of (by decide +kernel), kicked_of (by decide +kernel),
    kicked_of (by decide +kernel), by decide +kernel, by decide +kernel, by decide +kernel, kicked_of (by decide +kernel),
    kicked_of (by decide +kernel), kicked_of (by decide +kernel), kicked_of (by decide +kernel)⟩

/-- A run of `MMAG` with one listed row, and values of a block sum. -/
theorem witness_ArrayTurns :
    (let r : MmaRun := { gather := true, fa := 0, fb := 0, dA := 0, dB := 0, kb := 1, rows := [(0, 31, false)], dst := 0, tm := 1, tn := 1,
                         tile := 0, turn := 0, st := 0, num := 0, ready := 0 }
     r.gather = true ∧ (∀ p ∈ r.rows, p.2.1 < 32) ∧ (probeBlock 0).unseen = [] ∧ 0 < 32 ∧ 1 ≠ r.tileNo) ∧
    (FV.isNan (.nan false) = true ∧ FV.isInf (.inf false) = true ∧ FV.isZero (.fin false 0 0) = true ∧
      fprod (.inf true) (.fin false 1 0) = .inf true ∧ fprod (.inf false) (.fin false 1 0) = .inf false ∧
      (127 : Byte) ≠ 0xFF ∧ FV.isNan (.fin false 1 0) = false ∧ FV.isInf (.fin false 1 0) = false) ∧
    (({ pc := 0 } : Seq).ending = false) := by
  decide +kernel

/-- Two partials staged for a grid without blocks, at 0x1000. -/
def stagedOf (w v : Nat) : Staged := ⟨0, 0x1000, .n32, 0, 0, 0, 0, 0, w, BitVec.ofNat 64 v⟩
def mergeState : State := { grids := [{ probeGrid with endedBlocks := [0] }], staged := [stagedOf 1 5, stagedOf 0 7] }

theorem witness_PartialsMerged :
    (mergeState.grid? 0).any (fun g => mergeState.blocksGone g && !g.recover && !Rec.rbk g.record) = true ∧
    mergeState.castle.moves = [] ∧ mergeState.poison = [] ∧ mergeState.msgs = [] ∧
    (List.range 64).any (fun sl => !(mergeState.mergeOf 0 sl).isEmpty &&
      (mergeState.mergeOf 0 sl).all (fun p => !mergeState.locked (p.pa / 128) && !mergeState.parked? (p.pa / 128) &&
        !mergeState.lost (p.pa / 128) && p.pa % tyBytes p.ty == 0)) = true ∧
    (stagedOf 0 7).before (stagedOf 1 5) = true ∧ (stagedOf 1 5).before (stagedOf 0 7) = false := by
  decide +kernel

/-- A page table at 0x1000 whose entries are those of a walk of address 0: a leaf of 64 KiB at 0x20000 in level 4. -/
def tableState (leaf : Nat) : State :=
  { cores := [Core.reset 0], ctxs := { cvalid := true, ptroot := 0x1000 } :: List.replicate 15 {}
    mem := [(0x1000, 1), (0x1001, 0x20), (0x2000, 1), (0x2001, 0x30), (0x3000, 1), (0x3001, 0x40), (0x4000, 1), (0x4001, 0x50)] ++
      (if leaf = 0 then [] else [(0x5000, BitVec.ofNat 8 leaf), (0x5002, 2)]) }
def entry0 (pte : DWord) : TlbEntry := { ctx := 0, page := 0, size := 65536, pte := pte, at_ := .mem 0x20000, la := 0xA0 }
def tlbState (pte : DWord) : State := { tableState 0x0F with cores := [{ Core.reset 0 with tlb := [entry0 pte] }] }

theorem witness_Translation :
    ((tableState 0x0F).walk 0 0).toOption.any (fun l => l.lv == 4 && pteAllows l.pte .write && !pteAllows l.pte .fetch) = true ∧
    ((tableState 0).walk 0 0).toOption = none ∧
    ((tableState 0x0F).context 0).ptroot ≠ 0 ∧ (({} : State).context 0).ptroot = 0 ∧
    ((tableState 0x0F).core 0).tlbHit 0 0 = none ∧
    (entryAddr 0 0 0x1000 = 0x1000 ∧ (tableState 0x0F).lineBusy (0x1000 / 128) = false ∧ (tableState 0x0F).poisoned (0x1000 / 128) = false ∧
      ({ tableState 0x0F with poison := [0x20] } : State).poisoned (0x1000 / 128) = true) ∧
    (let e := (tableState 0x0F).readNat 0x5000 8
     e.testBit 0 = true ∧ e.testBit 1 = true ∧ e.testBit 7 = false ∧ field e 57 7 = 0 ∧ field e 5 2 = 0 ∧ field e 47 10 = 0 ∧
       (256 * field e 8 39) % pageBytes 4 = 0 ∧ (tierOf (256 * field e 8 39)).isSome = true) ∧
    (let e := (tableState 0x0F).readNat 0x1000 8
     e.testBit 0 = true ∧ e.testBit 1 = false ∧ field e 2 5 = 0 ∧ field e 47 10 = 0 ∧ (256 * field e 8 39) % 4096 = 0) ∧
    (Nat.testBit 0x80 7 = true) ∧
    (((tlbState 0x2000F).core 0).tlbHit 0 0 = some (entry0 0x2000F) ∧ pteAllows (0x2000F : DWord).toNat .write = true ∧
      ((tlbState 0x20007).core 0).tlbHit 0 0 = some (entry0 0x20007) ∧ pteAllows (0x20007 : DWord).toNat .write = false ∧
      0 < (tlbState 0x20007).cores.length ∧ ((tlbState 0x20007).walk 0 0).toOption.any (fun l => pteAllows l.pte .write) = true) ∧
    (let s : State := { ctxs := [{ cvalid := true, hbase := 0x1000, hlim := 0x1000, hrd := true }] }
     (s.context 0).cvalid = true ∧ (s.context 0).hbase.toNat ≤ 0x1FFF ∧ 0x1FFF < (s.context 0).hbase.toNat + (s.context 0).hlim.toNat ∧
       (s.context 0).hrd = true ∧ (s.context 0).hwr = false) ∧
    (2 ^ 57 ≤ (0x0200000000000000 : DWord).toNat ∧ 0x01FFFFFFFF800000 ≤ (BitVec.ofNat 64 windowBase).toNat ∧
      (BitVec.ofNat 64 windowBase).toNat < 2 ^ 57) ∧
    (let s : State := { castle := { moves := [{ move64 with rec_ := 0x100 }] } }
     s.castle.moves.find? (fun m => m.rec_ = 256 * field (2 ^ 6 + 2 ^ 8) 8 39) = some { move64 with rec_ := 0x100 } ∧
       field (2 ^ 6 + 2 ^ 8) 5 2 = 2) ∧
    ({} : State).lost 0 = false := by
  decide +kernel

/-- The first place of the probed warp's frame may be written now, in memory of its die, in memory of another, or in a
scratchpad. -/
def frameB (s : State) (q : State → Block → Loc → Bool) : Bool :=
  warpB s (fun b x => !x.inTrap && (s.grid? 0).any (fun g => Rec.trapv g.record &&
    (match s.frameLocs b g (frameAddr g.record wid) with
     | (s1, .ok ((_, some l) :: _)) => s1.lineNow b (some l) && q s1 b l
     | _ => false)))
/-- `trapState` with the frames from `o` on. -/
def frameAt (o : Nat) : State :=
  { trapState id with grids := [{ probeGrid with record := probeRecord ||| BitVec.ofNat 1024 (2 ^ 87 + 2 ^ 145 + o * 2 ^ 320) }] }

theorem witness_TrapFrame :
    (List.range 64).any (fun k => frameB (frameAt (128 * k)) (fun s1 b l => match l with
      | .mem pa => homeDie (pa / 128) == dieOfCore b.core && !s1.lost (pa / 128) && s1.msgs.isEmpty
      | _ => false)) = true ∧
    (List.range 64).any (fun k => frameB (frameAt (128 * k)) (fun s1 b l => match l with
      | .mem pa => homeDie (pa / 128) != dieOfCore b.core && decide (dieOfCore b.core < s1.dies.length)
      | _ => false)) = true ∧
    frameB (frameAt (windowBase + 0x4000)) (fun s1 _ l => match l with
      | .scratch v _ => (s1.block? v).isSome
      | _ => false) = true ∧
    warpB { trapState id with ctxs := [] } (fun b x => !x.inTrap && (({ trapState id with ctxs := [] } : State).grid? 0).any (fun g =>
      match ({ trapState id with ctxs := [] } : State).frameLocs b g (frameAddr g.record wid) with
      | (_, .error _) => true
      | _ => false)) = true := by
  decide +kernel

/-- A command that the Castle engine carries out at once. -/
theorem witness_EngineFree :
    (∀ n, n ≤ 4 → engineFree {} n) ∧ engineFree (moving move64) 1 ∧ engineFree { mem := moveMem } 1 ∧ engineFree ckState 3 ∧
    engineFree { castle := { hotbase := 0x1000, hot := [(3, 7)] } } 4 ∧ (moving move64).moveParked move64 0 move64.lines = false ∧
    ckState.runHeld = false ∧ recoverState.undoHeld (recoverState.qctx 0) = false := by
  unfold engineFree heard
  refine ⟨fun n h => ?_, by decide +kernel, by decide +kernel, by decide +kernel, by decide +kernel, by decide +kernel, by decide +kernel,
    by decide +kernel⟩
  match n, h with
  | 0, _ | 1, _ | 2, _ | 3, _ | 4, _ => decide +kernel

/-- A move whose leaf names a destination of this device, and one with its chunk whole. -/
theorem witness_CastleAborts :
    (let s := moving { move64 with leafHit := true }
     s.castle.moves[0]? = some { move64 with leafHit := true } ∧ move64.phase = .copying ∧ move64.leafHit = false ∧ s.msgs = [] ∧
       512 * (move64.chunk + 1) ≤ move64.lines ∧ move64.rec_ % 256 = 0 ∧ (∀ i, i < 128 → s.lost ((move64.rec_ + i) / 128) = false)) := by
  decide +kernel

end Sys2Proof.Tests
end

/-! ## Words of the groups of control, uniform and vector integer instructions

Each of these words ends in one of a few bodies (`Ctx.done`, `Ctx.jump`, `Ctx.outU`, `Ctx.doneV`, ...). What a word leaves
is proved once per body; a word's own proof then names its body and the value that it gives. -/

namespace Sys2Proof.Machine

open Sys2Proof.Claims

/-! ### Transfers of control (R103, R105) -/

section Transfers

variable {i : Instr} {sh : Shape}

/-- A word whose body jumps changes the PC alone. -/
theorem completes_of_jump {target : Ctx → DWord} {row7 : Ctx → Option TrapInfo}
    (he : ∀ s, exec i s = issueW sh (fun c => c.jump (target c)) s row7) :
    Completes i sh { row7 := row7, pc := target } := by
  refine completes_of_go (pc := fun c => some (target c)) (nb := fun _ => 0) he ?_ (fun _ => rfl) (fun _ => keepsRegs_id)
  intro c _
  rw [State.setWarp_id]
  rfl

/-- A word that jumps under a condition and otherwise goes on to the next slot changes the PC alone. -/
theorem completes_of_branch {taken : Ctx → Prop} [DecidablePred taken] {target pc : Ctx → DWord}
    (he : ∀ s, exec i s = issueW sh (fun c => if taken c then c.jump (target c) else c.done []) s)
    (hpc : ∀ c, pc c = if taken c then target c else nextPc c.pc) : Completes i sh { pc := pc } := by
  refine completes_of_go (pc := fun c => if taken c then some (target c) else none) (nb := fun _ => 0) he ?_ ?_
    (fun _ => keepsRegs_id)
  · intro c _
    rw [State.setWarp_id]
    by_cases h : taken c
    · simp only [h, if_true]; rfl
    · simp only [h, if_false]; rfl
  · intro c
    rw [show ({ pc := pc } : Effect).pc c = pc c from rfl, hpc]
    by_cases h : taken c <;> simp [h]

end Transfers

/-- The statement's tested value of `BRZ` and `BRNZ` is the model's (R103). -/
theorem testOf_eq_brTest (c : Ctx) (o : Opnd) : testOf c o = brTest c o := by
  cases o <;> rfl

/-- While a warp holds the turn, `NOP` is a word without results (R86). -/
theorem execNop_of_warp {s : State} {w : WarpId} (f : JForm) (h : s.cur = some (.warp w)) :
    execNop f s = issueW (shNop f) (fun c => c.done []) s := by
  simp only [execNop, issueW, h]

theorem nop_gives (f : JForm) : Gives (.nop f) (shNop f) (fun _ => []) := by
  intro s w c hI _
  rw [show exec (.nop f) s = execNop f s from rfl, execNop_of_warp f hI.1]
  refine issueW_go (shNop f) noRow7 _ s w c (fun x => x) [] none 0 hI ?_ keepsRegs_id
  rw [State.setWarp_id]
  rfl

/-- Settles O1: each transfer is a jump, or a jump under the condition that R103 tests. -/
theorem transfersOfControl : Obligations.TransfersOfControl := by
  refine ⟨nop_gives, fun f => completes_of_jump fun _ => rfl, fun f => ?brz, fun f => ?brnz,
    fun f => completes_of_jump fun _ => rfl⟩
  case brz =>
    refine completes_of_branch (taken := fun c => brTest c f.a = 0) (fun _ => rfl) fun c => ?_
    rw [testOf_eq_brTest]
  case brnz =>
    refine completes_of_branch (taken := fun c => brTest c f.a ≠ 0) (fun _ => rfl) fun c => ?_
    rw [testOf_eq_brTest, ite_not]

/-! ### Results in S registers (R14, R115-R127) -/

section Uniform

variable {i : Instr} {sh : Shape} {f : RForm} {v : Ctx → Nat}

/-- A uniform word that writes one value of its type. -/
theorem gives_of_outU (he : ∀ s, exec i s = issueW sh (fun c => c.outU f.d f.ty (v c)) s) : Gives i sh (uniOut f v) :=
  gives_of_done he fun _ => rfl

/-- A uniform word of an exact-value operation of R116. -/
theorem gives_of_uniOp (o : IOp) (he : ∀ s, exec i s = uniOp o sh f s)
    (hv : ∀ c : Ctx, iop o f.ty f.sat (c.uniN f.ty f.a) (c.uniN f.ty f.b) (c.uniN f.ty f.c) = v c) :
    Gives i sh (uniOut f v) :=
  funext hv ▸ gives_of_outU he

/-- A uniform shift (R117). -/
theorem gives_of_uniShift (o : ShOp) (he : ∀ s, exec i s = uniShift o f s) :
    Gives i (shSshl f) (uniOut f fun c => ishift o (tyW f.ty) (c.uniN f.ty f.a) (c.uni32 f.b)) :=
  gives_of_outU he

/-- A uniform word that writes 32 bits whatever its type. -/
theorem gives_of_out32 (he : ∀ s, exec i s = issueW sh (fun c => c.out32 f.d (v c)) s) :
    Gives i sh (fun c => outS c.anyActive (opndNum f.d) false (v c)) :=
  gives_of_done he fun _ => rfl

end Uniform

theorem iop_min (t : Ty) (sat : Bool) (a b c : Nat) :
    iop .min t sat a b c = wrapW (tyW t) (min (tyVal t a) (tyVal t b)) := by
  have hmin : (if tyVal t b < tyVal t a then tyVal t b else tyVal t a) = min (tyVal t a) (tyVal t b) := by
    split <;> omega
  exact congrArg (wrapW (tyW t)) hmin

theorem iop_max (t : Ty) (sat : Bool) (a b c : Nat) :
    iop .max t sat a b c = wrapW (tyW t) (max (tyVal t a) (tyVal t b)) := by
  have hmax : (if tyVal t a < tyVal t b then tyVal t b else tyVal t a) = max (tyVal t a) (tyVal t b) := by
    split <;> omega
  exact congrArg (wrapW (tyW t)) hmax

/-- Settles O5: every word is one value of its type, most of them by an operation of R116 or a shift of R117. -/
theorem uniformArithmetic : Obligations.UniformArithmetic :=
  ⟨fun _ => gives_of_outU fun _ => rfl,
   fun _ => gives_of_done (fun _ => rfl) fun _ => rfl,
   fun _ => gives_of_uniOp .add (fun _ => rfl) fun _ => rfl,
   fun _ => gives_of_uniOp .sub (fun _ => rfl) fun _ => rfl,
   fun _ => gives_of_uniOp .mul (fun _ => rfl) fun _ => rfl,
   fun _ => gives_of_uniOp .mad (fun _ => rfl) fun _ => rfl,
   fun _ => gives_of_uniOp .mulh (fun _ => rfl) fun _ => rfl,
   fun _ => gives_of_uniOp .min (fun _ => rfl) fun _ => iop_min ..,
   fun _ => gives_of_uniOp .max (fun _ => rfl) fun _ => iop_max ..,
   fun _ => gives_of_uniOp .and (fun _ => rfl) fun _ => rfl,
   fun _ => gives_of_uniOp .or (fun _ => rfl) fun _ => rfl,
   fun _ => gives_of_uniOp .xor (fun _ => rfl) fun _ => rfl,
   fun _ => gives_of_uniOp .not (fun _ => rfl) fun _ => rfl,
   fun _ => gives_of_uniShift .shl fun _ => rfl,
   fun _ => gives_of_uniShift .shr fun _ => rfl,
   fun _ => gives_of_uniShift .sar fun _ => rfl⟩

/-! ### Comparison, selection, fields and moves (R118-R127, R135-R142) -/

/-- The statement's condition codes are the model's (R119, R141). -/
theorem holds_eq_icond (cc : Nat) (a b : Int) : holds cc a b = icond cc a b := by
  match cc with
  | 0 => rfl
  | 1 => by_cases h : a = b <;> simp [holds, icond, h]
  | 2 | 3 | 4 | _ + 5 => rfl

/-- In checked mode `SFROMV` reads on where its lane's slot is covered and not pending (R125). -/
theorem sfromv_completes (f : RForm) : Completes (.sfromv f) (shSfromv f)
    { pre := fun c => c.chk = true → ∀ r ∈ opndRegs { cls := [.v], n := if tyWide f.ty then 2 else 1 } f.a,
        c.w.win.badSlot r (c.uni32 f.b % 32) = false,
      out := uniOut f fun c => c.vecN f.ty f.a (c.uni32 f.b % 32) } := by
  refine completes_of_go (pc := fun _ => none) (nb := fun _ => 0) (fun _ => rfl) ?_ (fun _ => rfl) (fun _ => keepsRegs_id)
  intro c hpre
  have hfree : (c.chk && (opndRegs { cls := [.v], n := if tyWide f.ty then 2 else 1 } f.a).any
      (fun r => c.w.win.badSlot r (c.uni32 f.b % 32))) = false := by
    by_cases hchk : c.chk = true
    · simpa [hchk] using hpre hchk
    · simp [hchk]
  simp only [hfree, Bool.false_eq_true, if_false]
  rw [State.setWarp_id]
  rfl

theorem scmp_gives (f : RForm) : Gives (.scmp f) (shScmp f) (fun c => outS c.anyActive (opndNum f.d) false
    (b2n (holds f.sub.toNat (c.uniZ f.ty f.a) (c.uniZ f.ty f.b)))) := by
  simp only [holds_eq_icond]
  exact gives_of_out32 fun _ => rfl

/-- R120: the value of C that is zero selects B. -/
theorem ssel_gives (f : RForm) : Gives (.ssel f) (shSsel f)
    (uniOut f fun c => if c.uni32 f.c = 0 then c.uniN f.ty f.b else c.uniN f.ty f.a) := by
  refine gives_of_done (fun _ => rfl) fun c => ?_
  simp only [uniOut, ite_not]
  rfl

theorem uniformSelection : UniformSelection :=
  ⟨scmp_gives,
   ssel_gives,
   fun _ => gives_of_outU fun _ => rfl,
   fun _ => gives_of_outU fun _ => rfl,
   fun _ => gives_of_out32 fun _ => rfl,
   fun _ => gives_of_out32 fun _ => rfl,
   fun _ => gives_of_done (fun _ => rfl) fun _ => rfl,
   fun _ => gives_of_done (fun _ => rfl) fun _ => rfl,
   sfromv_completes,
   fun _ => gives_of_out32 fun _ => rfl,
   fun _ => gives_of_done (fun _ => rfl) fun _ => rfl⟩

section Vector

variable {i : Instr} {sh : Shape} {f : RForm}

/-- A vector word that writes one value of its type in each lane with `regwrite`. -/
theorem gives_of_doneV {v : Ctx → Nat → Nat} (he : ∀ s, exec i s = issueW sh (fun c => c.doneV f f.ty (v c)) s) :
    Gives i sh (vecOut f v) :=
  gives_of_done he fun _ => rfl

/-- A vector word that writes 32 bits in each lane with `regwrite`, whatever its type. -/
theorem gives_of_doneV32 {v : Ctx → Nat → Nat} (he : ∀ s, exec i s = issueW sh (fun c => c.doneV32 f (v c)) s) :
    Gives i sh (fun c => outV (c.regwrite f.g) (opndNum f.d) false (v c)) :=
  gives_of_done he fun _ => rfl

/-- A vector word that writes a condition of each lane with `regwrite` to a K register. -/
theorem gives_of_doneK {p : Ctx → Nat → Bool} (he : ∀ s, exec i s = issueW sh (fun c => c.doneK f (p c)) s) :
    Gives i sh (fun c => outK (c.regwrite f.g) (opndNum f.d) (ofMask (p c))) :=
  gives_of_done he fun _ => rfl

end Vector

/-- The statement's selection of `VSEL` is the model's (R137). -/
theorem Ctx.picks_eq_selOf (c : Ctx) (o : Opnd) (l : Nat) : c.picks o l = c.selOf o l := by
  cases o <;> rfl

theorem vcmp_gives (f : RForm) : Gives (.vcmp f) (shVcmp f) (fun c => outK (c.regwrite f.g) (opndNum f.d)
    (ofMask fun l => holds f.sub.toNat (c.vecZ f.ty f.a l) (c.vecZ f.ty f.b l))) := by
  simp only [holds_eq_icond]
  exact gives_of_doneK fun _ => rfl

theorem vsel_gives (f : RForm) : Gives (.vsel f) (shVsel f)
    (vecOut f fun c l => if c.picks f.c l then c.vecN f.ty f.a l else c.vecN f.ty f.b l) := by
  simp only [Ctx.picks_eq_selOf]
  exact gives_of_doneV fun _ => rfl

theorem vectorSelection : VectorSelection :=
  ⟨vcmp_gives,
   vsel_gives,
   fun _ => gives_of_doneV fun _ => rfl,
   fun _ => gives_of_doneV fun _ => rfl,
   fun _ => gives_of_doneV32 fun _ => rfl,
   fun _ => gives_of_doneV32 fun _ => rfl,
   fun _ => gives_of_doneV fun _ => rfl,
   fun _ => gives_of_done (fun _ => rfl) fun _ => rfl,
   fun _ => gives_of_doneV32 fun _ => rfl,
   fun _ => gives_of_done (fun _ => rfl) fun _ => rfl,
   fun _ => gives_of_done (fun _ => rfl) fun _ => rfl⟩

/-- Settles O49: the uniform words and the vector words, each by the body that it ends in. -/
theorem selection : Obligations.Selection :=
  ⟨uniformSelection, vectorSelection⟩

end Sys2Proof.Machine

/-! ## Vector arithmetic and logic (R128-R135) -/

namespace Sys2Proof.Machine

open Sys2Proof.Claims

section VectorArithmetic

variable {i : Instr} {sh : Shape} {f : RForm} {v : Ctx → Nat → Nat}

/-- A vector word of an exact-value operation of R116, lane by lane (R133). -/
theorem gives_of_vecOp (o : IOp) (he : ∀ s, exec i s = vecOp o sh f s)
    (hv : ∀ (c : Ctx) (l : Nat), iop o f.ty f.sat (c.vecN f.ty f.a l) (c.vecN f.ty f.b l) (c.vecN f.ty f.c l) = v c l) :
    Gives i sh (vecOut f v) :=
  (funext fun c => funext (hv c)) ▸ gives_of_doneV he

/-- A vector shift: the functions of R117, with the count of each lane from its 32-bit B. -/
theorem gives_of_vecShift (o : ShOp) (he : ∀ s, exec i s = vecShift o f s) :
    Gives i (shVshl f) (vecOut f fun c l => ishift o (tyW f.ty) (c.vecN f.ty f.a l) (c.vecN .n32 f.b l)) :=
  gives_of_doneV he

end VectorArithmetic

/-- R134: the exact value that `VABS` reduces is the absolute value of A, also where no positive counterpart fits. -/
theorem iabs_eq_ireduce_natAbs (t : Ty) (sat : Bool) (a : Nat) :
    iabs t sat a = ireduce t sat ((tyVal t a).natAbs : Int) := by
  have habs : (if tyVal t a < 0 then -tyVal t a else tyVal t a) = ((tyVal t a).natAbs : Int) := by
    split <;> omega
  exact congrArg (ireduce t sat) habs

theorem vabs_gives (f : RForm) : Gives (.vabs f) (shVabs f)
    (vecOut f fun c l => ireduce f.ty f.sat ((c.vecZ f.ty f.a l).natAbs : Int)) := by
  simp only [Ctx.vecZ, ← iabs_eq_ireduce_natAbs]
  exact gives_of_doneV fun _ => rfl

/-- Settles O6: every word is one value of its type in each lane, most of them by an operation of R116 or a shift of
R117; `VABS` reduces the absolute value. -/
theorem vectorArithmetic : Obligations.VectorArithmetic :=
  ⟨fun _ => gives_of_doneV fun _ => rfl,
   fun _ => gives_of_done (fun _ => rfl) fun _ => rfl,
   fun _ => gives_of_vecOp .add (fun _ => rfl) fun _ _ => rfl,
   fun _ => gives_of_vecOp .sub (fun _ => rfl) fun _ _ => rfl,
   fun _ => gives_of_vecOp .mul (fun _ => rfl) fun _ _ => rfl,
   fun _ => gives_of_vecOp .mad (fun _ => rfl) fun _ _ => rfl,
   fun _ => gives_of_vecOp .mulh (fun _ => rfl) fun _ _ => rfl,
   fun _ => gives_of_vecOp .min (fun _ => rfl) fun _ _ => iop_min ..,
   fun _ => gives_of_vecOp .max (fun _ => rfl) fun _ _ => iop_max ..,
   vabs_gives,
   fun _ => gives_of_vecOp .and (fun _ => rfl) fun _ _ => rfl,
   fun _ => gives_of_vecOp .or (fun _ => rfl) fun _ _ => rfl,
   fun _ => gives_of_vecOp .xor (fun _ => rfl) fun _ _ => rfl,
   fun _ => gives_of_vecOp .not (fun _ => rfl) fun _ _ => rfl,
   fun _ => gives_of_vecShift .shl fun _ => rfl,
   fun _ => gives_of_vecShift .shr fun _ => rfl,
   fun _ => gives_of_vecShift .sar fun _ => rfl⟩

end Sys2Proof.Machine
